-- ==== Sys2Proof/Word.lean ====
section
/-! DEFINITION. The words of the machine: a byte, a 64-bit register, a vector register, a predicate, a scale side-array,
and the plainest arithmetic on them. -/

namespace Sys2Proof

/-- One byte of memory (R2). -/
abbrev Byte := BitVec 8

/-- A scalar register (R114). -/
abbrev Word := BitVec 64

/-- A vector register: 256 bits in each of 32 lanes, hart lane j at bits [256j+255:256j] (R32). -/
abbrev VReg := BitVec 8192

/-- A predicate: bit i for element i (R147). -/
abbrev Pred := BitVec 8192

/-- The scale side-array of one register: 64 entries of 16 bits, entry k at bits [16k+15:16k] (R59). -/
abbrev Side := BitVec 1024

end Sys2Proof
end

