-- ==== Sys2Proof/Syntax.lean ====
section
/-! DEFINITION. The instruction set: one constructor per row of the opcode table. The 79 steps of the device,
whose operands say which hart, queue, trunk, line or row the step concerns, and the 267 instruction words of R78 to R105 with
the fields the table gives them (the E bit belongs to the word, not to the instruction: R78). -/

namespace Sys2Proof

/-- Who of the host writes a doorbell, and of which launch queue (R241, R298). -/
structure HostRing where
  rq : Nat
  queue : BitVec 6
  deriving DecidableEq, Repr

/-- A host access: its requester, its Relaxed Ordering attribute, and whether it writes (R241). -/
structure HostAccess where
  rq : Nat
  relaxed : Bool
  write : Bool
  deriving DecidableEq, Repr

/-- The rows of the opcode table. Field letters of the words are those of the table. -/
inductive Instr where
  /-- DOORBELL (R298): A write of a queue's TAIL adds packets, or is ignored and sets OVF when the ring would overflow. -/
  | doorbell (q : HostRing) (tail : BitVec 32)
  /-- GANG_ABORT (R336): A write of a GANGID to the abort register stops the gang and writes a CODE 3 completion record. -/
  | gangAbort (id : Word)
  /-- DEVICE_REGISTER_WRITE (R403): A write to a device register without behaviour of its own, merged by bytes and refused where its block says. -/
  | deviceRegisterWrite (off : BitVec 44) (lg : BitVec 2) (val : Word)
  /-- SERAI_WRITE (R218): A write of SERAId resizes the die's Serai, writing back and dropping L2 lines, or is refused. -/
  | seraiWrite (d : BitVec 2) (val : Word)
  /-- LLCREQ_WRITE (R228): A write of LLCREQ requests a change of the LLC slice count, started or held. -/
  | llcreqWrite (val : Word)
  /-- TGAPPLY (R222): Writing 1 applies all shadow tile-geometry entries as one slice-map change. -/
  | tgapply (val : Word)
  /-- SWAP (R225): Writing 1 requests a swap of slot-table banks at the next frame start. -/
  | swap (val : Word)
  /-- RETRAIN (R369): Writing 1 starts a new series of up to three retraining attempts of a down trunk. -/
  | retrain (t : BitVec 4) (val : Word)
  /-- GETREPORT (R395): Mailbox command returning the self-test failure report in DATA. -/
  | getreport
  /-- GETMANIFEST (R396): Mailbox command returning an unsigned Manifest body with present values. -/
  | getmanifest
  /-- INSTKEY (R396): Mailbox command installing the Manifest public keys once per reset. -/
  | instkey
  /-- FWLOAD (R396): Mailbox command reading and verifying a firmware image for the next reset. -/
  | fwload
  /-- SWITCHOUT (R396): Mailbox command requesting a full context switch of a given hart. -/
  | switchout
  /-- RESUMEH (R396): Mailbox command letting a halted hart continue at its next convoy. -/
  | resumeh
  /-- GETEVENT (R396): Mailbox command returning and removing the oldest event record. -/
  | getevent
  /-- PACKET_OFFER (R302): The LFE reads and checks the packet at an enabled queue's head. -/
  | packetOffer (q : BitVec 6)
  /-- WATERMARK_READ (R22): The LFE rereads a held packet's watermark until it reaches WBOUND, as an acquire. -/
  | watermarkRead (q : BitVec 6)
  /-- LAUNCH_AGING (R45): Every 65,536 cycles an offered packet gains one priority level up to 6. -/
  | launchAging (q : BitVec 6)
  /-- GANG_SERVE (R302): The LFE serves the offered packet or switched-out hart of highest effective priority. -/
  | gangServe
  /-- GANG_PLACEMENT (R303): All harts of the served gang are placed at once with their entry state. -/
  | gangPlacement (places : List Nat)
  /-- RECLAIM_DEADLINE (R42): A victim that misses 262,144 cycles is switched out at its next boundary. -/
  | reclaimDeadline (h : Nat)
  /-- FULL_CONTEXT_SWITCH (R314): At a convoy boundary with a free frame, the hart's state is saved and its slot and lanes freed. -/
  | fullContextSwitch (h : Nat)
  /-- HART_RESUME (R314): A switched-out hart is placed on a free slot, restored from its frame and continues. -/
  | hartResume (k h : Nat)
  /-- COMPLETION_RECORD (R305): After all harts exit and writes perform, the LFE writes the record, STATUS last as a release. -/
  | completionRecord (id : Word)
  /-- PARKED_HART_GRANT (R39): A hart parked with no lanes completes its length-setting instruction when a group frees. -/
  | parkedHartGrant (h : Nat)
  /-- VREL_GROUP_RELEASE (R144): Groups released by vrel pass on once earlier vector convoys have drained. -/
  | vrelGroupRelease (h : Nat)
  /-- VECTOR_CONVOY_START (R30): A queued vector convoy starts when the previous vector convoy has drained. -/
  | vectorConvoyStart (h : Nat) (mis : Option (BitVec 14))
  /-- CONVOY_RETIRE (R323): A convoy retires, merging flags and releasing held effects, after older vector convoys retire. -/
  | convoyRetire (h : Nat)
  /-- ELEMENT_STEP (R400): Under STEP 2 one step of the convoy is performed and a debug event raised. -/
  | elementStep (h : Nat)
  /-- INSTRUCTION_BREAKPOINT (R399): A convoy at IBA about to issue raises a debug event. -/
  | instructionBreakpoint (h : Nat)
  /-- TRAP_DELIVERY (R325): The trapping convoy is squashed or suspended, the Waybill and trap CSRs written, and the hart goes to TVEC. -/
  | trapDelivery (h : Nat)
  /-- POISON_CONSUMED (R358): An access needing a poisoned byte raises CODE 0x10 or rewinds. -/
  | poisonConsumed (h : Nat)
  /-- STALL_FAULT (R333): A request waiting on a trunk past STALLTHR raises CODE 0x11. -/
  | stallFault (h : Nat)
  /-- MIGRATION_FAULT (R295): An instruction held past MIGTHR raises a precise migration fault. -/
  | migrationFault (h : Nat)
  /-- PASS_COMPLETE (R205): A matrix pass completes, its monitors are judged and it is accepted or replayed one level wider. -/
  | passComplete (h : Nat)
  /-- COW_RESOLUTION (R291): A write meeting a COW leaf is resolved in hardware by copy or by taking ownership. -/
  | cowResolution (h : Nat) (va : Word)
  /-- PAGE_WALK (R287): The walker pool walks the page tables for a translation miss. -/
  | pageWalk (h : Nat) (va : Word)
  /-- HOTNESS_ADDITION (R292): A retired vector instruction's element counts are added to the page's hotness entry. -/
  | hotnessAddition (k : Nat)
  /-- PUBLICATION (R143): An smb publication adds n to the watermark as a release after earlier writes perform. -/
  | publication (h : Nat)
  /-- VSETVLW_SATISFIED (R141): The watermark read satisfies the bound and the length is set. -/
  | vsetvlwSatisfied (h : Nat)
  /-- VWAIT_ROUND (R184): A round of watched reads completes, ending the wait when all satisfy. -/
  | vwaitRound (h : Nat)
  /-- PSWAIT_SATISFIED (R277): A commit raises VER to the bound and the waiting hart continues. -/
  | pswaitSatisfied (h : Nat)
  /-- EXIT_GDROP_APPLY (R307): A drop made by exit is applied at its barrier after the hart's accesses perform. -/
  | exitGdropApply (k : Nat)
  /-- LAUNCH_ACCEPT (R301): After the hart's accesses perform, the LFE accepts or refuses the launched packet. -/
  | launchAccept (h : Nat)
  /-- VXSEND_PUSH (R310): Lane FIFOs gain room and the waiting vxsend pushes its slices. -/
  | vxsendPush (h : Nat)
  /-- VXRECV_POP (R310): Lane FIFOs fill and the waiting vxrecv pops its slices. -/
  | vxrecvPop (h : Nat)
  /-- FENCE_W_COMPLETE (R131): The last acknowledgement of the hart's earlier writes arrives and fence.w completes. -/
  | fenceWComplete (h : Nat)
  /-- WRITE_PERFORMED (R231): A write or atomic is applied at its ordering point and takes its place in the write order. -/
  | writePerformed (k units grow : Nat)
  /-- SLICE_REQUEST (R364): A request arrives at an LLC slice and is served, rehashed or held by epoch. -/
  | sliceRequest (core line : Nat) (write : Bool) (epoch : BitVec 32) (full : Bool)
  /-- RETRY_RESEND (R363): A request refused by a full miss table is sent again. -/
  | retryResend (k : Nat)
  /-- RESERVE_EVICTION (R362): A slice whose chunk reserve is short evicts lines until it is whole. -/
  | reserveEviction (slice chunks : Nat)
  /-- SLICE_MAP_CHANGE (R364): The epoch advances and lines are handed to new homes, then a kind 0x08 record is logged. -/
  | sliceMapChange (lines : List Nat) (done : Bool)
  /-- SLOT_BANK_SWAP (R225): At a frame start the requested slot-table bank becomes active on all trunks. -/
  | slotBankSwap
  /-- SLOT_DEPARTURE (R226): A transmit slot departs with its Route's requests and leftover places for Route 0. -/
  | slotDeparture (t : BitVec 4)
  /-- DRAWER_RETURN (R226): Read data or an acknowledgement returns DLAT slots after its transmit slot. -/
  | drawerReturn (t : BitVec 4)
  /-- FLIT_CHECK_FAILURE (R366): A flit fails its check and is repeated in the next slot of its Route. -/
  | flitCheckFailure (t : BitVec 4)
  /-- TRUNK_RETRAIN_START (R367): After 16 repeated flits in a frame or loss of lock a trunk starts retraining. -/
  | trunkRetrainStart (t : BitVec 4) (lock : Bool)
  /-- RETRAIN_ATTEMPT_END (R367): A retraining attempt ends; the trunk returns at 8, 6 or 4 fibres or tries again. -/
  | retrainAttemptEnd (t : BitVec 4) (fib : Nat)
  /-- CORRECTED_ERROR (R356): A soft error is corrected in place and counted. -/
  | correctedError (k : BitVec 3)
  /-- POISON_CREATED (R357): An uncorrectable error poisons its unit and logs a record. -/
  | poisonCreated (pa : Nat) (mem : BitVec 3) (packed : Bool)
  /-- TAG_DIRECTORY_ERROR (R359): An uncorrectable tag or directory error poisons the line or drops the entry. -/
  | tagDirectoryError (line : Nat) (dirty : Bool)
  /-- SEQUENCE_COUNTER_LOST (R365): A counter read with an uncorrectable error restarts at 0 and is logged. -/
  | sequenceCounterLost (line : Nat)
  /-- HOST_REQUEST (R241): A host read or write arrives over PCIe and is ordered by PCIe rules. -/
  | hostRequest (a : HostAccess) (pa n : Nat) (data : List Byte)
  /-- CXL_BACK_INVALIDATION (R230): A pool agent's write invalidates the LLC copy of a tier X line. -/
  | cxlBackInvalidation (pa : Nat) (data : List Byte)
  /-- NUMBERING (R260): The RNU translates and reads the set's tables and sketch and computes target rows. -/
  | numbering (psd : Nat)
  /-- IMPORT_VALIDATION (R261): The RNU checks an imported permutation before any row moves. -/
  | importValidation (psd : Nat)
  /-- ROW_MOVE_START (R263): Once forwarding out of the destination ends, a row is marked and copying starts. -/
  | rowMoveStart (psd cyc : Nat)
  /-- COPY_ROUND_COMPLETE (R263): A copy round completes; dirty segments are recopied or the lines are taken. -/
  | copyRoundComplete (psd cyc : Nat)
  /-- ROW_COMMIT (R267): Remaining dirty segments are copied, FWD, INV and VER are written and waiting accesses forwarded. -/
  | rowCommit (psd cyc : Nat)
  /-- PTC_ACK (R255): The last PTC acknowledges the commit's invalidation and forwarding at the old row ends. -/
  | ptcAck (psd row : Nat)
  /-- REORDER_STOP (R373): A move is abandoned before its commit and the reorder stops with REJ set. -/
  | reorderStop (psd cyc : Nat) (reason : BitVec 8)
  /-- SKETCH_UPDATE (R259): The RNU applies a recorded gather's counts and links to sketch records. -/
  | sketchUpdate (k : Nat)
  /-- MIGRATION_COMMIT (R294): After the copy, the leaf is rewritten to the new page, invalidated and marks released. -/
  | migrationCommit (h : Nat)
  /-- MIGRATION_ABANDON (R371): A pgmove whose copy stalls past the threshold is abandoned with the leaf unchanged. -/
  | migrationAbandon (h : Nat)
  /-- MODULE_RESET (R393): Module reset returns the module to Boot. -/
  | moduleReset
  /-- BOOT_VERIFY (R394): Firmware images are verified against fused key digests, leading to Selftest or Talk. -/
  | bootVerify
  /-- SELFTEST_COMPLETE (R393): Self-test ends and the module enters Run or Talk. -/
  | selftestComplete
  /-- PEER_MODULE_ACCESS (R13): A read, write or atomic of another module that shares the drawer is applied at the drawer to a shared region, taking its place in the write order and its sequence tag. -/
  | peerModuleAccess (kind : BitVec 2) (pa n : Nat) (data : List Byte)
  /-- MAILBOX_COMMAND_DONE (R396): A running mailbox command ends: RESULT, LEN and DATA are written, BUSY clears and DONE is set. -/
  | mailboxCommandDone
  /-- ADD (R116): rd receives rs1 plus rs2 modulo 2^64. -/
  | add (d a b : BitVec 5)
  /-- SUB (R116): rd receives rs1 minus rs2 modulo 2^64. -/
  | sub (d a b : BitVec 5)
  /-- AND (R116): rd receives the bitwise AND of rs1 and rs2. -/
  | and (d a b : BitVec 5)
  /-- OR (R116): rd receives the bitwise OR of rs1 and rs2. -/
  | or (d a b : BitVec 5)
  /-- XOR (R116): rd receives the bitwise XOR of rs1 and rs2. -/
  | xor (d a b : BitVec 5)
  /-- ANDN (R116): rd receives rs1 AND NOT rs2. -/
  | andn (d a b : BitVec 5)
  /-- ORN (R116): rd receives rs1 OR NOT rs2. -/
  | orn (d a b : BitVec 5)
  /-- SLL (R116): rd receives rs1 shifted left by rs2[5:0]. -/
  | sll (d a b : BitVec 5)
  /-- SRL (R116): rd receives rs1 shifted right logically by rs2[5:0]. -/
  | srl (d a b : BitVec 5)
  /-- SRA (R116): rd receives rs1 shifted right arithmetically by rs2[5:0]. -/
  | sra (d a b : BitVec 5)
  /-- ROTL (R116): rd receives rs1 rotated left by rs2[5:0]. -/
  | rotl (d a b : BitVec 5)
  /-- ROTR (R116): rd receives rs1 rotated right by rs2[5:0]. -/
  | rotr (d a b : BitVec 5)
  /-- SLT (R116): rd receives 1 if rs1 is below rs2 signed, else 0. -/
  | slt (d a b : BitVec 5)
  /-- SLTU (R116): rd receives 1 if rs1 is below rs2 unsigned, else 0. -/
  | sltu (d a b : BitVec 5)
  /-- MIN (R116): rd receives the signed minimum of rs1 and rs2. -/
  | min (d a b : BitVec 5)
  /-- MAX (R116): rd receives the signed maximum of rs1 and rs2. -/
  | max (d a b : BitVec 5)
  /-- MINU (R116): rd receives the unsigned minimum of rs1 and rs2. -/
  | minu (d a b : BitVec 5)
  /-- MAXU (R116): rd receives the unsigned maximum of rs1 and rs2. -/
  | maxu (d a b : BitVec 5)
  /-- MUL (R116): rd receives the low 64 bits of rs1 times rs2. -/
  | mul (d a b : BitVec 5)
  /-- MULH (R116): rd receives the high 64 bits of the signed product. -/
  | mulh (d a b : BitVec 5)
  /-- MULHU (R116): rd receives the high 64 bits of the unsigned product. -/
  | mulhu (d a b : BitVec 5)
  /-- DIV (R117): rd receives the signed quotient truncated toward zero, with defined edge results. -/
  | div (d a b : BitVec 5)
  /-- DIVU (R117): rd receives the unsigned quotient, all ones on division by zero. -/
  | divu (d a b : BitVec 5)
  /-- REM (R117): rd receives the signed remainder with the dividend's sign. -/
  | rem (d a b : BitVec 5)
  /-- REMU (R117): rd receives the unsigned remainder. -/
  | remu (d a b : BitVec 5)
  /-- CLZ (R116): rd receives the count of leading zero bits of rs1. -/
  | clz (d a : BitVec 5)
  /-- CTZ (R116): rd receives the count of trailing zero bits of rs1. -/
  | ctz (d a : BitVec 5)
  /-- POPC (R116): rd receives the number of one bits of rs1. -/
  | popc (d a : BitVec 5)
  /-- SEXTB (R116): rd receives rs1[7:0] sign-extended. -/
  | sextb (d a : BitVec 5)
  /-- SEXTH (R116): rd receives rs1[15:0] sign-extended. -/
  | sexth (d a : BitVec 5)
  /-- SEXTW (R116): rd receives rs1[31:0] sign-extended. -/
  | sextw (d a : BitVec 5)
  /-- ZEXTW (R116): rd receives rs1[31:0] zero-extended. -/
  | zextw (d a : BitVec 5)
  /-- ADDI (R118): rd receives rs1 plus the sign-extended immediate. -/
  | addi (d a : BitVec 5) (i : BitVec 13)
  /-- ANDI (R118): rd receives rs1 AND the sign-extended immediate. -/
  | andi (d a : BitVec 5) (i : BitVec 13)
  /-- ORI (R118): rd receives rs1 OR the zero-extended immediate. -/
  | ori (d a : BitVec 5) (i : BitVec 13)
  /-- XORI (R118): rd receives rs1 XOR the sign-extended immediate. -/
  | xori (d a : BitVec 5) (i : BitVec 13)
  /-- SLTI (R118): rd receives 1 if rs1 is below the immediate signed. -/
  | slti (d a : BitVec 5) (i : BitVec 13)
  /-- SLTIU (R118): rd receives 1 if rs1 is below the sign-extended immediate unsigned. -/
  | sltiu (d a : BitVec 5) (i : BitVec 13)
  /-- SLLI (R118): shi type 0: rd receives rs1 shifted left by the immediate amount. -/
  | slli (d a : BitVec 5) (s : BitVec 6)
  /-- SRLI (R118): shi type 1: rd receives rs1 shifted right logically by the immediate amount. -/
  | srli (d a : BitVec 5) (s : BitVec 6)
  /-- SRAI (R118): shi type 2: rd receives rs1 shifted right arithmetically by the immediate amount. -/
  | srai (d a : BitVec 5) (s : BitVec 6)
  /-- MULI (R118): rd receives the low 64 bits of rs1 times the immediate. -/
  | muli (d a : BitVec 5) (i : BitVec 13)
  /-- MOVI (R85): rd receives the sign-extended 20-bit immediate. -/
  | movi (d : BitVec 5) (i : BitVec 20)
  /-- MOVH (R85): rd receives the sign-extended 20-bit immediate shifted left by 12. -/
  | movh (d : BitVec 5) (i : BitVec 20)
  /-- SMB (R142): Ends a strip: advances pointers, decrements the count, optionally publishes, re-requests length and branches back. -/
  | smb (c : BitVec 5) (k l m n : BitVec 3) (b : BitVec 8) (p : BitVec 1)
  /-- BEQ (R119): Branches when rs1 equals rs2. -/
  | beq (a b : BitVec 5) (o : BitVec 13)
  /-- BNE (R119): Branches when rs1 differs from rs2. -/
  | bne (a b : BitVec 5) (o : BitVec 13)
  /-- BLT (R119): Branches when rs1 is below rs2 signed. -/
  | blt (a b : BitVec 5) (o : BitVec 13)
  /-- BGE (R119): Branches when rs1 is at least rs2 signed. -/
  | bge (a b : BitVec 5) (o : BitVec 13)
  /-- BLTU (R119): Branches when rs1 is below rs2 unsigned. -/
  | bltu (a b : BitVec 5) (o : BitVec 13)
  /-- BGEU (R119): Branches when rs1 is at least rs2 unsigned. -/
  | bgeu (a b : BitVec 5) (o : BitVec 13)
  /-- JAL (R120): Writes the link to rd and jumps to a word offset. -/
  | jal (d : BitVec 5) (o : BitVec 21)
  /-- JALR (R120): Writes the link to rd and jumps to rs1 plus an offset. -/
  | jalr (d a : BitVec 5) (i : BitVec 13)
  /-- LB (R121): Loads a sign-extended byte. -/
  | lb (d a : BitVec 5) (h : BitVec 2) (i : BitVec 10)
  /-- LBU (R121): Loads a zero-extended byte. -/
  | lbu (d a : BitVec 5) (h : BitVec 2) (i : BitVec 10)
  /-- LH (R121): Loads a sign-extended halfword. -/
  | lh (d a : BitVec 5) (h : BitVec 2) (i : BitVec 10)
  /-- LHU (R121): Loads a zero-extended halfword. -/
  | lhu (d a : BitVec 5) (h : BitVec 2) (i : BitVec 10)
  /-- LW (R121): Loads a sign-extended word. -/
  | lw (d a : BitVec 5) (h : BitVec 2) (i : BitVec 10)
  /-- LWU (R121): Loads a zero-extended word. -/
  | lwu (d a : BitVec 5) (h : BitVec 2) (i : BitVec 10)
  /-- LD (R121): Loads a doubleword, optionally single-copy atomic. -/
  | ld (d a : BitVec 5) (h : BitVec 2) (t : BitVec 1) (i : BitVec 10)
  /-- LDP (R121): Loads a register pair from 16 bytes. -/
  | ldp (d a : BitVec 5) (h : BitVec 2) (t : BitVec 1) (i : BitVec 10)
  /-- SB (R121): Stores a byte. -/
  | sb (d a : BitVec 5) (h : BitVec 2) (i : BitVec 10)
  /-- SH (R121): Stores a halfword. -/
  | sh (d a : BitVec 5) (h : BitVec 2) (i : BitVec 10)
  /-- SW (R121): Stores a word. -/
  | sw (d a : BitVec 5) (h : BitVec 2) (i : BitVec 10)
  /-- SD (R121): Stores a doubleword, optionally single-copy atomic. -/
  | sd (d a : BitVec 5) (h : BitVec 2) (t : BitVec 1) (i : BitVec 10)
  /-- SDP (R121): Stores a register pair to 16 bytes. -/
  | sdp (d a : BitVec 5) (h : BitVec 2) (t : BitVec 1) (i : BitVec 10)
  /-- AADD (R126): Atomic add at the ordering point, returning the old value. -/
  | aadd (d a b : BitVec 5) (q r w u : BitVec 1) (s : BitVec 2)
  /-- AAND (R126): Atomic AND, returning the old value. -/
  | aand (d a b : BitVec 5) (q r w u : BitVec 1) (s : BitVec 2)
  /-- AOR (R126): Atomic OR, returning the old value. -/
  | aor (d a b : BitVec 5) (q r w u : BitVec 1) (s : BitVec 2)
  /-- AXOR (R126): Atomic XOR, returning the old value. -/
  | axor (d a b : BitVec 5) (q r w u : BitVec 1) (s : BitVec 2)
  /-- AMIN (R126): Atomic signed minimum, returning the old value. -/
  | amin (d a b : BitVec 5) (q r w u : BitVec 1) (s : BitVec 2)
  /-- AMAX (R126): Atomic signed maximum, returning the old value. -/
  | amax (d a b : BitVec 5) (q r w u : BitVec 1) (s : BitVec 2)
  /-- AMINU (R126): Atomic unsigned minimum, returning the old value. -/
  | aminu (d a b : BitVec 5) (q r w u : BitVec 1) (s : BitVec 2)
  /-- AMAXU (R126): Atomic unsigned maximum, returning the old value. -/
  | amaxu (d a b : BitVec 5) (q r w u : BitVec 1) (s : BitVec 2)
  /-- ASWAP (R126): Atomic swap, returning the old value. -/
  | aswap (d a b : BitVec 5) (q r w u : BitVec 1) (s : BitVec 2)
  /-- ACAS (R126): Atomic compare-and-swap against rd, returning the old value. -/
  | acas (d a b : BitVec 5) (q r w u : BitVec 1) (s : BitVec 2)
  /-- ALD (R127): Single-copy atomic read at the ordering point, optionally acquire and tagged. -/
  | ald (d a : BitVec 5) (q w u : BitVec 1) (s : BitVec 2)
  /-- AST (R127): Single-copy atomic write, optionally release. -/
  | ast (a b : BitVec 5) (r w : BitVec 1) (s : BitVec 2)
  /-- FENCE (R130): Orders named scalar-scalar and vector-vector access pairs at a scope. -/
  | fence (m : BitVec 4) (s : BitVec 2)
  /-- FENCE_SV (R130): Orders earlier scalar accesses before later vector memory instructions. -/
  | fenceSv (m : BitVec 4) (s : BitVec 2)
  /-- FENCE_VS (R130): Orders earlier vector convoys' accesses before later scalar accesses. -/
  | fenceVs (m : BitVec 4) (s : BitVec 2)
  /-- FENCE_W (R131): Waits until every earlier write of the hart is acknowledged. -/
  | fenceW (s : BitVec 2)
  /-- FENCE_I (R132): Discards the core's L1I so later fetches see performed writes. -/
  | fenceI
  /-- VSETVLI (R140): Sets grant, VTYPE, MVL and VL from an immediate VTYPE and returns VL. -/
  | vsetvli (d a : BitVec 5) (v : BitVec 13)
  /-- VSETVL (R140): Sets length state from a VTYPE held in a register. -/
  | vsetvl (d a b : BitVec 5)
  /-- VSETVLW (R141): Waits for the WWAIT watermark to reach a bound, then sets length. -/
  | vsetvlw (d a : BitVec 5) (v : BitVec 13)
  /-- VREL (R144): Gives up lane groups, sets VL and MVL to 0 and marks vector state dead. -/
  | vrel
  /-- VADD_VV (R149): Vector integer add, vector-vector. -/
  | vaddVV (d a b : BitVec 5) (p : BitVec 4) (f : BitVec 3)
  /-- VSUB_VV (R149): Vector integer subtract, vector-vector. -/
  | vsubVV (d a b : BitVec 5) (p : BitVec 4) (f : BitVec 3)
  /-- VSADD_VV (R149): Vector saturating add, vector-vector. -/
  | vsaddVV (d a b : BitVec 5) (p : BitVec 4) (f : BitVec 3)
  /-- VSSUB_VV (R149): Vector saturating subtract, vector-vector. -/
  | vssubVV (d a b : BitVec 5) (p : BitVec 4) (f : BitVec 3)
  /-- VMUL_VV (R149): Vector integer multiply, vector-vector. -/
  | vmulVV (d a b : BitVec 5) (p : BitVec 4) (f : BitVec 3)
  /-- VMULH_VV (R149): Vector multiply high half, vector-vector. -/
  | vmulhVV (d a b : BitVec 5) (p : BitVec 4) (f : BitVec 3)
  /-- VAND_VV (R149): Vector bitwise AND, vector-vector. -/
  | vandVV (d a b : BitVec 5) (p : BitVec 4) (f : BitVec 3)
  /-- VOR_VV (R149): Vector bitwise OR, vector-vector. -/
  | vorVV (d a b : BitVec 5) (p : BitVec 4) (f : BitVec 3)
  /-- VXOR_VV (R149): Vector bitwise XOR, vector-vector. -/
  | vxorVV (d a b : BitVec 5) (p : BitVec 4) (f : BitVec 3)
  /-- VSLL_VV (R149): Vector shift left, vector-vector. -/
  | vsllVV (d a b : BitVec 5) (p : BitVec 4) (f : BitVec 3)
  /-- VSRL_VV (R149): Vector logical shift right, vector-vector. -/
  | vsrlVV (d a b : BitVec 5) (p : BitVec 4) (f : BitVec 3)
  /-- VSRA_VV (R149): Vector arithmetic shift right, vector-vector. -/
  | vsraVV (d a b : BitVec 5) (p : BitVec 4) (f : BitVec 3)
  /-- VMIN_VV (R149): Vector signed minimum, vector-vector. -/
  | vminVV (d a b : BitVec 5) (p : BitVec 4) (f : BitVec 3)
  /-- VMAX_VV (R149): Vector signed maximum, vector-vector. -/
  | vmaxVV (d a b : BitVec 5) (p : BitVec 4) (f : BitVec 3)
  /-- VMINU_VV (R149): Vector unsigned minimum, vector-vector. -/
  | vminuVV (d a b : BitVec 5) (p : BitVec 4) (f : BitVec 3)
  /-- VMAXU_VV (R149): Vector unsigned maximum, vector-vector. -/
  | vmaxuVV (d a b : BitVec 5) (p : BitVec 4) (f : BitVec 3)
  /-- VADD_VX (R149): Vector integer add, vector-scalar. -/
  | vaddVX (d a b : BitVec 5) (p : BitVec 4) (f : BitVec 3)
  /-- VSUB_VX (R149): Vector integer subtract, vector-scalar. -/
  | vsubVX (d a b : BitVec 5) (p : BitVec 4) (f : BitVec 3)
  /-- VSADD_VX (R149): Vector saturating add, vector-scalar. -/
  | vsaddVX (d a b : BitVec 5) (p : BitVec 4) (f : BitVec 3)
  /-- VSSUB_VX (R149): Vector saturating subtract, vector-scalar. -/
  | vssubVX (d a b : BitVec 5) (p : BitVec 4) (f : BitVec 3)
  /-- VMUL_VX (R149): Vector integer multiply, vector-scalar. -/
  | vmulVX (d a b : BitVec 5) (p : BitVec 4) (f : BitVec 3)
  /-- VMULH_VX (R149): Vector multiply high half, vector-scalar. -/
  | vmulhVX (d a b : BitVec 5) (p : BitVec 4) (f : BitVec 3)
  /-- VAND_VX (R149): Vector bitwise AND, vector-scalar. -/
  | vandVX (d a b : BitVec 5) (p : BitVec 4) (f : BitVec 3)
  /-- VOR_VX (R149): Vector bitwise OR, vector-scalar. -/
  | vorVX (d a b : BitVec 5) (p : BitVec 4) (f : BitVec 3)
  /-- VXOR_VX (R149): Vector bitwise XOR, vector-scalar. -/
  | vxorVX (d a b : BitVec 5) (p : BitVec 4) (f : BitVec 3)
  /-- VSLL_VX (R149): Vector shift left, vector-scalar. -/
  | vsllVX (d a b : BitVec 5) (p : BitVec 4) (f : BitVec 3)
  /-- VSRL_VX (R149): Vector logical shift right, vector-scalar. -/
  | vsrlVX (d a b : BitVec 5) (p : BitVec 4) (f : BitVec 3)
  /-- VSRA_VX (R149): Vector arithmetic shift right, vector-scalar. -/
  | vsraVX (d a b : BitVec 5) (p : BitVec 4) (f : BitVec 3)
  /-- VMIN_VX (R149): Vector signed minimum, vector-scalar. -/
  | vminVX (d a b : BitVec 5) (p : BitVec 4) (f : BitVec 3)
  /-- VMAX_VX (R149): Vector signed maximum, vector-scalar. -/
  | vmaxVX (d a b : BitVec 5) (p : BitVec 4) (f : BitVec 3)
  /-- VMINU_VX (R149): Vector unsigned minimum, vector-scalar. -/
  | vminuVX (d a b : BitVec 5) (p : BitVec 4) (f : BitVec 3)
  /-- VMAXU_VX (R149): Vector unsigned maximum, vector-scalar. -/
  | vmaxuVX (d a b : BitVec 5) (p : BitVec 4) (f : BitVec 3)
  /-- VADDI (R150): Vector add of a signed immediate. -/
  | vaddi (d b : BitVec 5) (p : BitVec 4) (i : BitVec 8)
  /-- VANDI (R150): Vector AND with a signed immediate. -/
  | vandi (d b : BitVec 5) (p : BitVec 4) (i : BitVec 8)
  /-- VORI (R150): Vector OR with an unsigned immediate. -/
  | vori (d b : BitVec 5) (p : BitVec 4) (i : BitVec 8)
  /-- VXORI (R150): Vector XOR with a signed immediate. -/
  | vxori (d b : BitVec 5) (p : BitVec 4) (i : BitVec 8)
  /-- VSLLI (R150): Vector shift left by an immediate. -/
  | vslli (d b : BitVec 5) (p : BitVec 4) (i : BitVec 8)
  /-- VSRLI (R150): Vector logical shift right by an immediate. -/
  | vsrli (d b : BitVec 5) (p : BitVec 4) (i : BitVec 8)
  /-- VSRAI (R150): Vector arithmetic shift right by an immediate. -/
  | vsrai (d b : BitVec 5) (p : BitVec 4) (i : BitVec 8)
  /-- VRSUBI (R150): Vector immediate minus element. -/
  | vrsubi (d b : BitVec 5) (p : BitVec 4) (i : BitVec 8)
  /-- VMINI (R150): Vector minimum with a signed immediate. -/
  | vmini (d b : BitVec 5) (p : BitVec 4) (i : BitVec 8)
  /-- VMAXI (R150): Vector maximum with a signed immediate. -/
  | vmaxi (d b : BitVec 5) (p : BitVec 4) (i : BitVec 8)
  /-- VMVI (R150): Writes a signed immediate to every active element. -/
  | vmvi (d : BitVec 5) (p : BitVec 4) (i : BitVec 8)
  /-- VMIXI (R150): Applies MIX to each element with an 8-bit key. -/
  | vmixi (d b : BitVec 5) (p : BitVec 4) (i : BitVec 8)
  /-- VFADD (R152): Vector floating add, rounded once. -/
  | vfadd (d a b : BitVec 5) (p : BitVec 4) (f : BitVec 3)
  /-- VFSUB (R152): Vector floating subtract. -/
  | vfsub (d a b : BitVec 5) (p : BitVec 4) (f : BitVec 3)
  /-- VFMUL (R152): Vector floating multiply. -/
  | vfmul (d a b : BitVec 5) (p : BitVec 4) (f : BitVec 3)
  /-- VFDIV (R152): Vector floating divide. -/
  | vfdiv (d a b : BitVec 5) (p : BitVec 4) (f : BitVec 3)
  /-- VFMAC (R152): Fused multiply-accumulate into vd. -/
  | vfmac (d a b : BitVec 5) (p : BitVec 4) (f : BitVec 3)
  /-- VFNMAC (R152): Fused negated multiply-accumulate into vd. -/
  | vfnmac (d a b : BitVec 5) (p : BitVec 4) (f : BitVec 3)
  /-- VFMIN (R153): Vector floating minimum with NaN-ignoring rule. -/
  | vfmin (d a b : BitVec 5) (p : BitVec 4) (f : BitVec 3)
  /-- VFMAX (R153): Vector floating maximum with NaN-ignoring rule. -/
  | vfmax (d a b : BitVec 5) (p : BitVec 4) (f : BitVec 3)
  /-- VFSQRT (R152): Vector floating square root. -/
  | vfsqrt (d b : BitVec 5) (p : BitVec 4) (f : BitVec 3)
  /-- VFCVT (R154): Converts each element from FA into FD by CVT. -/
  | vfcvt (d b : BitVec 5) (p : BitVec 4) (f : BitVec 3)
  /-- VFABS (R152): Vector floating absolute value. -/
  | vfabs (d b : BitVec 5) (p : BitVec 4) (f : BitVec 3)
  /-- VFNEG (R152): Vector floating negation. -/
  | vfneg (d b : BitVec 5) (p : BitVec 4) (f : BitVec 3)
  /-- VFSGNJ (R152): Magnitude of a with the sign bit of b. -/
  | vfsgnj (d a b : BitVec 5) (p : BitVec 4) (f : BitVec 3)
  /-- VFCLASS (R153): Writes the class code of each element into an integer format. -/
  | vfclass (d b : BitVec 5) (p : BitVec 4) (f : BitVec 3)
  /-- VFADD_VX (R152): Vector floating add with a scalar. -/
  | vfaddVX (d a b : BitVec 5) (p : BitVec 4) (f : BitVec 3)
  /-- VFSUB_VX (R152): Vector floating subtract of a scalar. -/
  | vfsubVX (d a b : BitVec 5) (p : BitVec 4) (f : BitVec 3)
  /-- VFMUL_VX (R152): Vector floating multiply by a scalar. -/
  | vfmulVX (d a b : BitVec 5) (p : BitVec 4) (f : BitVec 3)
  /-- VFMAC_VX (R152): Fused multiply-accumulate with a scalar. -/
  | vfmacVX (d a b : BitVec 5) (p : BitVec 4) (f : BitVec 3)
  /-- VFMIN_VX (R153): Vector floating minimum with a scalar. -/
  | vfminVX (d a b : BitVec 5) (p : BitVec 4) (f : BitVec 3)
  /-- VFMAX_VX (R153): Vector floating maximum with a scalar. -/
  | vfmaxVX (d a b : BitVec 5) (p : BitVec 4) (f : BitVec 3)
  /-- VFRSUB_VX (R152): Scalar minus element. -/
  | vfrsubVX (d a b : BitVec 5) (p : BitVec 4) (f : BitVec 3)
  /-- VFRDIV_VX (R152): Scalar divided by element. -/
  | vfrdivVX (d a b : BitVec 5) (p : BitVec 4) (f : BitVec 3)
  /-- VCMPEQ (R155): Writes predicate bits for element equality. -/
  | vcmpeq (d a b : BitVec 5) (p : BitVec 4)
  /-- VCMPNE (R155): Writes predicate bits for element inequality. -/
  | vcmpne (d a b : BitVec 5) (p : BitVec 4)
  /-- VCMPLT (R155): Signed less-than compare into a predicate. -/
  | vcmplt (d a b : BitVec 5) (p : BitVec 4)
  /-- VCMPLTU (R155): Unsigned less-than compare into a predicate. -/
  | vcmpltu (d a b : BitVec 5) (p : BitVec 4)
  /-- VCMPLE (R155): Signed less-or-equal compare into a predicate. -/
  | vcmple (d a b : BitVec 5) (p : BitVec 4)
  /-- VCMPLEU (R155): Unsigned less-or-equal compare into a predicate. -/
  | vcmpleu (d a b : BitVec 5) (p : BitVec 4)
  /-- VFCMPEQ (R155): Floating equality compare into a predicate. -/
  | vfcmpeq (d a b : BitVec 5) (p : BitVec 4)
  /-- VFCMPLT (R155): Floating less-than compare into a predicate. -/
  | vfcmplt (d a b : BitVec 5) (p : BitVec 4)
  /-- VFCMPLE (R155): Floating less-or-equal compare into a predicate. -/
  | vfcmple (d a b : BitVec 5) (p : BitVec 4)
  /-- VFCMPUN (R155): Unordered compare into a predicate. -/
  | vfcmpun (d a b : BitVec 5) (p : BitVec 4)
  /-- VREDSUM (R156): Integer sum reduction into vd element 0. -/
  | vredsum (d a b : BitVec 5) (p : BitVec 4)
  /-- VREDMIN (R156): Signed minimum reduction. -/
  | vredmin (d a b : BitVec 5) (p : BitVec 4)
  /-- VREDMAX (R156): Signed maximum reduction. -/
  | vredmax (d a b : BitVec 5) (p : BitVec 4)
  /-- VREDMINU (R156): Unsigned minimum reduction. -/
  | vredminu (d a b : BitVec 5) (p : BitVec 4)
  /-- VREDMAXU (R156): Unsigned maximum reduction. -/
  | vredmaxu (d a b : BitVec 5) (p : BitVec 4)
  /-- VREDAND (R156): Bitwise AND reduction. -/
  | vredand (d a b : BitVec 5) (p : BitVec 4)
  /-- VREDOR (R156): Bitwise OR reduction. -/
  | vredor (d a b : BitVec 5) (p : BitVec 4)
  /-- VREDXOR (R156): Bitwise XOR reduction. -/
  | vredxor (d a b : BitVec 5) (p : BitVec 4)
  /-- VFREDSUM (R156): Floating sum reduction in the fixed tree order. -/
  | vfredsum (d a b : BitVec 5) (p : BitVec 4)
  /-- VFREDMIN (R156): Floating minimum reduction. -/
  | vfredmin (d a b : BitVec 5) (p : BitVec 4)
  /-- VFREDMAX (R156): Floating maximum reduction. -/
  | vfredmax (d a b : BitVec 5) (p : BitVec 4)
  /-- VPERM (R157): Permutes table elements by index vector, 0 for indices at or beyond VL. -/
  | vperm (d a b : BitVec 5) (p : BitVec 4)
  /-- VSLIDEUP (R157): Slides elements up by a scalar amount. -/
  | vslideup (d a b : BitVec 5) (p : BitVec 4)
  /-- VSLIDEDOWN (R157): Slides elements down by a scalar amount. -/
  | vslidedown (d a b : BitVec 5) (p : BitVec 4)
  /-- VCOMPRESS (R157): Packs selected elements to the front. -/
  | vcompress (d b : BitVec 5) (p : BitVec 4)
  /-- VEXPAND (R157): Spreads consecutive elements to selected positions. -/
  | vexpand (d b : BitVec 5) (p : BitVec 4)
  /-- VID (R158): Writes each element's index. -/
  | vid (d : BitVec 5) (p : BitVec 4)
  /-- VSPLAT (R158): Writes a scalar to every active element. -/
  | vsplat (d a : BitVec 5) (p : BitVec 4)
  /-- VEXT (R159): Extracts one element into a scalar register. -/
  | vext (d a b : BitVec 5)
  /-- VINS (R159): Inserts a scalar into one element. -/
  | vins (d a b : BitVec 5)
  /-- VMV (R158): Copies elements, and side-array entries under BLK. -/
  | vmv (d b : BitVec 5) (p : BitVec 4)
  /-- VMIX (R158): Applies MIX to each element with a scalar key. -/
  | vmix (d a b : BitVec 5) (p : BitVec 4)
  /-- PAND (R160): Predicate AND over bits 0 to VL-1. -/
  | pand (p q r : BitVec 6)
  /-- POR (R160): Predicate OR. -/
  | por (p q r : BitVec 6)
  /-- PXOR (R160): Predicate XOR. -/
  | pxor (p q r : BitVec 6)
  /-- PANDN (R160): Predicate ps1 AND NOT ps2. -/
  | pandn (p q r : BitVec 6)
  /-- PNOT (R160): Predicate NOT. -/
  | pnot (p q : BitVec 6)
  /-- PSET (R160): Sets predicate bits 0 to VL-1. -/
  | pset (p : BitVec 6)
  /-- PCLR (R160): Clears predicate bits 0 to VL-1. -/
  | pclr (p : BitVec 6)
  /-- PMV (R160): Copies a predicate. -/
  | pmv (p q : BitVec 6)
  /-- PFIRST (R161): Writes the index of the lowest set bit, or -1. -/
  | pfirst (d : BitVec 5) (q : BitVec 6)
  /-- PCOUNT (R161): Writes the number of set bits. -/
  | pcount (d : BitVec 5) (q : BitVec 6)
  /-- PLD (R162): Loads predicate bits from memory. -/
  | pld (p : BitVec 6) (a : BitVec 5)
  /-- PST (R162): Stores predicate bits to memory. -/
  | pst (a : BitVec 5) (r : BitVec 6)
  /-- PSETX (R160): Sets predicate bits below a scalar count. -/
  | psetx (p : BitVec 6) (a : BitVec 5)
  /-- VLD (R171): Unit-stride vector load with MFC conversion. -/
  | vld (d a : BitVec 5) (p : BitVec 4) (f : BitVec 2) (n : BitVec 1) (t : BitVec 2)
  /-- VLDS (R171): Strided vector load. -/
  | vlds (d a b : BitVec 5) (p : BitVec 4) (f : BitVec 2) (n : BitVec 1) (t : BitVec 2)
  /-- VLDFF (R172): Fault-only-first load that trims VL on later faults. -/
  | vldff (d a : BitVec 5) (p : BitVec 4) (f : BitVec 2) (n : BitVec 1) (t : BitVec 2)
  /-- VLDZ (R174): Expands a compressed stream within a byte budget and sets VL. -/
  | vldz (d a b : BitVec 5) (p : BitVec 4) (f : BitVec 2) (n : BitVec 1) (t : BitVec 2)
  /-- VST (R171): Unit-stride vector store with MFC conversion. -/
  | vst (d a : BitVec 5) (p : BitVec 4) (f : BitVec 2) (n : BitVec 1) (t : BitVec 2)
  /-- VSTS (R171): Strided vector store. -/
  | vsts (d a b : BitVec 5) (p : BitVec 4) (f : BitVec 2) (n : BitVec 1) (t : BitVec 2)
  /-- VSTZ (R175): Writes elements as a compressed stream within a byte budget. -/
  | vstz (d a b : BitVec 5) (p : BitVec 4) (f : BitVec 2) (n : BitVec 1) (t : BitVec 2)
  /-- VGAT (R179): Gather by index or permuted-set logical row. -/
  | vgat (d a b : BitVec 5) (p : BitVec 4) (f s : BitVec 2) (c n t : BitVec 1)
  /-- VSCA (R179): Scatter by index or permuted-set logical row. -/
  | vsca (d a b : BitVec 5) (p : BitVec 4) (f s : BitVec 2) (n t : BitVec 1)
  /-- VAADD (R181): Indivisible vector fetch-and-add over all active elements. -/
  | vaadd (d a b : BitVec 5) (p : BitVec 4) (q r : BitVec 1) (s : BitVec 2)
  /-- VAAND (R181): Indivisible vector fetch-and-AND. -/
  | vaand (d a b : BitVec 5) (p : BitVec 4) (q r : BitVec 1) (s : BitVec 2)
  /-- VAOR (R181): Indivisible vector fetch-and-OR. -/
  | vaor (d a b : BitVec 5) (p : BitVec 4) (q r : BitVec 1) (s : BitVec 2)
  /-- VAXOR (R181): Indivisible vector fetch-and-XOR. -/
  | vaxor (d a b : BitVec 5) (p : BitVec 4) (q r : BitVec 1) (s : BitVec 2)
  /-- VAMIN (R181): Indivisible vector fetch-and-signed-min. -/
  | vamin (d a b : BitVec 5) (p : BitVec 4) (q r : BitVec 1) (s : BitVec 2)
  /-- VAMAX (R181): Indivisible vector fetch-and-signed-max. -/
  | vamax (d a b : BitVec 5) (p : BitVec 4) (q r : BitVec 1) (s : BitVec 2)
  /-- VAMINU (R181): Indivisible vector fetch-and-unsigned-min. -/
  | vaminu (d a b : BitVec 5) (p : BitVec 4) (q r : BitVec 1) (s : BitVec 2)
  /-- VAMAXU (R181): Indivisible vector fetch-and-unsigned-max. -/
  | vamaxu (d a b : BitVec 5) (p : BitVec 4) (q r : BitVec 1) (s : BitVec 2)
  /-- VUADD (R182): Ordered per-element atomic add, vd unchanged. -/
  | vuadd (d a b : BitVec 5) (p : BitVec 4) (q r : BitVec 1) (s : BitVec 2)
  /-- VUAND (R182): Ordered per-element atomic AND. -/
  | vuand (d a b : BitVec 5) (p : BitVec 4) (q r : BitVec 1) (s : BitVec 2)
  /-- VUOR (R182): Ordered per-element atomic OR. -/
  | vuor (d a b : BitVec 5) (p : BitVec 4) (q r : BitVec 1) (s : BitVec 2)
  /-- VUXOR (R182): Ordered per-element atomic XOR. -/
  | vuxor (d a b : BitVec 5) (p : BitVec 4) (q r : BitVec 1) (s : BitVec 2)
  /-- VUMIN (R182): Ordered per-element atomic signed min. -/
  | vumin (d a b : BitVec 5) (p : BitVec 4) (q r : BitVec 1) (s : BitVec 2)
  /-- VUMAX (R182): Ordered per-element atomic signed max. -/
  | vumax (d a b : BitVec 5) (p : BitVec 4) (q r : BitVec 1) (s : BitVec 2)
  /-- VUMINU (R182): Ordered per-element atomic unsigned min. -/
  | vuminu (d a b : BitVec 5) (p : BitVec 4) (q r : BitVec 1) (s : BitVec 2)
  /-- VUMAXU (R182): Ordered per-element atomic unsigned max. -/
  | vumaxu (d a b : BitVec 5) (p : BitVec 4) (q r : BitVec 1) (s : BitVec 2)
  /-- VASWAP (R183): Indivisible vector swap, returning old values. -/
  | vaswap (d a b : BitVec 5) (p : BitVec 4) (q r : BitVec 1) (s : BitVec 2)
  /-- VACAS (R183): Indivisible vector compare-and-swap against the following group. -/
  | vacas (d a b : BitVec 5) (p : BitVec 4) (q r : BitVec 1) (s : BitVec 2)
  /-- VWAIT_EQ (R184): Parks until every watched location equals its vd element. -/
  | vwaitEq (d a b : BitVec 5) (p : BitVec 4) (q : BitVec 1) (s : BitVec 2)
  /-- VWAIT_NE (R184): Parks until every watched location differs from its vd element. -/
  | vwaitNe (d a b : BitVec 5) (p : BitVec 4) (q : BitVec 1) (s : BitVec 2)
  /-- VWAIT_GE (R184): Parks until every watched location is at least its vd element, signed. -/
  | vwaitGe (d a b : BitVec 5) (p : BitVec 4) (q : BitVec 1) (s : BitVec 2)
  /-- VWAIT_GEU (R184): Parks until every watched location is at least its vd element, unsigned. -/
  | vwaitGeu (d a b : BitVec 5) (p : BitVec 4) (q : BitVec 1) (s : BitVec 2)
  /-- MMA (R195): Matrix multiply-accumulate into an FP32 tile with narrow-first replay. -/
  | mma (d a b : BitVec 5) (s : BitVec 2) (t u : BitVec 1) (f : BitVec 3)
  /-- MMAZ (R195): Matrix multiply into a tile started from zero. -/
  | mmaz (d a b : BitVec 5) (s : BitVec 2) (t u : BitVec 1) (f : BitVec 3)
  /-- MMS (R195): Matrix multiply-subtract from an FP32 tile. -/
  | mms (d a b : BitVec 5) (s : BitVec 2) (t u : BitVec 1) (f : BitVec 3)
  /-- MMAI (R195): Integer matrix multiply-accumulate into an INT32 tile. -/
  | mmai (d a b : BitVec 5) (s : BitVec 2) (t u : BitVec 1) (f : BitVec 3)
  /-- MMAIZ (R195): Integer matrix multiply into a tile started from zero. -/
  | mmaiz (d a b : BitVec 5) (s : BitVec 2) (t u : BitVec 1) (f : BitVec 3)
  /-- VCP (R188): Copies the next strip of a multi-dimensional shape through the tile buffer. -/
  | vcp (a : BitVec 5)
  /-- PSBIND (R273): Binds a slot to a permuted set after checking its descriptor. -/
  | psbind (a : BitVec 5) (s : BitVec 2)
  /-- PSFREE (R273): Applies pending sketch updates and unbinds a slot. -/
  | psfree (s : BitVec 2)
  /-- PSVER (R274): Returns the set's VER. -/
  | psver (d : BitVec 5) (s : BitVec 2)
  /-- PSEXP (R275): Exports VL forward entries to memory while holding commits. -/
  | psexp (a b : BitVec 5) (s : BitVec 2)
  /-- PSIMP (R261): Proposes an imported permutation as a reorder plan. -/
  | psimp (a : BitVec 5) (s : BitVec 2)
  /-- PSORD (R260): Requests a reorder of the set from its sketch. -/
  | psord (s : BitVec 2)
  /-- PSWAIT (R277): Parks until the set's VER reaches a bound. -/
  | pswait (a : BitVec 5) (s : BitVec 2)
  /-- PSREC (R257): Sets the slot's sampling exponent and clears its sample counter. -/
  | psrec (a : BitVec 5) (s : BitVec 2)
  /-- PSSTAT (R274): Returns REMAIN, BUSY, REJ and NUMB of the set. -/
  | psstat (d : BitVec 5) (s : BitVec 2)
  /-- GBAR (R308): Arrives at a gang barrier and waits for its phase to complete. -/
  | gbar (a : BitVec 5)
  /-- GARR (R308): Arrives at a gang barrier without waiting. -/
  | garr (a : BitVec 5)
  /-- GDROP (R308): Leaves membership of a gang barrier. -/
  | gdrop (a : BitVec 5)
  /-- GWAIT (R308): Waits for the phase of an earlier arrival to complete. -/
  | gwait (a : BitVec 5)
  /-- LAUNCH (R301): Adds a launch packet to a queue from a device hart. -/
  | launch (d a b : BitVec 5)
  /-- VXSEND (R310): Pushes register slices into lane FIFOs toward another core. -/
  | vxsend (v a : BitVec 5)
  /-- VXRECV (R310): Pops register slices from lane FIFOs from another core. -/
  | vxrecv (v a : BitVec 5)
  /-- EXIT (R307): Ends the hart, dropping barriers and freeing slot and lanes. -/
  | exit
  /-- CSRRW (R133): Reads a CSR and writes rs1 to it. -/
  | csrrw (d a : BitVec 5) (c : BitVec 12)
  /-- CSRRS (R133): Reads a CSR and sets the bits of rs1. -/
  | csrrs (d a : BitVec 5) (c : BitVec 12)
  /-- CSRRC (R133): Reads a CSR and clears the bits of rs1. -/
  | csrrc (d a : BitVec 5) (c : BitVec 12)
  /-- SYS (R313): Raises a system-call trap after its convoy retires. -/
  | sys (a : BitVec 5)
  /-- TRET (R331): Returns from a trap, re-executing or resuming the convoy at TEPC. -/
  | tret
  /-- BRK (R334): Squashes its convoy and raises the breakpoint trap. -/
  | brk
  /-- PARK (R312): Offers the hart for switching out to waiting equal or higher priority work. -/
  | park
  /-- TLBINV (R288): Drops translation cache entries and waits for accesses translated with them. -/
  | tlbinv (a b : BitVec 5)
  /-- PTCINV (R256): Drops permutation translation cache entries. -/
  | ptcinv (a : BitVec 5)
  /-- PGSHARE (R289): Atomically increments a page's reference count. -/
  | pgshare (a : BitVec 5)
  /-- PGDROP (R289): Atomically decrements a page's reference count, pushing it free at zero. -/
  | pgdrop (a : BitVec 5)
  /-- PGMOVE (R294): Migrates a 64 KiB page to another physical page while programs run. -/
  | pgmove (a b : BitVec 5)
  /-- PGHOT (R293): Reads and clears a page's hotness counters atomically. -/
  | pghot (d a : BitVec 5)
  /-- MFCMP (R391): Verifies a signed Manifest and compares its selected fields with the device. -/
  | mfcmp (d a : BitVec 5)
  /-- HALT (R397): Drains, queues a halt event record and stops issuing. -/
  | halt
  deriving DecidableEq, Repr

end Sys2Proof
end

