-- ==== Sys2Proof/WellFormed.lean ====
section
/-! DEFINITION. Which operands an instruction may have whatever the type state: the reserved codes and register limits of R80,
R83 to R104 and R341 that do not depend on VTYPE. -/

namespace Sys2Proof

/-- hint 3 is reserved (R88). -/
def hintOk (h : BitVec 2) : Bool := h != 3

/-- An atomic with q set writes rd and rd+1, so rd is at most x30 (R80). -/
def pairOk (u : BitVec 1) (d : BitVec 5) : Bool := u == 0 || d != 31

/-- A VTYPE value without reserved codes: SEW and LMUL at most 3, TR not 3, BLK at most 1 (R91). -/
def vtypeOk (v : BitVec 13) : Bool :=
  !v.getLsbD 2 && !v.getLsbD 5 && !(v.getLsbD 6 && v.getLsbD 7) && !v.getLsbD 9

/-- The assigned CSR numbers (R137). -/
def csrAssigned (c : BitVec 12) : Bool :=
  let n := c.toNat
  (0x010 ≤ n && n ≤ 0x013) || (0x020 ≤ n && n ≤ 0x027) || (0x030 ≤ n && n ≤ 0x033) || n == 0x040 || n == 0x041 ||
  n == 0x060 || n == 0x061 || n == 0x080 || n == 0x081 || n == 0x090 || n == 0x0A0 ||
  (0x400 ≤ n && n ≤ 0x404) || (0x410 ≤ n && n ≤ 0x413) || (0x420 ≤ n && n ≤ 0x425) || (0x430 ≤ n && n ≤ 0x432) ||
  (0x800 ≤ n && n ≤ 0x806) || (0x810 ≤ n && n ≤ 0x812) || (0x820 ≤ n && n ≤ 0x823) || (0x830 ≤ n && n ≤ 0x832) ||
  n == 0x840 || (0xC00 ≤ n && n ≤ 0xC02)

/-- A CSR access that is no illegal word: an assigned number, and no write into a read-only range, whose numbers have bit 10
set (R103, R134, R137). -/
def csrOk (c : BitVec 12) (writes : Bool) : Bool :=
  csrAssigned c && !(writes && c.getLsbD 10)

/-- The instruction has no reserved operand and breaks no register limit that VTYPE does not change. -/
def Instr.wf : Instr → Bool
  | .add _ _ _ => true
  | .sub _ _ _ => true
  | .and _ _ _ => true
  | .or _ _ _ => true
  | .xor _ _ _ => true
  | .andn _ _ _ => true
  | .orn _ _ _ => true
  | .sll _ _ _ => true
  | .srl _ _ _ => true
  | .sra _ _ _ => true
  | .rotl _ _ _ => true
  | .rotr _ _ _ => true
  | .slt _ _ _ => true
  | .sltu _ _ _ => true
  | .min _ _ _ => true
  | .max _ _ _ => true
  | .minu _ _ _ => true
  | .maxu _ _ _ => true
  | .mul _ _ _ => true
  | .mulh _ _ _ => true
  | .mulhu _ _ _ => true
  | .div _ _ _ => true
  | .divu _ _ _ => true
  | .rem _ _ _ => true
  | .remu _ _ _ => true
  | .clz _ _ => true
  | .ctz _ _ => true
  | .popc _ _ => true
  | .sextb _ _ => true
  | .sexth _ _ => true
  | .sextw _ _ => true
  | .zextw _ _ => true
  | .addi _ _ _ => true
  | .andi _ _ _ => true
  | .ori _ _ _ => true
  | .xori _ _ _ => true
  | .slti _ _ _ => true
  | .sltiu _ _ _ => true
  | .slli _ _ _ => true
  | .srli _ _ _ => true
  | .srai _ _ _ => true
  | .muli _ _ _ => true
  | .movi _ _ => true
  | .movh _ _ => true
  | .smb _ _ _ _ _ _ _ => true
  | .beq _ _ _ => true
  | .bne _ _ _ => true
  | .blt _ _ _ => true
  | .bge _ _ _ => true
  | .bltu _ _ _ => true
  | .bgeu _ _ _ => true
  | .jal _ _ => true
  | .jalr _ _ _ => true
  | .lb _ _ h _ => hintOk h
  | .lbu _ _ h _ => hintOk h
  | .lh _ _ h _ => hintOk h
  | .lhu _ _ h _ => hintOk h
  | .lw _ _ h _ => hintOk h
  | .lwu _ _ h _ => hintOk h
  | .ld _ _ h _ _ => hintOk h
  | .ldp d _ h _ _ => hintOk h && !d.getLsbD 0
  | .sb _ _ h _ => hintOk h
  | .sh _ _ h _ => hintOk h
  | .sw _ _ h _ => hintOk h
  | .sd _ _ h _ _ => hintOk h
  | .sdp d _ h _ _ => hintOk h && !d.getLsbD 0
  | .aadd d _ _ _ _ _ u _ => pairOk u d
  | .aand d _ _ _ _ _ u _ => pairOk u d
  | .aor d _ _ _ _ _ u _ => pairOk u d
  | .axor d _ _ _ _ _ u _ => pairOk u d
  | .amin d _ _ _ _ _ u _ => pairOk u d
  | .amax d _ _ _ _ _ u _ => pairOk u d
  | .aminu d _ _ _ _ _ u _ => pairOk u d
  | .amaxu d _ _ _ _ _ u _ => pairOk u d
  | .aswap d _ _ _ _ _ u _ => pairOk u d
  | .acas d _ _ _ _ _ u _ => pairOk u d
  | .ald d _ _ _ u _ => pairOk u d
  | .ast _ _ _ _ _ => true
  | .fence m _ => m != 0
  | .fenceSv m _ => m != 0
  | .fenceVs m _ => m != 0
  | .fenceW _ => true
  | .fenceI => true
  | .vsetvli _ _ v => vtypeOk v
  | .vsetvl _ _ _ => true
  | .vsetvlw _ _ v => vtypeOk v
  | .vrel => true
  | .vaddVV _ _ _ _ _ => true
  | .vsubVV _ _ _ _ _ => true
  | .vsaddVV _ _ _ _ _ => true
  | .vssubVV _ _ _ _ _ => true
  | .vmulVV _ _ _ _ _ => true
  | .vmulhVV _ _ _ _ _ => true
  | .vandVV _ _ _ _ _ => true
  | .vorVV _ _ _ _ _ => true
  | .vxorVV _ _ _ _ _ => true
  | .vsllVV _ _ _ _ _ => true
  | .vsrlVV _ _ _ _ _ => true
  | .vsraVV _ _ _ _ _ => true
  | .vminVV _ _ _ _ _ => true
  | .vmaxVV _ _ _ _ _ => true
  | .vminuVV _ _ _ _ _ => true
  | .vmaxuVV _ _ _ _ _ => true
  | .vaddVX _ _ _ _ _ => true
  | .vsubVX _ _ _ _ _ => true
  | .vsaddVX _ _ _ _ _ => true
  | .vssubVX _ _ _ _ _ => true
  | .vmulVX _ _ _ _ _ => true
  | .vmulhVX _ _ _ _ _ => true
  | .vandVX _ _ _ _ _ => true
  | .vorVX _ _ _ _ _ => true
  | .vxorVX _ _ _ _ _ => true
  | .vsllVX _ _ _ _ _ => true
  | .vsrlVX _ _ _ _ _ => true
  | .vsraVX _ _ _ _ _ => true
  | .vminVX _ _ _ _ _ => true
  | .vmaxVX _ _ _ _ _ => true
  | .vminuVX _ _ _ _ _ => true
  | .vmaxuVX _ _ _ _ _ => true
  | .vaddi _ _ _ _ => true
  | .vandi _ _ _ _ => true
  | .vori _ _ _ _ => true
  | .vxori _ _ _ _ => true
  | .vslli _ _ _ _ => true
  | .vsrli _ _ _ _ => true
  | .vsrai _ _ _ _ => true
  | .vrsubi _ _ _ _ => true
  | .vmini _ _ _ _ => true
  | .vmaxi _ _ _ _ => true
  | .vmvi _ _ _ => true
  | .vmixi _ _ _ _ => true
  | .vfadd _ _ _ _ _ => true
  | .vfsub _ _ _ _ _ => true
  | .vfmul _ _ _ _ _ => true
  | .vfdiv _ _ _ _ _ => true
  | .vfmac _ _ _ _ _ => true
  | .vfnmac _ _ _ _ _ => true
  | .vfmin _ _ _ _ _ => true
  | .vfmax _ _ _ _ _ => true
  | .vfsqrt _ _ _ _ => true
  | .vfcvt _ _ _ _ => true
  | .vfabs _ _ _ _ => true
  | .vfneg _ _ _ _ => true
  | .vfsgnj _ _ _ _ _ => true
  | .vfclass _ _ _ _ => true
  | .vfaddVX _ _ _ _ _ => true
  | .vfsubVX _ _ _ _ _ => true
  | .vfmulVX _ _ _ _ _ => true
  | .vfmacVX _ _ _ _ _ => true
  | .vfminVX _ _ _ _ _ => true
  | .vfmaxVX _ _ _ _ _ => true
  | .vfrsubVX _ _ _ _ _ => true
  | .vfrdivVX _ _ _ _ _ => true
  | .vcmpeq _ _ _ _ => true
  | .vcmpne _ _ _ _ => true
  | .vcmplt _ _ _ _ => true
  | .vcmpltu _ _ _ _ => true
  | .vcmple _ _ _ _ => true
  | .vcmpleu _ _ _ _ => true
  | .vfcmpeq _ _ _ _ => true
  | .vfcmplt _ _ _ _ => true
  | .vfcmple _ _ _ _ => true
  | .vfcmpun _ _ _ _ => true
  | .vredsum _ _ _ _ => true
  | .vredmin _ _ _ _ => true
  | .vredmax _ _ _ _ => true
  | .vredminu _ _ _ _ => true
  | .vredmaxu _ _ _ _ => true
  | .vredand _ _ _ _ => true
  | .vredor _ _ _ _ => true
  | .vredxor _ _ _ _ => true
  | .vfredsum _ _ _ _ => true
  | .vfredmin _ _ _ _ => true
  | .vfredmax _ _ _ _ => true
  | .vperm _ _ _ _ => true
  | .vslideup _ _ _ _ => true
  | .vslidedown _ _ _ _ => true
  | .vcompress _ _ _ => true
  | .vexpand _ _ _ => true
  | .vid _ _ => true
  | .vsplat _ _ _ => true
  | .vext _ _ _ => true
  | .vins _ _ _ => true
  | .vmv _ _ _ => true
  | .vmix _ _ _ _ => true
  | .pand _ _ _ => true
  | .por _ _ _ => true
  | .pxor _ _ _ => true
  | .pandn _ _ _ => true
  | .pnot _ _ => true
  | .pset _ => true
  | .pclr _ => true
  | .pmv _ _ => true
  | .pfirst _ _ => true
  | .pcount _ _ => true
  | .pld _ _ => true
  | .pst _ _ => true
  | .psetx _ _ => true
  | .vld _ _ _ _ _ t => t != 3
  | .vlds _ _ _ _ _ _ t => t != 3
  | .vldff _ _ _ _ _ t => t != 3
  | .vldz _ _ _ _ _ _ t => t != 3
  | .vst _ _ _ _ _ t => t != 3
  | .vsts _ _ _ _ _ _ t => t != 3
  | .vstz _ _ _ _ _ _ t => t != 3
  | .vgat _ _ _ _ _ _ _ _ _ => true
  | .vsca _ _ _ _ _ _ _ _ => true
  | .vaadd _ _ _ _ _ _ _ => true
  | .vaand _ _ _ _ _ _ _ => true
  | .vaor _ _ _ _ _ _ _ => true
  | .vaxor _ _ _ _ _ _ _ => true
  | .vamin _ _ _ _ _ _ _ => true
  | .vamax _ _ _ _ _ _ _ => true
  | .vaminu _ _ _ _ _ _ _ => true
  | .vamaxu _ _ _ _ _ _ _ => true
  | .vuadd _ _ _ _ _ _ _ => true
  | .vuand _ _ _ _ _ _ _ => true
  | .vuor _ _ _ _ _ _ _ => true
  | .vuxor _ _ _ _ _ _ _ => true
  | .vumin _ _ _ _ _ _ _ => true
  | .vumax _ _ _ _ _ _ _ => true
  | .vuminu _ _ _ _ _ _ _ => true
  | .vumaxu _ _ _ _ _ _ _ => true
  | .vaswap _ _ _ _ _ _ _ => true
  | .vacas _ _ _ _ _ _ _ => true
  | .vwaitEq _ _ _ _ _ _ => true
  | .vwaitNe _ _ _ _ _ _ => true
  | .vwaitGe _ _ _ _ _ _ => true
  | .vwaitGeu _ _ _ _ _ _ => true
  | .mma _ _ _ _ _ _ _ => true
  | .mmaz _ _ _ _ _ _ _ => true
  | .mms _ _ _ _ _ _ _ => true
  | .mmai _ _ _ _ _ _ _ => true
  | .mmaiz _ _ _ _ _ _ _ => true
  | .vcp _ => true
  | .psbind _ s => s != 0
  | .psfree s => s != 0
  | .psver _ s => s != 0
  | .psexp _ _ s => s != 0
  | .psimp _ s => s != 0
  | .psord s => s != 0
  | .pswait _ s => s != 0
  | .psrec _ s => s != 0
  | .psstat _ s => s != 0
  | .gbar _ => true
  | .garr _ => true
  | .gdrop _ => true
  | .gwait _ => true
  | .launch _ _ _ => true
  | .vxsend _ _ => true
  | .vxrecv _ _ => true
  | .exit => true
  | .csrrw _ _ c => csrOk c true
  | .csrrs _ a c => csrOk c (a != 0)
  | .csrrc _ a c => csrOk c (a != 0)
  | .sys _ => true
  | .tret => true
  | .brk => true
  | .park => true
  | .tlbinv _ _ => true
  | .ptcinv _ => true
  | .pgshare _ => true
  | .pgdrop _ => true
  | .pgmove _ _ => true
  | .pghot _ _ => true
  | .mfcmp _ _ => true
  | .halt => true
  | .doorbell _ _ => true
  | .gangAbort _ => true
  | .deviceRegisterWrite _ _ _ => true
  | .seraiWrite _ _ => true
  | .llcreqWrite _ => true
  | .tgapply _ => true
  | .swap _ => true
  | .retrain _ _ => true
  | .getreport => true
  | .getmanifest => true
  | .instkey => true
  | .fwload => true
  | .switchout => true
  | .resumeh => true
  | .getevent => true
  | .packetOffer _ => true
  | .watermarkRead _ => true
  | .launchAging _ => true
  | .gangServe => true
  | .gangPlacement _ => true
  | .reclaimDeadline _ => true
  | .fullContextSwitch _ => true
  | .hartResume _ _ => true
  | .completionRecord _ => true
  | .parkedHartGrant _ => true
  | .vrelGroupRelease _ => true
  | .vectorConvoyStart _ _ => true
  | .convoyRetire _ => true
  | .elementStep _ => true
  | .instructionBreakpoint _ => true
  | .trapDelivery _ => true
  | .poisonConsumed _ => true
  | .stallFault _ => true
  | .migrationFault _ => true
  | .passComplete _ => true
  | .cowResolution _ _ => true
  | .pageWalk _ _ => true
  | .hotnessAddition _ => true
  | .publication _ => true
  | .vsetvlwSatisfied _ => true
  | .vwaitRound _ => true
  | .pswaitSatisfied _ => true
  | .exitGdropApply _ => true
  | .launchAccept _ => true
  | .vxsendPush _ => true
  | .vxrecvPop _ => true
  | .fenceWComplete _ => true
  | .writePerformed _ _ _ => true
  | .sliceRequest _ _ _ _ _ => true
  | .retryResend _ => true
  | .reserveEviction _ _ => true
  | .sliceMapChange _ _ => true
  | .slotBankSwap => true
  | .slotDeparture _ => true
  | .drawerReturn _ => true
  | .flitCheckFailure _ => true
  | .trunkRetrainStart _ _ => true
  | .retrainAttemptEnd _ _ => true
  | .correctedError _ => true
  | .poisonCreated _ _ _ => true
  | .tagDirectoryError _ _ => true
  | .sequenceCounterLost _ => true
  | .hostRequest _ _ _ _ => true
  | .cxlBackInvalidation _ _ => true
  | .numbering _ => true
  | .importValidation _ => true
  | .rowMoveStart _ _ => true
  | .copyRoundComplete _ _ => true
  | .rowCommit _ _ => true
  | .ptcAck _ _ => true
  | .reorderStop _ _ _ => true
  | .sketchUpdate _ => true
  | .migrationCommit _ => true
  | .migrationAbandon _ => true
  | .moduleReset => true
  | .bootVerify => true
  | .selftestComplete => true
  | .peerModuleAccess _ _ _ _ => true
  | .mailboxCommandDone => true

end Sys2Proof
end

