-- ==== Sys2Proof/Decode.lean ====
section
/-! DEFINITION. The decoder of instruction words, total on every 32 bits and refusing illegal words by name, and the encoder
written from the same encodings (R78 to R104). The checks that depend on VTYPE (R80, R105) are made by the meanings.
The decoder is marked noncomputable because Lean's code generator builds no constructor of an index above 244: the kernel
evaluates it, and `Machine.runWord` reads the same fields where a machine has to run as code. -/

namespace Sys2Proof

/-- Why a word is an illegal word (R104). -/
inductive Illegal where
  /-- MAJ is 0, the all-zero word among them. -/
  | majZero
  /-- A function code, or a must-be-zero field, holds a value that no row of the encoding maps has. -/
  | reserved
  /-- An operand field holds a reserved code or breaks a register limit that no VTYPE changes (`Instr.wf`). -/
  | operand
  deriving DecidableEq, Repr

/-- Words of MAJ 1 (R82). -/
noncomputable def decodeMaj1 (w : BitVec 32) : Option Instr :=
  match (w.extractLsb' 0 11).toNat with
  | 0 => some (.add (w.extractLsb' 21 5) (w.extractLsb' 16 5) (w.extractLsb' 11 5))
  | 1 => some (.sub (w.extractLsb' 21 5) (w.extractLsb' 16 5) (w.extractLsb' 11 5))
  | 2 => some (.and (w.extractLsb' 21 5) (w.extractLsb' 16 5) (w.extractLsb' 11 5))
  | 3 => some (.or (w.extractLsb' 21 5) (w.extractLsb' 16 5) (w.extractLsb' 11 5))
  | 4 => some (.xor (w.extractLsb' 21 5) (w.extractLsb' 16 5) (w.extractLsb' 11 5))
  | 5 => some (.andn (w.extractLsb' 21 5) (w.extractLsb' 16 5) (w.extractLsb' 11 5))
  | 6 => some (.orn (w.extractLsb' 21 5) (w.extractLsb' 16 5) (w.extractLsb' 11 5))
  | 7 => some (.sll (w.extractLsb' 21 5) (w.extractLsb' 16 5) (w.extractLsb' 11 5))
  | 8 => some (.srl (w.extractLsb' 21 5) (w.extractLsb' 16 5) (w.extractLsb' 11 5))
  | 9 => some (.sra (w.extractLsb' 21 5) (w.extractLsb' 16 5) (w.extractLsb' 11 5))
  | 10 => some (.rotl (w.extractLsb' 21 5) (w.extractLsb' 16 5) (w.extractLsb' 11 5))
  | 11 => some (.rotr (w.extractLsb' 21 5) (w.extractLsb' 16 5) (w.extractLsb' 11 5))
  | 12 => some (.slt (w.extractLsb' 21 5) (w.extractLsb' 16 5) (w.extractLsb' 11 5))
  | 13 => some (.sltu (w.extractLsb' 21 5) (w.extractLsb' 16 5) (w.extractLsb' 11 5))
  | 14 => some (.min (w.extractLsb' 21 5) (w.extractLsb' 16 5) (w.extractLsb' 11 5))
  | 15 => some (.max (w.extractLsb' 21 5) (w.extractLsb' 16 5) (w.extractLsb' 11 5))
  | 16 => some (.minu (w.extractLsb' 21 5) (w.extractLsb' 16 5) (w.extractLsb' 11 5))
  | 17 => some (.maxu (w.extractLsb' 21 5) (w.extractLsb' 16 5) (w.extractLsb' 11 5))
  | 18 => some (.mul (w.extractLsb' 21 5) (w.extractLsb' 16 5) (w.extractLsb' 11 5))
  | 19 => some (.mulh (w.extractLsb' 21 5) (w.extractLsb' 16 5) (w.extractLsb' 11 5))
  | 20 => some (.mulhu (w.extractLsb' 21 5) (w.extractLsb' 16 5) (w.extractLsb' 11 5))
  | 21 => some (.div (w.extractLsb' 21 5) (w.extractLsb' 16 5) (w.extractLsb' 11 5))
  | 22 => some (.divu (w.extractLsb' 21 5) (w.extractLsb' 16 5) (w.extractLsb' 11 5))
  | 23 => some (.rem (w.extractLsb' 21 5) (w.extractLsb' 16 5) (w.extractLsb' 11 5))
  | 24 => some (.remu (w.extractLsb' 21 5) (w.extractLsb' 16 5) (w.extractLsb' 11 5))
  | 25 => if w.extractLsb' 11 5 = 0 then some (.clz (w.extractLsb' 21 5) (w.extractLsb' 16 5)) else none
  | 26 => if w.extractLsb' 11 5 = 0 then some (.ctz (w.extractLsb' 21 5) (w.extractLsb' 16 5)) else none
  | 27 => if w.extractLsb' 11 5 = 0 then some (.popc (w.extractLsb' 21 5) (w.extractLsb' 16 5)) else none
  | 28 => if w.extractLsb' 11 5 = 0 then some (.sextb (w.extractLsb' 21 5) (w.extractLsb' 16 5)) else none
  | 29 => if w.extractLsb' 11 5 = 0 then some (.sexth (w.extractLsb' 21 5) (w.extractLsb' 16 5)) else none
  | 30 => if w.extractLsb' 11 5 = 0 then some (.sextw (w.extractLsb' 21 5) (w.extractLsb' 16 5)) else none
  | 31 => if w.extractLsb' 11 5 = 0 then some (.zextw (w.extractLsb' 21 5) (w.extractLsb' 16 5)) else none
  | _ => none

/-- Words of MAJ 2 (R82). -/
noncomputable def decodeMaj2 (w : BitVec 32) : Option Instr :=
  match (w.extractLsb' 13 3).toNat with
  | 0 => some (.addi (w.extractLsb' 21 5) (w.extractLsb' 16 5) (w.extractLsb' 0 13))
  | 1 => some (.andi (w.extractLsb' 21 5) (w.extractLsb' 16 5) (w.extractLsb' 0 13))
  | 2 => some (.ori (w.extractLsb' 21 5) (w.extractLsb' 16 5) (w.extractLsb' 0 13))
  | 3 => some (.xori (w.extractLsb' 21 5) (w.extractLsb' 16 5) (w.extractLsb' 0 13))
  | 4 => some (.slti (w.extractLsb' 21 5) (w.extractLsb' 16 5) (w.extractLsb' 0 13))
  | 5 => some (.sltiu (w.extractLsb' 21 5) (w.extractLsb' 16 5) (w.extractLsb' 0 13))
  | 6 =>
    match (w.extractLsb' 6 2).toNat with
    | 0 => if w.extractLsb' 8 5 = 0 then some (.slli (w.extractLsb' 21 5) (w.extractLsb' 16 5) (w.extractLsb' 0 6)) else none
    | 1 => if w.extractLsb' 8 5 = 0 then some (.srli (w.extractLsb' 21 5) (w.extractLsb' 16 5) (w.extractLsb' 0 6)) else none
    | 2 => if w.extractLsb' 8 5 = 0 then some (.srai (w.extractLsb' 21 5) (w.extractLsb' 16 5) (w.extractLsb' 0 6)) else none
    | _ => none
  | 7 => some (.muli (w.extractLsb' 21 5) (w.extractLsb' 16 5) (w.extractLsb' 0 13))
  | _ => none

/-- Words of MAJ 3 (R82). -/
noncomputable def decodeMaj3 (w : BitVec 32) : Option Instr :=
  match (w.extractLsb' 20 1).toNat with
  | 0 => some (.movi (w.extractLsb' 21 5) (w.extractLsb' 0 20))
  | 1 => some (.movh (w.extractLsb' 21 5) (w.extractLsb' 0 20))
  | _ => none

/-- Words of MAJ 4 (R82). -/
noncomputable def decodeMaj4 (w : BitVec 32) : Option Instr :=
  some (.smb (w.extractLsb' 21 5) (w.extractLsb' 18 3) (w.extractLsb' 15 3) (w.extractLsb' 12 3) (w.extractLsb' 9 3) (w.extractLsb' 1 8) (w.extractLsb' 0 1))

/-- Words of MAJ 5 (R82). -/
noncomputable def decodeMaj5 (w : BitVec 32) : Option Instr :=
  match (w.extractLsb' 13 3).toNat with
  | 0 => some (.beq (w.extractLsb' 21 5) (w.extractLsb' 16 5) (w.extractLsb' 0 13))
  | 1 => some (.bne (w.extractLsb' 21 5) (w.extractLsb' 16 5) (w.extractLsb' 0 13))
  | 2 => some (.blt (w.extractLsb' 21 5) (w.extractLsb' 16 5) (w.extractLsb' 0 13))
  | 3 => some (.bge (w.extractLsb' 21 5) (w.extractLsb' 16 5) (w.extractLsb' 0 13))
  | 4 => some (.bltu (w.extractLsb' 21 5) (w.extractLsb' 16 5) (w.extractLsb' 0 13))
  | 5 => some (.bgeu (w.extractLsb' 21 5) (w.extractLsb' 16 5) (w.extractLsb' 0 13))
  | _ => none

/-- Words of MAJ 6 (R82). -/
noncomputable def decodeMaj6 (w : BitVec 32) : Option Instr :=
  some (.jal (w.extractLsb' 21 5) (w.extractLsb' 0 21))

/-- Words of MAJ 7 (R82). -/
noncomputable def decodeMaj7 (w : BitVec 32) : Option Instr :=
  match (w.extractLsb' 13 3).toNat with
  | 0 => some (.jalr (w.extractLsb' 21 5) (w.extractLsb' 16 5) (w.extractLsb' 0 13))
  | _ => none

/-- Words of MAJ 8 (R82). -/
noncomputable def decodeMaj8 (w : BitVec 32) : Option Instr :=
  match (w.extractLsb' 13 3).toNat with
  | 0 => if w.extractLsb' 10 1 = 0 then some (.lb (w.extractLsb' 21 5) (w.extractLsb' 16 5) (w.extractLsb' 11 2) (w.extractLsb' 0 10)) else none
  | 1 => if w.extractLsb' 10 1 = 0 then some (.lbu (w.extractLsb' 21 5) (w.extractLsb' 16 5) (w.extractLsb' 11 2) (w.extractLsb' 0 10)) else none
  | 2 => if w.extractLsb' 10 1 = 0 then some (.lh (w.extractLsb' 21 5) (w.extractLsb' 16 5) (w.extractLsb' 11 2) (w.extractLsb' 0 10)) else none
  | 3 => if w.extractLsb' 10 1 = 0 then some (.lhu (w.extractLsb' 21 5) (w.extractLsb' 16 5) (w.extractLsb' 11 2) (w.extractLsb' 0 10)) else none
  | 4 => if w.extractLsb' 10 1 = 0 then some (.lw (w.extractLsb' 21 5) (w.extractLsb' 16 5) (w.extractLsb' 11 2) (w.extractLsb' 0 10)) else none
  | 5 => if w.extractLsb' 10 1 = 0 then some (.lwu (w.extractLsb' 21 5) (w.extractLsb' 16 5) (w.extractLsb' 11 2) (w.extractLsb' 0 10)) else none
  | 6 => some (.ld (w.extractLsb' 21 5) (w.extractLsb' 16 5) (w.extractLsb' 11 2) (w.extractLsb' 10 1) (w.extractLsb' 0 10))
  | 7 => some (.ldp (w.extractLsb' 21 5) (w.extractLsb' 16 5) (w.extractLsb' 11 2) (w.extractLsb' 10 1) (w.extractLsb' 0 10))
  | _ => none

/-- Words of MAJ 9 (R82). -/
noncomputable def decodeMaj9 (w : BitVec 32) : Option Instr :=
  match (w.extractLsb' 13 3).toNat with
  | 0 => if w.extractLsb' 10 1 = 0 then some (.sb (w.extractLsb' 21 5) (w.extractLsb' 16 5) (w.extractLsb' 11 2) (w.extractLsb' 0 10)) else none
  | 1 => if w.extractLsb' 10 1 = 0 then some (.sh (w.extractLsb' 21 5) (w.extractLsb' 16 5) (w.extractLsb' 11 2) (w.extractLsb' 0 10)) else none
  | 2 => if w.extractLsb' 10 1 = 0 then some (.sw (w.extractLsb' 21 5) (w.extractLsb' 16 5) (w.extractLsb' 11 2) (w.extractLsb' 0 10)) else none
  | 3 => some (.sd (w.extractLsb' 21 5) (w.extractLsb' 16 5) (w.extractLsb' 11 2) (w.extractLsb' 10 1) (w.extractLsb' 0 10))
  | 4 => some (.sdp (w.extractLsb' 21 5) (w.extractLsb' 16 5) (w.extractLsb' 11 2) (w.extractLsb' 10 1) (w.extractLsb' 0 10))
  | _ => none

/-- Words of MAJ 10 (R82). -/
noncomputable def decodeMaj10 (w : BitVec 32) : Option Instr :=
  match (w.extractLsb' 7 4).toNat with
  | 0 => if w.extractLsb' 0 1 = 0 then some (.aadd (w.extractLsb' 21 5) (w.extractLsb' 16 5) (w.extractLsb' 11 5) (w.extractLsb' 6 1) (w.extractLsb' 5 1) (w.extractLsb' 4 1) (w.extractLsb' 3 1) (w.extractLsb' 1 2)) else none
  | 1 => if w.extractLsb' 0 1 = 0 then some (.aand (w.extractLsb' 21 5) (w.extractLsb' 16 5) (w.extractLsb' 11 5) (w.extractLsb' 6 1) (w.extractLsb' 5 1) (w.extractLsb' 4 1) (w.extractLsb' 3 1) (w.extractLsb' 1 2)) else none
  | 2 => if w.extractLsb' 0 1 = 0 then some (.aor (w.extractLsb' 21 5) (w.extractLsb' 16 5) (w.extractLsb' 11 5) (w.extractLsb' 6 1) (w.extractLsb' 5 1) (w.extractLsb' 4 1) (w.extractLsb' 3 1) (w.extractLsb' 1 2)) else none
  | 3 => if w.extractLsb' 0 1 = 0 then some (.axor (w.extractLsb' 21 5) (w.extractLsb' 16 5) (w.extractLsb' 11 5) (w.extractLsb' 6 1) (w.extractLsb' 5 1) (w.extractLsb' 4 1) (w.extractLsb' 3 1) (w.extractLsb' 1 2)) else none
  | 4 => if w.extractLsb' 0 1 = 0 then some (.amin (w.extractLsb' 21 5) (w.extractLsb' 16 5) (w.extractLsb' 11 5) (w.extractLsb' 6 1) (w.extractLsb' 5 1) (w.extractLsb' 4 1) (w.extractLsb' 3 1) (w.extractLsb' 1 2)) else none
  | 5 => if w.extractLsb' 0 1 = 0 then some (.amax (w.extractLsb' 21 5) (w.extractLsb' 16 5) (w.extractLsb' 11 5) (w.extractLsb' 6 1) (w.extractLsb' 5 1) (w.extractLsb' 4 1) (w.extractLsb' 3 1) (w.extractLsb' 1 2)) else none
  | 6 => if w.extractLsb' 0 1 = 0 then some (.aminu (w.extractLsb' 21 5) (w.extractLsb' 16 5) (w.extractLsb' 11 5) (w.extractLsb' 6 1) (w.extractLsb' 5 1) (w.extractLsb' 4 1) (w.extractLsb' 3 1) (w.extractLsb' 1 2)) else none
  | 7 => if w.extractLsb' 0 1 = 0 then some (.amaxu (w.extractLsb' 21 5) (w.extractLsb' 16 5) (w.extractLsb' 11 5) (w.extractLsb' 6 1) (w.extractLsb' 5 1) (w.extractLsb' 4 1) (w.extractLsb' 3 1) (w.extractLsb' 1 2)) else none
  | 8 => if w.extractLsb' 0 1 = 0 then some (.aswap (w.extractLsb' 21 5) (w.extractLsb' 16 5) (w.extractLsb' 11 5) (w.extractLsb' 6 1) (w.extractLsb' 5 1) (w.extractLsb' 4 1) (w.extractLsb' 3 1) (w.extractLsb' 1 2)) else none
  | 9 => if w.extractLsb' 0 1 = 0 then some (.acas (w.extractLsb' 21 5) (w.extractLsb' 16 5) (w.extractLsb' 11 5) (w.extractLsb' 6 1) (w.extractLsb' 5 1) (w.extractLsb' 4 1) (w.extractLsb' 3 1) (w.extractLsb' 1 2)) else none
  | 10 => if w.extractLsb' 11 5 = 0 ∧ w.extractLsb' 5 1 = 0 ∧ w.extractLsb' 0 1 = 0 then some (.ald (w.extractLsb' 21 5) (w.extractLsb' 16 5) (w.extractLsb' 6 1) (w.extractLsb' 4 1) (w.extractLsb' 3 1) (w.extractLsb' 1 2)) else none
  | 11 => if w.extractLsb' 21 5 = 0 ∧ w.extractLsb' 6 1 = 0 ∧ w.extractLsb' 3 1 = 0 ∧ w.extractLsb' 0 1 = 0 then some (.ast (w.extractLsb' 16 5) (w.extractLsb' 11 5) (w.extractLsb' 5 1) (w.extractLsb' 4 1) (w.extractLsb' 1 2)) else none
  | _ => none

/-- Words of MAJ 11 (R82). -/
noncomputable def decodeMaj11 (w : BitVec 32) : Option Instr :=
  match (w.extractLsb' 13 3).toNat with
  | 0 => if w.extractLsb' 16 10 = 0 ∧ w.extractLsb' 0 7 = 0 then some (.fence (w.extractLsb' 9 4) (w.extractLsb' 7 2)) else none
  | 1 => if w.extractLsb' 16 10 = 0 ∧ w.extractLsb' 0 7 = 0 then some (.fenceSv (w.extractLsb' 9 4) (w.extractLsb' 7 2)) else none
  | 2 => if w.extractLsb' 16 10 = 0 ∧ w.extractLsb' 0 7 = 0 then some (.fenceVs (w.extractLsb' 9 4) (w.extractLsb' 7 2)) else none
  | 3 => if w.extractLsb' 16 10 = 0 ∧ w.extractLsb' 9 4 = 0 ∧ w.extractLsb' 0 7 = 0 then some (.fenceW (w.extractLsb' 7 2)) else none
  | 4 => if w.extractLsb' 16 10 = 0 ∧ w.extractLsb' 0 13 = 0 then some .fenceI else none
  | _ => none

/-- Words of MAJ 12 (R82). -/
noncomputable def decodeMaj12 (w : BitVec 32) : Option Instr :=
  match (w.extractLsb' 13 3).toNat with
  | 0 => some (.vsetvli (w.extractLsb' 21 5) (w.extractLsb' 16 5) (w.extractLsb' 0 13))
  | 1 => if w.extractLsb' 5 8 = 0 then some (.vsetvl (w.extractLsb' 21 5) (w.extractLsb' 16 5) (w.extractLsb' 0 5)) else none
  | 2 => some (.vsetvlw (w.extractLsb' 21 5) (w.extractLsb' 16 5) (w.extractLsb' 0 13))
  | 3 => if w.extractLsb' 16 10 = 0 ∧ w.extractLsb' 0 13 = 0 then some .vrel else none
  | _ => none

/-- Words of MAJ 13 (R82). -/
noncomputable def decodeMaj13 (w : BitVec 32) : Option Instr :=
  match (w.extractLsb' 0 4).toNat with
  | 0 => some (.vaddVV (w.extractLsb' 21 5) (w.extractLsb' 16 5) (w.extractLsb' 11 5) (w.extractLsb' 7 4) (w.extractLsb' 4 3))
  | 1 => some (.vsubVV (w.extractLsb' 21 5) (w.extractLsb' 16 5) (w.extractLsb' 11 5) (w.extractLsb' 7 4) (w.extractLsb' 4 3))
  | 2 => some (.vsaddVV (w.extractLsb' 21 5) (w.extractLsb' 16 5) (w.extractLsb' 11 5) (w.extractLsb' 7 4) (w.extractLsb' 4 3))
  | 3 => some (.vssubVV (w.extractLsb' 21 5) (w.extractLsb' 16 5) (w.extractLsb' 11 5) (w.extractLsb' 7 4) (w.extractLsb' 4 3))
  | 4 => some (.vmulVV (w.extractLsb' 21 5) (w.extractLsb' 16 5) (w.extractLsb' 11 5) (w.extractLsb' 7 4) (w.extractLsb' 4 3))
  | 5 => some (.vmulhVV (w.extractLsb' 21 5) (w.extractLsb' 16 5) (w.extractLsb' 11 5) (w.extractLsb' 7 4) (w.extractLsb' 4 3))
  | 6 => some (.vandVV (w.extractLsb' 21 5) (w.extractLsb' 16 5) (w.extractLsb' 11 5) (w.extractLsb' 7 4) (w.extractLsb' 4 3))
  | 7 => some (.vorVV (w.extractLsb' 21 5) (w.extractLsb' 16 5) (w.extractLsb' 11 5) (w.extractLsb' 7 4) (w.extractLsb' 4 3))
  | 8 => some (.vxorVV (w.extractLsb' 21 5) (w.extractLsb' 16 5) (w.extractLsb' 11 5) (w.extractLsb' 7 4) (w.extractLsb' 4 3))
  | 9 => some (.vsllVV (w.extractLsb' 21 5) (w.extractLsb' 16 5) (w.extractLsb' 11 5) (w.extractLsb' 7 4) (w.extractLsb' 4 3))
  | 10 => some (.vsrlVV (w.extractLsb' 21 5) (w.extractLsb' 16 5) (w.extractLsb' 11 5) (w.extractLsb' 7 4) (w.extractLsb' 4 3))
  | 11 => some (.vsraVV (w.extractLsb' 21 5) (w.extractLsb' 16 5) (w.extractLsb' 11 5) (w.extractLsb' 7 4) (w.extractLsb' 4 3))
  | 12 => some (.vminVV (w.extractLsb' 21 5) (w.extractLsb' 16 5) (w.extractLsb' 11 5) (w.extractLsb' 7 4) (w.extractLsb' 4 3))
  | 13 => some (.vmaxVV (w.extractLsb' 21 5) (w.extractLsb' 16 5) (w.extractLsb' 11 5) (w.extractLsb' 7 4) (w.extractLsb' 4 3))
  | 14 => some (.vminuVV (w.extractLsb' 21 5) (w.extractLsb' 16 5) (w.extractLsb' 11 5) (w.extractLsb' 7 4) (w.extractLsb' 4 3))
  | 15 => some (.vmaxuVV (w.extractLsb' 21 5) (w.extractLsb' 16 5) (w.extractLsb' 11 5) (w.extractLsb' 7 4) (w.extractLsb' 4 3))
  | _ => none

/-- Words of MAJ 14 (R82). -/
noncomputable def decodeMaj14 (w : BitVec 32) : Option Instr :=
  match (w.extractLsb' 0 4).toNat with
  | 0 => some (.vaddVX (w.extractLsb' 21 5) (w.extractLsb' 16 5) (w.extractLsb' 11 5) (w.extractLsb' 7 4) (w.extractLsb' 4 3))
  | 1 => some (.vsubVX (w.extractLsb' 21 5) (w.extractLsb' 16 5) (w.extractLsb' 11 5) (w.extractLsb' 7 4) (w.extractLsb' 4 3))
  | 2 => some (.vsaddVX (w.extractLsb' 21 5) (w.extractLsb' 16 5) (w.extractLsb' 11 5) (w.extractLsb' 7 4) (w.extractLsb' 4 3))
  | 3 => some (.vssubVX (w.extractLsb' 21 5) (w.extractLsb' 16 5) (w.extractLsb' 11 5) (w.extractLsb' 7 4) (w.extractLsb' 4 3))
  | 4 => some (.vmulVX (w.extractLsb' 21 5) (w.extractLsb' 16 5) (w.extractLsb' 11 5) (w.extractLsb' 7 4) (w.extractLsb' 4 3))
  | 5 => some (.vmulhVX (w.extractLsb' 21 5) (w.extractLsb' 16 5) (w.extractLsb' 11 5) (w.extractLsb' 7 4) (w.extractLsb' 4 3))
  | 6 => some (.vandVX (w.extractLsb' 21 5) (w.extractLsb' 16 5) (w.extractLsb' 11 5) (w.extractLsb' 7 4) (w.extractLsb' 4 3))
  | 7 => some (.vorVX (w.extractLsb' 21 5) (w.extractLsb' 16 5) (w.extractLsb' 11 5) (w.extractLsb' 7 4) (w.extractLsb' 4 3))
  | 8 => some (.vxorVX (w.extractLsb' 21 5) (w.extractLsb' 16 5) (w.extractLsb' 11 5) (w.extractLsb' 7 4) (w.extractLsb' 4 3))
  | 9 => some (.vsllVX (w.extractLsb' 21 5) (w.extractLsb' 16 5) (w.extractLsb' 11 5) (w.extractLsb' 7 4) (w.extractLsb' 4 3))
  | 10 => some (.vsrlVX (w.extractLsb' 21 5) (w.extractLsb' 16 5) (w.extractLsb' 11 5) (w.extractLsb' 7 4) (w.extractLsb' 4 3))
  | 11 => some (.vsraVX (w.extractLsb' 21 5) (w.extractLsb' 16 5) (w.extractLsb' 11 5) (w.extractLsb' 7 4) (w.extractLsb' 4 3))
  | 12 => some (.vminVX (w.extractLsb' 21 5) (w.extractLsb' 16 5) (w.extractLsb' 11 5) (w.extractLsb' 7 4) (w.extractLsb' 4 3))
  | 13 => some (.vmaxVX (w.extractLsb' 21 5) (w.extractLsb' 16 5) (w.extractLsb' 11 5) (w.extractLsb' 7 4) (w.extractLsb' 4 3))
  | 14 => some (.vminuVX (w.extractLsb' 21 5) (w.extractLsb' 16 5) (w.extractLsb' 11 5) (w.extractLsb' 7 4) (w.extractLsb' 4 3))
  | 15 => some (.vmaxuVX (w.extractLsb' 21 5) (w.extractLsb' 16 5) (w.extractLsb' 11 5) (w.extractLsb' 7 4) (w.extractLsb' 4 3))
  | _ => none

/-- Words of MAJ 15 (R82). -/
noncomputable def decodeMaj15 (w : BitVec 32) : Option Instr :=
  match (w.extractLsb' 0 4).toNat with
  | 0 => some (.vaddi (w.extractLsb' 21 5) (w.extractLsb' 16 5) (w.extractLsb' 12 4) (w.extractLsb' 4 8))
  | 1 => some (.vandi (w.extractLsb' 21 5) (w.extractLsb' 16 5) (w.extractLsb' 12 4) (w.extractLsb' 4 8))
  | 2 => some (.vori (w.extractLsb' 21 5) (w.extractLsb' 16 5) (w.extractLsb' 12 4) (w.extractLsb' 4 8))
  | 3 => some (.vxori (w.extractLsb' 21 5) (w.extractLsb' 16 5) (w.extractLsb' 12 4) (w.extractLsb' 4 8))
  | 4 => some (.vslli (w.extractLsb' 21 5) (w.extractLsb' 16 5) (w.extractLsb' 12 4) (w.extractLsb' 4 8))
  | 5 => some (.vsrli (w.extractLsb' 21 5) (w.extractLsb' 16 5) (w.extractLsb' 12 4) (w.extractLsb' 4 8))
  | 6 => some (.vsrai (w.extractLsb' 21 5) (w.extractLsb' 16 5) (w.extractLsb' 12 4) (w.extractLsb' 4 8))
  | 7 => some (.vrsubi (w.extractLsb' 21 5) (w.extractLsb' 16 5) (w.extractLsb' 12 4) (w.extractLsb' 4 8))
  | 8 => some (.vmini (w.extractLsb' 21 5) (w.extractLsb' 16 5) (w.extractLsb' 12 4) (w.extractLsb' 4 8))
  | 9 => some (.vmaxi (w.extractLsb' 21 5) (w.extractLsb' 16 5) (w.extractLsb' 12 4) (w.extractLsb' 4 8))
  | 10 => if w.extractLsb' 16 5 = 0 then some (.vmvi (w.extractLsb' 21 5) (w.extractLsb' 12 4) (w.extractLsb' 4 8)) else none
  | 11 => some (.vmixi (w.extractLsb' 21 5) (w.extractLsb' 16 5) (w.extractLsb' 12 4) (w.extractLsb' 4 8))
  | _ => none

/-- Words of MAJ 16 (R82). -/
noncomputable def decodeMaj16 (w : BitVec 32) : Option Instr :=
  match (w.extractLsb' 0 4).toNat with
  | 0 => some (.vfadd (w.extractLsb' 21 5) (w.extractLsb' 16 5) (w.extractLsb' 11 5) (w.extractLsb' 7 4) (w.extractLsb' 4 3))
  | 1 => some (.vfsub (w.extractLsb' 21 5) (w.extractLsb' 16 5) (w.extractLsb' 11 5) (w.extractLsb' 7 4) (w.extractLsb' 4 3))
  | 2 => some (.vfmul (w.extractLsb' 21 5) (w.extractLsb' 16 5) (w.extractLsb' 11 5) (w.extractLsb' 7 4) (w.extractLsb' 4 3))
  | 3 => some (.vfdiv (w.extractLsb' 21 5) (w.extractLsb' 16 5) (w.extractLsb' 11 5) (w.extractLsb' 7 4) (w.extractLsb' 4 3))
  | 4 => some (.vfmac (w.extractLsb' 21 5) (w.extractLsb' 16 5) (w.extractLsb' 11 5) (w.extractLsb' 7 4) (w.extractLsb' 4 3))
  | 5 => some (.vfnmac (w.extractLsb' 21 5) (w.extractLsb' 16 5) (w.extractLsb' 11 5) (w.extractLsb' 7 4) (w.extractLsb' 4 3))
  | 6 => some (.vfmin (w.extractLsb' 21 5) (w.extractLsb' 16 5) (w.extractLsb' 11 5) (w.extractLsb' 7 4) (w.extractLsb' 4 3))
  | 7 => some (.vfmax (w.extractLsb' 21 5) (w.extractLsb' 16 5) (w.extractLsb' 11 5) (w.extractLsb' 7 4) (w.extractLsb' 4 3))
  | 8 => if w.extractLsb' 16 5 = 0 then some (.vfsqrt (w.extractLsb' 21 5) (w.extractLsb' 11 5) (w.extractLsb' 7 4) (w.extractLsb' 4 3)) else none
  | 9 => if w.extractLsb' 16 5 = 0 then some (.vfcvt (w.extractLsb' 21 5) (w.extractLsb' 11 5) (w.extractLsb' 7 4) (w.extractLsb' 4 3)) else none
  | 10 => if w.extractLsb' 16 5 = 0 then some (.vfabs (w.extractLsb' 21 5) (w.extractLsb' 11 5) (w.extractLsb' 7 4) (w.extractLsb' 4 3)) else none
  | 11 => if w.extractLsb' 16 5 = 0 then some (.vfneg (w.extractLsb' 21 5) (w.extractLsb' 11 5) (w.extractLsb' 7 4) (w.extractLsb' 4 3)) else none
  | 12 => some (.vfsgnj (w.extractLsb' 21 5) (w.extractLsb' 16 5) (w.extractLsb' 11 5) (w.extractLsb' 7 4) (w.extractLsb' 4 3))
  | 13 => if w.extractLsb' 16 5 = 0 then some (.vfclass (w.extractLsb' 21 5) (w.extractLsb' 11 5) (w.extractLsb' 7 4) (w.extractLsb' 4 3)) else none
  | _ => none

/-- Words of MAJ 17 (R82). -/
noncomputable def decodeMaj17 (w : BitVec 32) : Option Instr :=
  match (w.extractLsb' 0 4).toNat with
  | 0 => some (.vfaddVX (w.extractLsb' 21 5) (w.extractLsb' 16 5) (w.extractLsb' 11 5) (w.extractLsb' 7 4) (w.extractLsb' 4 3))
  | 1 => some (.vfsubVX (w.extractLsb' 21 5) (w.extractLsb' 16 5) (w.extractLsb' 11 5) (w.extractLsb' 7 4) (w.extractLsb' 4 3))
  | 2 => some (.vfmulVX (w.extractLsb' 21 5) (w.extractLsb' 16 5) (w.extractLsb' 11 5) (w.extractLsb' 7 4) (w.extractLsb' 4 3))
  | 3 => some (.vfmacVX (w.extractLsb' 21 5) (w.extractLsb' 16 5) (w.extractLsb' 11 5) (w.extractLsb' 7 4) (w.extractLsb' 4 3))
  | 4 => some (.vfminVX (w.extractLsb' 21 5) (w.extractLsb' 16 5) (w.extractLsb' 11 5) (w.extractLsb' 7 4) (w.extractLsb' 4 3))
  | 5 => some (.vfmaxVX (w.extractLsb' 21 5) (w.extractLsb' 16 5) (w.extractLsb' 11 5) (w.extractLsb' 7 4) (w.extractLsb' 4 3))
  | 6 => some (.vfrsubVX (w.extractLsb' 21 5) (w.extractLsb' 16 5) (w.extractLsb' 11 5) (w.extractLsb' 7 4) (w.extractLsb' 4 3))
  | 7 => some (.vfrdivVX (w.extractLsb' 21 5) (w.extractLsb' 16 5) (w.extractLsb' 11 5) (w.extractLsb' 7 4) (w.extractLsb' 4 3))
  | _ => none

/-- Words of MAJ 18 (R82). -/
noncomputable def decodeMaj18 (w : BitVec 32) : Option Instr :=
  match (w.extractLsb' 0 7).toNat with
  | 0 => some (.vcmpeq (w.extractLsb' 21 5) (w.extractLsb' 16 5) (w.extractLsb' 11 5) (w.extractLsb' 7 4))
  | 1 => some (.vcmpne (w.extractLsb' 21 5) (w.extractLsb' 16 5) (w.extractLsb' 11 5) (w.extractLsb' 7 4))
  | 2 => some (.vcmplt (w.extractLsb' 21 5) (w.extractLsb' 16 5) (w.extractLsb' 11 5) (w.extractLsb' 7 4))
  | 3 => some (.vcmpltu (w.extractLsb' 21 5) (w.extractLsb' 16 5) (w.extractLsb' 11 5) (w.extractLsb' 7 4))
  | 4 => some (.vcmple (w.extractLsb' 21 5) (w.extractLsb' 16 5) (w.extractLsb' 11 5) (w.extractLsb' 7 4))
  | 5 => some (.vcmpleu (w.extractLsb' 21 5) (w.extractLsb' 16 5) (w.extractLsb' 11 5) (w.extractLsb' 7 4))
  | 6 => some (.vfcmpeq (w.extractLsb' 21 5) (w.extractLsb' 16 5) (w.extractLsb' 11 5) (w.extractLsb' 7 4))
  | 7 => some (.vfcmplt (w.extractLsb' 21 5) (w.extractLsb' 16 5) (w.extractLsb' 11 5) (w.extractLsb' 7 4))
  | 8 => some (.vfcmple (w.extractLsb' 21 5) (w.extractLsb' 16 5) (w.extractLsb' 11 5) (w.extractLsb' 7 4))
  | 9 => some (.vfcmpun (w.extractLsb' 21 5) (w.extractLsb' 16 5) (w.extractLsb' 11 5) (w.extractLsb' 7 4))
  | 16 => some (.vredsum (w.extractLsb' 21 5) (w.extractLsb' 16 5) (w.extractLsb' 11 5) (w.extractLsb' 7 4))
  | 17 => some (.vredmin (w.extractLsb' 21 5) (w.extractLsb' 16 5) (w.extractLsb' 11 5) (w.extractLsb' 7 4))
  | 18 => some (.vredmax (w.extractLsb' 21 5) (w.extractLsb' 16 5) (w.extractLsb' 11 5) (w.extractLsb' 7 4))
  | 19 => some (.vredminu (w.extractLsb' 21 5) (w.extractLsb' 16 5) (w.extractLsb' 11 5) (w.extractLsb' 7 4))
  | 20 => some (.vredmaxu (w.extractLsb' 21 5) (w.extractLsb' 16 5) (w.extractLsb' 11 5) (w.extractLsb' 7 4))
  | 21 => some (.vredand (w.extractLsb' 21 5) (w.extractLsb' 16 5) (w.extractLsb' 11 5) (w.extractLsb' 7 4))
  | 22 => some (.vredor (w.extractLsb' 21 5) (w.extractLsb' 16 5) (w.extractLsb' 11 5) (w.extractLsb' 7 4))
  | 23 => some (.vredxor (w.extractLsb' 21 5) (w.extractLsb' 16 5) (w.extractLsb' 11 5) (w.extractLsb' 7 4))
  | 24 => some (.vfredsum (w.extractLsb' 21 5) (w.extractLsb' 16 5) (w.extractLsb' 11 5) (w.extractLsb' 7 4))
  | 25 => some (.vfredmin (w.extractLsb' 21 5) (w.extractLsb' 16 5) (w.extractLsb' 11 5) (w.extractLsb' 7 4))
  | 26 => some (.vfredmax (w.extractLsb' 21 5) (w.extractLsb' 16 5) (w.extractLsb' 11 5) (w.extractLsb' 7 4))
  | 32 => some (.vperm (w.extractLsb' 21 5) (w.extractLsb' 16 5) (w.extractLsb' 11 5) (w.extractLsb' 7 4))
  | 33 => some (.vslideup (w.extractLsb' 21 5) (w.extractLsb' 16 5) (w.extractLsb' 11 5) (w.extractLsb' 7 4))
  | 34 => some (.vslidedown (w.extractLsb' 21 5) (w.extractLsb' 16 5) (w.extractLsb' 11 5) (w.extractLsb' 7 4))
  | 35 => if w.extractLsb' 16 5 = 0 then some (.vcompress (w.extractLsb' 21 5) (w.extractLsb' 11 5) (w.extractLsb' 7 4)) else none
  | 36 => if w.extractLsb' 16 5 = 0 then some (.vexpand (w.extractLsb' 21 5) (w.extractLsb' 11 5) (w.extractLsb' 7 4)) else none
  | 37 => if w.extractLsb' 11 10 = 0 then some (.vid (w.extractLsb' 21 5) (w.extractLsb' 7 4)) else none
  | 38 => if w.extractLsb' 11 5 = 0 then some (.vsplat (w.extractLsb' 21 5) (w.extractLsb' 16 5) (w.extractLsb' 7 4)) else none
  | 39 => if w.extractLsb' 7 4 = 0 then some (.vext (w.extractLsb' 21 5) (w.extractLsb' 16 5) (w.extractLsb' 11 5)) else none
  | 40 => if w.extractLsb' 7 4 = 0 then some (.vins (w.extractLsb' 21 5) (w.extractLsb' 16 5) (w.extractLsb' 11 5)) else none
  | 41 => if w.extractLsb' 16 5 = 0 then some (.vmv (w.extractLsb' 21 5) (w.extractLsb' 11 5) (w.extractLsb' 7 4)) else none
  | 42 => some (.vmix (w.extractLsb' 21 5) (w.extractLsb' 16 5) (w.extractLsb' 11 5) (w.extractLsb' 7 4))
  | _ => none

/-- Words of MAJ 19 (R82). -/
noncomputable def decodeMaj19 (w : BitVec 32) : Option Instr :=
  match (w.extractLsb' 0 8).toNat with
  | 0 => some (.pand (w.extractLsb' 20 6) (w.extractLsb' 14 6) (w.extractLsb' 8 6))
  | 1 => some (.por (w.extractLsb' 20 6) (w.extractLsb' 14 6) (w.extractLsb' 8 6))
  | 2 => some (.pxor (w.extractLsb' 20 6) (w.extractLsb' 14 6) (w.extractLsb' 8 6))
  | 3 => some (.pandn (w.extractLsb' 20 6) (w.extractLsb' 14 6) (w.extractLsb' 8 6))
  | 4 => if w.extractLsb' 8 6 = 0 then some (.pnot (w.extractLsb' 20 6) (w.extractLsb' 14 6)) else none
  | 5 => if w.extractLsb' 8 12 = 0 then some (.pset (w.extractLsb' 20 6)) else none
  | 6 => if w.extractLsb' 8 12 = 0 then some (.pclr (w.extractLsb' 20 6)) else none
  | 7 => if w.extractLsb' 8 6 = 0 then some (.pmv (w.extractLsb' 20 6) (w.extractLsb' 14 6)) else none
  | 8 => if w.extractLsb' 25 1 = 0 ∧ w.extractLsb' 8 6 = 0 then some (.pfirst (w.extractLsb' 20 5) (w.extractLsb' 14 6)) else none
  | 9 => if w.extractLsb' 25 1 = 0 ∧ w.extractLsb' 8 6 = 0 then some (.pcount (w.extractLsb' 20 5) (w.extractLsb' 14 6)) else none
  | 10 => if w.extractLsb' 19 1 = 0 ∧ w.extractLsb' 8 6 = 0 then some (.pld (w.extractLsb' 20 6) (w.extractLsb' 14 5)) else none
  | 11 => if w.extractLsb' 19 7 = 0 then some (.pst (w.extractLsb' 14 5) (w.extractLsb' 8 6)) else none
  | 12 => if w.extractLsb' 19 1 = 0 ∧ w.extractLsb' 8 6 = 0 then some (.psetx (w.extractLsb' 20 6) (w.extractLsb' 14 5)) else none
  | _ => none

/-- Words of MAJ 20 (R82). -/
noncomputable def decodeMaj20 (w : BitVec 32) : Option Instr :=
  match (w.extractLsb' 3 2).toNat with
  | 0 => if w.extractLsb' 11 5 = 0 then some (.vld (w.extractLsb' 21 5) (w.extractLsb' 16 5) (w.extractLsb' 7 4) (w.extractLsb' 5 2) (w.extractLsb' 2 1) (w.extractLsb' 0 2)) else none
  | 1 => some (.vlds (w.extractLsb' 21 5) (w.extractLsb' 16 5) (w.extractLsb' 11 5) (w.extractLsb' 7 4) (w.extractLsb' 5 2) (w.extractLsb' 2 1) (w.extractLsb' 0 2))
  | 2 => if w.extractLsb' 11 5 = 0 then some (.vldff (w.extractLsb' 21 5) (w.extractLsb' 16 5) (w.extractLsb' 7 4) (w.extractLsb' 5 2) (w.extractLsb' 2 1) (w.extractLsb' 0 2)) else none
  | 3 => some (.vldz (w.extractLsb' 21 5) (w.extractLsb' 16 5) (w.extractLsb' 11 5) (w.extractLsb' 7 4) (w.extractLsb' 5 2) (w.extractLsb' 2 1) (w.extractLsb' 0 2))
  | _ => none

/-- Words of MAJ 21 (R82). -/
noncomputable def decodeMaj21 (w : BitVec 32) : Option Instr :=
  match (w.extractLsb' 3 2).toNat with
  | 0 => if w.extractLsb' 11 5 = 0 then some (.vst (w.extractLsb' 21 5) (w.extractLsb' 16 5) (w.extractLsb' 7 4) (w.extractLsb' 5 2) (w.extractLsb' 2 1) (w.extractLsb' 0 2)) else none
  | 1 => some (.vsts (w.extractLsb' 21 5) (w.extractLsb' 16 5) (w.extractLsb' 11 5) (w.extractLsb' 7 4) (w.extractLsb' 5 2) (w.extractLsb' 2 1) (w.extractLsb' 0 2))
  | 3 => some (.vstz (w.extractLsb' 21 5) (w.extractLsb' 16 5) (w.extractLsb' 11 5) (w.extractLsb' 7 4) (w.extractLsb' 5 2) (w.extractLsb' 2 1) (w.extractLsb' 0 2))
  | _ => none

/-- Words of MAJ 22 (R82). -/
noncomputable def decodeMaj22 (w : BitVec 32) : Option Instr :=
  some (.vgat (w.extractLsb' 21 5) (w.extractLsb' 16 5) (w.extractLsb' 11 5) (w.extractLsb' 7 4) (w.extractLsb' 5 2) (w.extractLsb' 3 2) (w.extractLsb' 2 1) (w.extractLsb' 1 1) (w.extractLsb' 0 1))

/-- Words of MAJ 23 (R82). -/
noncomputable def decodeMaj23 (w : BitVec 32) : Option Instr :=
  if w.extractLsb' 2 1 = 0 then some (.vsca (w.extractLsb' 21 5) (w.extractLsb' 16 5) (w.extractLsb' 11 5) (w.extractLsb' 7 4) (w.extractLsb' 5 2) (w.extractLsb' 3 2) (w.extractLsb' 1 1) (w.extractLsb' 0 1)) else none

/-- Words of MAJ 24 (R82). -/
noncomputable def decodeMaj24 (w : BitVec 32) : Option Instr :=
  match (w.extractLsb' 0 3).toNat with
  | 0 => some (.vaadd (w.extractLsb' 21 5) (w.extractLsb' 16 5) (w.extractLsb' 11 5) (w.extractLsb' 7 4) (w.extractLsb' 6 1) (w.extractLsb' 5 1) (w.extractLsb' 3 2))
  | 1 => some (.vaand (w.extractLsb' 21 5) (w.extractLsb' 16 5) (w.extractLsb' 11 5) (w.extractLsb' 7 4) (w.extractLsb' 6 1) (w.extractLsb' 5 1) (w.extractLsb' 3 2))
  | 2 => some (.vaor (w.extractLsb' 21 5) (w.extractLsb' 16 5) (w.extractLsb' 11 5) (w.extractLsb' 7 4) (w.extractLsb' 6 1) (w.extractLsb' 5 1) (w.extractLsb' 3 2))
  | 3 => some (.vaxor (w.extractLsb' 21 5) (w.extractLsb' 16 5) (w.extractLsb' 11 5) (w.extractLsb' 7 4) (w.extractLsb' 6 1) (w.extractLsb' 5 1) (w.extractLsb' 3 2))
  | 4 => some (.vamin (w.extractLsb' 21 5) (w.extractLsb' 16 5) (w.extractLsb' 11 5) (w.extractLsb' 7 4) (w.extractLsb' 6 1) (w.extractLsb' 5 1) (w.extractLsb' 3 2))
  | 5 => some (.vamax (w.extractLsb' 21 5) (w.extractLsb' 16 5) (w.extractLsb' 11 5) (w.extractLsb' 7 4) (w.extractLsb' 6 1) (w.extractLsb' 5 1) (w.extractLsb' 3 2))
  | 6 => some (.vaminu (w.extractLsb' 21 5) (w.extractLsb' 16 5) (w.extractLsb' 11 5) (w.extractLsb' 7 4) (w.extractLsb' 6 1) (w.extractLsb' 5 1) (w.extractLsb' 3 2))
  | 7 => some (.vamaxu (w.extractLsb' 21 5) (w.extractLsb' 16 5) (w.extractLsb' 11 5) (w.extractLsb' 7 4) (w.extractLsb' 6 1) (w.extractLsb' 5 1) (w.extractLsb' 3 2))
  | _ => none

/-- Words of MAJ 25 (R82). -/
noncomputable def decodeMaj25 (w : BitVec 32) : Option Instr :=
  match (w.extractLsb' 0 3).toNat with
  | 0 => some (.vuadd (w.extractLsb' 21 5) (w.extractLsb' 16 5) (w.extractLsb' 11 5) (w.extractLsb' 7 4) (w.extractLsb' 6 1) (w.extractLsb' 5 1) (w.extractLsb' 3 2))
  | 1 => some (.vuand (w.extractLsb' 21 5) (w.extractLsb' 16 5) (w.extractLsb' 11 5) (w.extractLsb' 7 4) (w.extractLsb' 6 1) (w.extractLsb' 5 1) (w.extractLsb' 3 2))
  | 2 => some (.vuor (w.extractLsb' 21 5) (w.extractLsb' 16 5) (w.extractLsb' 11 5) (w.extractLsb' 7 4) (w.extractLsb' 6 1) (w.extractLsb' 5 1) (w.extractLsb' 3 2))
  | 3 => some (.vuxor (w.extractLsb' 21 5) (w.extractLsb' 16 5) (w.extractLsb' 11 5) (w.extractLsb' 7 4) (w.extractLsb' 6 1) (w.extractLsb' 5 1) (w.extractLsb' 3 2))
  | 4 => some (.vumin (w.extractLsb' 21 5) (w.extractLsb' 16 5) (w.extractLsb' 11 5) (w.extractLsb' 7 4) (w.extractLsb' 6 1) (w.extractLsb' 5 1) (w.extractLsb' 3 2))
  | 5 => some (.vumax (w.extractLsb' 21 5) (w.extractLsb' 16 5) (w.extractLsb' 11 5) (w.extractLsb' 7 4) (w.extractLsb' 6 1) (w.extractLsb' 5 1) (w.extractLsb' 3 2))
  | 6 => some (.vuminu (w.extractLsb' 21 5) (w.extractLsb' 16 5) (w.extractLsb' 11 5) (w.extractLsb' 7 4) (w.extractLsb' 6 1) (w.extractLsb' 5 1) (w.extractLsb' 3 2))
  | 7 => some (.vumaxu (w.extractLsb' 21 5) (w.extractLsb' 16 5) (w.extractLsb' 11 5) (w.extractLsb' 7 4) (w.extractLsb' 6 1) (w.extractLsb' 5 1) (w.extractLsb' 3 2))
  | _ => none

/-- Words of MAJ 26 (R82). -/
noncomputable def decodeMaj26 (w : BitVec 32) : Option Instr :=
  match (w.extractLsb' 0 4).toNat with
  | 0 => some (.mma (w.extractLsb' 21 5) (w.extractLsb' 16 5) (w.extractLsb' 11 5) (w.extractLsb' 9 2) (w.extractLsb' 8 1) (w.extractLsb' 7 1) (w.extractLsb' 4 3))
  | 1 => some (.mmaz (w.extractLsb' 21 5) (w.extractLsb' 16 5) (w.extractLsb' 11 5) (w.extractLsb' 9 2) (w.extractLsb' 8 1) (w.extractLsb' 7 1) (w.extractLsb' 4 3))
  | 2 => some (.mms (w.extractLsb' 21 5) (w.extractLsb' 16 5) (w.extractLsb' 11 5) (w.extractLsb' 9 2) (w.extractLsb' 8 1) (w.extractLsb' 7 1) (w.extractLsb' 4 3))
  | 3 => some (.mmai (w.extractLsb' 21 5) (w.extractLsb' 16 5) (w.extractLsb' 11 5) (w.extractLsb' 9 2) (w.extractLsb' 8 1) (w.extractLsb' 7 1) (w.extractLsb' 4 3))
  | 4 => some (.mmaiz (w.extractLsb' 21 5) (w.extractLsb' 16 5) (w.extractLsb' 11 5) (w.extractLsb' 9 2) (w.extractLsb' 8 1) (w.extractLsb' 7 1) (w.extractLsb' 4 3))
  | _ => none

/-- Words of MAJ 27 (R82). -/
noncomputable def decodeMaj27 (w : BitVec 32) : Option Instr :=
  if w.extractLsb' 21 5 = 0 ∧ w.extractLsb' 0 16 = 0 then some (.vcp (w.extractLsb' 16 5)) else none

/-- Words of MAJ 28 (R82). -/
noncomputable def decodeMaj28 (w : BitVec 32) : Option Instr :=
  match (w.extractLsb' 0 4).toNat with
  | 0 => if w.extractLsb' 21 5 = 0 ∧ w.extractLsb' 6 10 = 0 then some (.psbind (w.extractLsb' 16 5) (w.extractLsb' 4 2)) else none
  | 1 => if w.extractLsb' 6 20 = 0 then some (.psfree (w.extractLsb' 4 2)) else none
  | 2 => if w.extractLsb' 6 15 = 0 then some (.psver (w.extractLsb' 21 5) (w.extractLsb' 4 2)) else none
  | 3 => if w.extractLsb' 21 5 = 0 ∧ w.extractLsb' 6 5 = 0 then some (.psexp (w.extractLsb' 16 5) (w.extractLsb' 11 5) (w.extractLsb' 4 2)) else none
  | 4 => if w.extractLsb' 21 5 = 0 ∧ w.extractLsb' 6 10 = 0 then some (.psimp (w.extractLsb' 16 5) (w.extractLsb' 4 2)) else none
  | 5 => if w.extractLsb' 6 20 = 0 then some (.psord (w.extractLsb' 4 2)) else none
  | 6 => if w.extractLsb' 21 5 = 0 ∧ w.extractLsb' 6 10 = 0 then some (.pswait (w.extractLsb' 16 5) (w.extractLsb' 4 2)) else none
  | 7 => if w.extractLsb' 21 5 = 0 ∧ w.extractLsb' 6 10 = 0 then some (.psrec (w.extractLsb' 16 5) (w.extractLsb' 4 2)) else none
  | 8 => if w.extractLsb' 6 15 = 0 then some (.psstat (w.extractLsb' 21 5) (w.extractLsb' 4 2)) else none
  | _ => none

/-- Words of MAJ 29 (R82). -/
noncomputable def decodeMaj29 (w : BitVec 32) : Option Instr :=
  match (w.extractLsb' 0 11).toNat with
  | 0 => if w.extractLsb' 21 5 = 0 ∧ w.extractLsb' 11 5 = 0 then some (.gbar (w.extractLsb' 16 5)) else none
  | 1 => if w.extractLsb' 21 5 = 0 ∧ w.extractLsb' 11 5 = 0 then some (.garr (w.extractLsb' 16 5)) else none
  | 2 => if w.extractLsb' 21 5 = 0 ∧ w.extractLsb' 11 5 = 0 then some (.gdrop (w.extractLsb' 16 5)) else none
  | 3 => if w.extractLsb' 21 5 = 0 ∧ w.extractLsb' 11 5 = 0 then some (.gwait (w.extractLsb' 16 5)) else none
  | 4 => some (.launch (w.extractLsb' 21 5) (w.extractLsb' 16 5) (w.extractLsb' 11 5))
  | 5 => if w.extractLsb' 11 5 = 0 then some (.vxsend (w.extractLsb' 21 5) (w.extractLsb' 16 5)) else none
  | 6 => if w.extractLsb' 11 5 = 0 then some (.vxrecv (w.extractLsb' 21 5) (w.extractLsb' 16 5)) else none
  | 7 => if w.extractLsb' 11 15 = 0 then some .exit else none
  | _ => none

/-- Words of MAJ 30 (R82). -/
noncomputable def decodeMaj30 (w : BitVec 32) : Option Instr :=
  match (w.extractLsb' 13 3).toNat with
  | 0 => if w.extractLsb' 12 1 = 0 then some (.csrrw (w.extractLsb' 21 5) (w.extractLsb' 16 5) (w.extractLsb' 0 12)) else none
  | 1 => if w.extractLsb' 12 1 = 0 then some (.csrrs (w.extractLsb' 21 5) (w.extractLsb' 16 5) (w.extractLsb' 0 12)) else none
  | 2 => if w.extractLsb' 12 1 = 0 then some (.csrrc (w.extractLsb' 21 5) (w.extractLsb' 16 5) (w.extractLsb' 0 12)) else none
  | 7 =>
    match (w.extractLsb' 0 8).toNat with
    | 0 => if w.extractLsb' 21 5 = 0 ∧ w.extractLsb' 8 5 = 0 then some (.sys (w.extractLsb' 16 5)) else none
    | 1 => if w.extractLsb' 16 10 = 0 ∧ w.extractLsb' 8 5 = 0 then some .tret else none
    | 2 => if w.extractLsb' 16 10 = 0 ∧ w.extractLsb' 8 5 = 0 then some .brk else none
    | 3 => if w.extractLsb' 16 10 = 0 ∧ w.extractLsb' 8 5 = 0 then some .park else none
    | 4 => if w.extractLsb' 21 5 = 0 then some (.tlbinv (w.extractLsb' 16 5) (w.extractLsb' 8 5)) else none
    | 5 => if w.extractLsb' 21 5 = 0 ∧ w.extractLsb' 8 5 = 0 then some (.ptcinv (w.extractLsb' 16 5)) else none
    | 6 => if w.extractLsb' 21 5 = 0 ∧ w.extractLsb' 8 5 = 0 then some (.pgshare (w.extractLsb' 16 5)) else none
    | 7 => if w.extractLsb' 21 5 = 0 ∧ w.extractLsb' 8 5 = 0 then some (.pgdrop (w.extractLsb' 16 5)) else none
    | 8 => if w.extractLsb' 21 5 = 0 then some (.pgmove (w.extractLsb' 16 5) (w.extractLsb' 8 5)) else none
    | 9 => if w.extractLsb' 8 5 = 0 then some (.pghot (w.extractLsb' 21 5) (w.extractLsb' 16 5)) else none
    | 10 => if w.extractLsb' 8 5 = 0 then some (.mfcmp (w.extractLsb' 21 5) (w.extractLsb' 16 5)) else none
    | 11 => if w.extractLsb' 16 10 = 0 ∧ w.extractLsb' 8 5 = 0 then some .halt else none
    | _ => none
  | _ => none

/-- Words of MAJ 31 (R82). -/
noncomputable def decodeMaj31 (w : BitVec 32) : Option Instr :=
  match (w.extractLsb' 0 3).toNat with
  | 0 => some (.vaswap (w.extractLsb' 21 5) (w.extractLsb' 16 5) (w.extractLsb' 11 5) (w.extractLsb' 7 4) (w.extractLsb' 6 1) (w.extractLsb' 5 1) (w.extractLsb' 3 2))
  | 1 => some (.vacas (w.extractLsb' 21 5) (w.extractLsb' 16 5) (w.extractLsb' 11 5) (w.extractLsb' 7 4) (w.extractLsb' 6 1) (w.extractLsb' 5 1) (w.extractLsb' 3 2))
  | 2 => if w.extractLsb' 5 1 = 0 then some (.vwaitEq (w.extractLsb' 21 5) (w.extractLsb' 16 5) (w.extractLsb' 11 5) (w.extractLsb' 7 4) (w.extractLsb' 6 1) (w.extractLsb' 3 2)) else none
  | 3 => if w.extractLsb' 5 1 = 0 then some (.vwaitNe (w.extractLsb' 21 5) (w.extractLsb' 16 5) (w.extractLsb' 11 5) (w.extractLsb' 7 4) (w.extractLsb' 6 1) (w.extractLsb' 3 2)) else none
  | 4 => if w.extractLsb' 5 1 = 0 then some (.vwaitGe (w.extractLsb' 21 5) (w.extractLsb' 16 5) (w.extractLsb' 11 5) (w.extractLsb' 7 4) (w.extractLsb' 6 1) (w.extractLsb' 3 2)) else none
  | 5 => if w.extractLsb' 5 1 = 0 then some (.vwaitGeu (w.extractLsb' 21 5) (w.extractLsb' 16 5) (w.extractLsb' 11 5) (w.extractLsb' 7 4) (w.extractLsb' 6 1) (w.extractLsb' 3 2)) else none
  | _ => none

/-- The row of the encoding maps that a word belongs to, read from its major opcode on (R82). -/
noncomputable def decodeRow (w : BitVec 32) : Option Instr :=
  match (w.extractLsb' 26 5).toNat with
  | 1 => decodeMaj1 w
  | 2 => decodeMaj2 w
  | 3 => decodeMaj3 w
  | 4 => decodeMaj4 w
  | 5 => decodeMaj5 w
  | 6 => decodeMaj6 w
  | 7 => decodeMaj7 w
  | 8 => decodeMaj8 w
  | 9 => decodeMaj9 w
  | 10 => decodeMaj10 w
  | 11 => decodeMaj11 w
  | 12 => decodeMaj12 w
  | 13 => decodeMaj13 w
  | 14 => decodeMaj14 w
  | 15 => decodeMaj15 w
  | 16 => decodeMaj16 w
  | 17 => decodeMaj17 w
  | 18 => decodeMaj18 w
  | 19 => decodeMaj19 w
  | 20 => decodeMaj20 w
  | 21 => decodeMaj21 w
  | 22 => decodeMaj22 w
  | 23 => decodeMaj23 w
  | 24 => decodeMaj24 w
  | 25 => decodeMaj25 w
  | 26 => decodeMaj26 w
  | 27 => decodeMaj27 w
  | 28 => decodeMaj28 w
  | 29 => decodeMaj29 w
  | 30 => decodeMaj30 w
  | 31 => decodeMaj31 w
  | _ => none

/-- The instruction a word holds, whatever its E bit (R78, R104). -/
noncomputable def decode (w : BitVec 32) : Except Illegal Instr :=
  if w.extractLsb' 26 5 = 0 then .error .majZero
  else
    match decodeRow w with
    | none => .error .reserved
    | some i => if i.wf then .ok i else .error .operand

/-- Bits 30 to 0 of the word of an instruction; a step of the device has none (R78 to R103). -/
def Instr.bits : Instr → Option (BitVec 31)
  | .add d a b => some (1#5 ++ d ++ a ++ b ++ 0#11)
  | .sub d a b => some (1#5 ++ d ++ a ++ b ++ 1#11)
  | .and d a b => some (1#5 ++ d ++ a ++ b ++ 2#11)
  | .or d a b => some (1#5 ++ d ++ a ++ b ++ 3#11)
  | .xor d a b => some (1#5 ++ d ++ a ++ b ++ 4#11)
  | .andn d a b => some (1#5 ++ d ++ a ++ b ++ 5#11)
  | .orn d a b => some (1#5 ++ d ++ a ++ b ++ 6#11)
  | .sll d a b => some (1#5 ++ d ++ a ++ b ++ 7#11)
  | .srl d a b => some (1#5 ++ d ++ a ++ b ++ 8#11)
  | .sra d a b => some (1#5 ++ d ++ a ++ b ++ 9#11)
  | .rotl d a b => some (1#5 ++ d ++ a ++ b ++ 10#11)
  | .rotr d a b => some (1#5 ++ d ++ a ++ b ++ 11#11)
  | .slt d a b => some (1#5 ++ d ++ a ++ b ++ 12#11)
  | .sltu d a b => some (1#5 ++ d ++ a ++ b ++ 13#11)
  | .min d a b => some (1#5 ++ d ++ a ++ b ++ 14#11)
  | .max d a b => some (1#5 ++ d ++ a ++ b ++ 15#11)
  | .minu d a b => some (1#5 ++ d ++ a ++ b ++ 16#11)
  | .maxu d a b => some (1#5 ++ d ++ a ++ b ++ 17#11)
  | .mul d a b => some (1#5 ++ d ++ a ++ b ++ 18#11)
  | .mulh d a b => some (1#5 ++ d ++ a ++ b ++ 19#11)
  | .mulhu d a b => some (1#5 ++ d ++ a ++ b ++ 20#11)
  | .div d a b => some (1#5 ++ d ++ a ++ b ++ 21#11)
  | .divu d a b => some (1#5 ++ d ++ a ++ b ++ 22#11)
  | .rem d a b => some (1#5 ++ d ++ a ++ b ++ 23#11)
  | .remu d a b => some (1#5 ++ d ++ a ++ b ++ 24#11)
  | .clz d a => some (1#5 ++ d ++ a ++ 0#5 ++ 25#11)
  | .ctz d a => some (1#5 ++ d ++ a ++ 0#5 ++ 26#11)
  | .popc d a => some (1#5 ++ d ++ a ++ 0#5 ++ 27#11)
  | .sextb d a => some (1#5 ++ d ++ a ++ 0#5 ++ 28#11)
  | .sexth d a => some (1#5 ++ d ++ a ++ 0#5 ++ 29#11)
  | .sextw d a => some (1#5 ++ d ++ a ++ 0#5 ++ 30#11)
  | .zextw d a => some (1#5 ++ d ++ a ++ 0#5 ++ 31#11)
  | .addi d a i => some (2#5 ++ d ++ a ++ 0#3 ++ i)
  | .andi d a i => some (2#5 ++ d ++ a ++ 1#3 ++ i)
  | .ori d a i => some (2#5 ++ d ++ a ++ 2#3 ++ i)
  | .xori d a i => some (2#5 ++ d ++ a ++ 3#3 ++ i)
  | .slti d a i => some (2#5 ++ d ++ a ++ 4#3 ++ i)
  | .sltiu d a i => some (2#5 ++ d ++ a ++ 5#3 ++ i)
  | .slli d a s => some (2#5 ++ d ++ a ++ 6#3 ++ 0#5 ++ 0#2 ++ s)
  | .srli d a s => some (2#5 ++ d ++ a ++ 6#3 ++ 0#5 ++ 1#2 ++ s)
  | .srai d a s => some (2#5 ++ d ++ a ++ 6#3 ++ 0#5 ++ 2#2 ++ s)
  | .muli d a i => some (2#5 ++ d ++ a ++ 7#3 ++ i)
  | .movi d i => some (3#5 ++ d ++ 0#1 ++ i)
  | .movh d i => some (3#5 ++ d ++ 1#1 ++ i)
  | .smb c k l m n b p => some (4#5 ++ c ++ k ++ l ++ m ++ n ++ b ++ p)
  | .beq a b o => some (5#5 ++ a ++ b ++ 0#3 ++ o)
  | .bne a b o => some (5#5 ++ a ++ b ++ 1#3 ++ o)
  | .blt a b o => some (5#5 ++ a ++ b ++ 2#3 ++ o)
  | .bge a b o => some (5#5 ++ a ++ b ++ 3#3 ++ o)
  | .bltu a b o => some (5#5 ++ a ++ b ++ 4#3 ++ o)
  | .bgeu a b o => some (5#5 ++ a ++ b ++ 5#3 ++ o)
  | .jal d o => some (6#5 ++ d ++ o)
  | .jalr d a i => some (7#5 ++ d ++ a ++ 0#3 ++ i)
  | .lb d a h i => some (8#5 ++ d ++ a ++ 0#3 ++ h ++ 0#1 ++ i)
  | .lbu d a h i => some (8#5 ++ d ++ a ++ 1#3 ++ h ++ 0#1 ++ i)
  | .lh d a h i => some (8#5 ++ d ++ a ++ 2#3 ++ h ++ 0#1 ++ i)
  | .lhu d a h i => some (8#5 ++ d ++ a ++ 3#3 ++ h ++ 0#1 ++ i)
  | .lw d a h i => some (8#5 ++ d ++ a ++ 4#3 ++ h ++ 0#1 ++ i)
  | .lwu d a h i => some (8#5 ++ d ++ a ++ 5#3 ++ h ++ 0#1 ++ i)
  | .ld d a h t i => some (8#5 ++ d ++ a ++ 6#3 ++ h ++ t ++ i)
  | .ldp d a h t i => some (8#5 ++ d ++ a ++ 7#3 ++ h ++ t ++ i)
  | .sb d a h i => some (9#5 ++ d ++ a ++ 0#3 ++ h ++ 0#1 ++ i)
  | .sh d a h i => some (9#5 ++ d ++ a ++ 1#3 ++ h ++ 0#1 ++ i)
  | .sw d a h i => some (9#5 ++ d ++ a ++ 2#3 ++ h ++ 0#1 ++ i)
  | .sd d a h t i => some (9#5 ++ d ++ a ++ 3#3 ++ h ++ t ++ i)
  | .sdp d a h t i => some (9#5 ++ d ++ a ++ 4#3 ++ h ++ t ++ i)
  | .aadd d a b q r w u s => some (10#5 ++ d ++ a ++ b ++ 0#4 ++ q ++ r ++ w ++ u ++ s ++ 0#1)
  | .aand d a b q r w u s => some (10#5 ++ d ++ a ++ b ++ 1#4 ++ q ++ r ++ w ++ u ++ s ++ 0#1)
  | .aor d a b q r w u s => some (10#5 ++ d ++ a ++ b ++ 2#4 ++ q ++ r ++ w ++ u ++ s ++ 0#1)
  | .axor d a b q r w u s => some (10#5 ++ d ++ a ++ b ++ 3#4 ++ q ++ r ++ w ++ u ++ s ++ 0#1)
  | .amin d a b q r w u s => some (10#5 ++ d ++ a ++ b ++ 4#4 ++ q ++ r ++ w ++ u ++ s ++ 0#1)
  | .amax d a b q r w u s => some (10#5 ++ d ++ a ++ b ++ 5#4 ++ q ++ r ++ w ++ u ++ s ++ 0#1)
  | .aminu d a b q r w u s => some (10#5 ++ d ++ a ++ b ++ 6#4 ++ q ++ r ++ w ++ u ++ s ++ 0#1)
  | .amaxu d a b q r w u s => some (10#5 ++ d ++ a ++ b ++ 7#4 ++ q ++ r ++ w ++ u ++ s ++ 0#1)
  | .aswap d a b q r w u s => some (10#5 ++ d ++ a ++ b ++ 8#4 ++ q ++ r ++ w ++ u ++ s ++ 0#1)
  | .acas d a b q r w u s => some (10#5 ++ d ++ a ++ b ++ 9#4 ++ q ++ r ++ w ++ u ++ s ++ 0#1)
  | .ald d a q w u s => some (10#5 ++ d ++ a ++ 0#5 ++ 10#4 ++ q ++ 0#1 ++ w ++ u ++ s ++ 0#1)
  | .ast a b r w s => some (10#5 ++ 0#5 ++ a ++ b ++ 11#4 ++ 0#1 ++ r ++ w ++ 0#1 ++ s ++ 0#1)
  | .fence m s => some (11#5 ++ 0#10 ++ 0#3 ++ m ++ s ++ 0#7)
  | .fenceSv m s => some (11#5 ++ 0#10 ++ 1#3 ++ m ++ s ++ 0#7)
  | .fenceVs m s => some (11#5 ++ 0#10 ++ 2#3 ++ m ++ s ++ 0#7)
  | .fenceW s => some (11#5 ++ 0#10 ++ 3#3 ++ 0#4 ++ s ++ 0#7)
  | .fenceI => some (11#5 ++ 0#10 ++ 4#3 ++ 0#13)
  | .vsetvli d a v => some (12#5 ++ d ++ a ++ 0#3 ++ v)
  | .vsetvl d a b => some (12#5 ++ d ++ a ++ 1#3 ++ 0#8 ++ b)
  | .vsetvlw d a v => some (12#5 ++ d ++ a ++ 2#3 ++ v)
  | .vrel => some (12#5 ++ 0#10 ++ 3#3 ++ 0#13)
  | .vaddVV d a b p f => some (13#5 ++ d ++ a ++ b ++ p ++ f ++ 0#4)
  | .vsubVV d a b p f => some (13#5 ++ d ++ a ++ b ++ p ++ f ++ 1#4)
  | .vsaddVV d a b p f => some (13#5 ++ d ++ a ++ b ++ p ++ f ++ 2#4)
  | .vssubVV d a b p f => some (13#5 ++ d ++ a ++ b ++ p ++ f ++ 3#4)
  | .vmulVV d a b p f => some (13#5 ++ d ++ a ++ b ++ p ++ f ++ 4#4)
  | .vmulhVV d a b p f => some (13#5 ++ d ++ a ++ b ++ p ++ f ++ 5#4)
  | .vandVV d a b p f => some (13#5 ++ d ++ a ++ b ++ p ++ f ++ 6#4)
  | .vorVV d a b p f => some (13#5 ++ d ++ a ++ b ++ p ++ f ++ 7#4)
  | .vxorVV d a b p f => some (13#5 ++ d ++ a ++ b ++ p ++ f ++ 8#4)
  | .vsllVV d a b p f => some (13#5 ++ d ++ a ++ b ++ p ++ f ++ 9#4)
  | .vsrlVV d a b p f => some (13#5 ++ d ++ a ++ b ++ p ++ f ++ 10#4)
  | .vsraVV d a b p f => some (13#5 ++ d ++ a ++ b ++ p ++ f ++ 11#4)
  | .vminVV d a b p f => some (13#5 ++ d ++ a ++ b ++ p ++ f ++ 12#4)
  | .vmaxVV d a b p f => some (13#5 ++ d ++ a ++ b ++ p ++ f ++ 13#4)
  | .vminuVV d a b p f => some (13#5 ++ d ++ a ++ b ++ p ++ f ++ 14#4)
  | .vmaxuVV d a b p f => some (13#5 ++ d ++ a ++ b ++ p ++ f ++ 15#4)
  | .vaddVX d a b p f => some (14#5 ++ d ++ a ++ b ++ p ++ f ++ 0#4)
  | .vsubVX d a b p f => some (14#5 ++ d ++ a ++ b ++ p ++ f ++ 1#4)
  | .vsaddVX d a b p f => some (14#5 ++ d ++ a ++ b ++ p ++ f ++ 2#4)
  | .vssubVX d a b p f => some (14#5 ++ d ++ a ++ b ++ p ++ f ++ 3#4)
  | .vmulVX d a b p f => some (14#5 ++ d ++ a ++ b ++ p ++ f ++ 4#4)
  | .vmulhVX d a b p f => some (14#5 ++ d ++ a ++ b ++ p ++ f ++ 5#4)
  | .vandVX d a b p f => some (14#5 ++ d ++ a ++ b ++ p ++ f ++ 6#4)
  | .vorVX d a b p f => some (14#5 ++ d ++ a ++ b ++ p ++ f ++ 7#4)
  | .vxorVX d a b p f => some (14#5 ++ d ++ a ++ b ++ p ++ f ++ 8#4)
  | .vsllVX d a b p f => some (14#5 ++ d ++ a ++ b ++ p ++ f ++ 9#4)
  | .vsrlVX d a b p f => some (14#5 ++ d ++ a ++ b ++ p ++ f ++ 10#4)
  | .vsraVX d a b p f => some (14#5 ++ d ++ a ++ b ++ p ++ f ++ 11#4)
  | .vminVX d a b p f => some (14#5 ++ d ++ a ++ b ++ p ++ f ++ 12#4)
  | .vmaxVX d a b p f => some (14#5 ++ d ++ a ++ b ++ p ++ f ++ 13#4)
  | .vminuVX d a b p f => some (14#5 ++ d ++ a ++ b ++ p ++ f ++ 14#4)
  | .vmaxuVX d a b p f => some (14#5 ++ d ++ a ++ b ++ p ++ f ++ 15#4)
  | .vaddi d b p i => some (15#5 ++ d ++ b ++ p ++ i ++ 0#4)
  | .vandi d b p i => some (15#5 ++ d ++ b ++ p ++ i ++ 1#4)
  | .vori d b p i => some (15#5 ++ d ++ b ++ p ++ i ++ 2#4)
  | .vxori d b p i => some (15#5 ++ d ++ b ++ p ++ i ++ 3#4)
  | .vslli d b p i => some (15#5 ++ d ++ b ++ p ++ i ++ 4#4)
  | .vsrli d b p i => some (15#5 ++ d ++ b ++ p ++ i ++ 5#4)
  | .vsrai d b p i => some (15#5 ++ d ++ b ++ p ++ i ++ 6#4)
  | .vrsubi d b p i => some (15#5 ++ d ++ b ++ p ++ i ++ 7#4)
  | .vmini d b p i => some (15#5 ++ d ++ b ++ p ++ i ++ 8#4)
  | .vmaxi d b p i => some (15#5 ++ d ++ b ++ p ++ i ++ 9#4)
  | .vmvi d p i => some (15#5 ++ d ++ 0#5 ++ p ++ i ++ 10#4)
  | .vmixi d b p i => some (15#5 ++ d ++ b ++ p ++ i ++ 11#4)
  | .vfadd d a b p f => some (16#5 ++ d ++ a ++ b ++ p ++ f ++ 0#4)
  | .vfsub d a b p f => some (16#5 ++ d ++ a ++ b ++ p ++ f ++ 1#4)
  | .vfmul d a b p f => some (16#5 ++ d ++ a ++ b ++ p ++ f ++ 2#4)
  | .vfdiv d a b p f => some (16#5 ++ d ++ a ++ b ++ p ++ f ++ 3#4)
  | .vfmac d a b p f => some (16#5 ++ d ++ a ++ b ++ p ++ f ++ 4#4)
  | .vfnmac d a b p f => some (16#5 ++ d ++ a ++ b ++ p ++ f ++ 5#4)
  | .vfmin d a b p f => some (16#5 ++ d ++ a ++ b ++ p ++ f ++ 6#4)
  | .vfmax d a b p f => some (16#5 ++ d ++ a ++ b ++ p ++ f ++ 7#4)
  | .vfsqrt d b p f => some (16#5 ++ d ++ 0#5 ++ b ++ p ++ f ++ 8#4)
  | .vfcvt d b p f => some (16#5 ++ d ++ 0#5 ++ b ++ p ++ f ++ 9#4)
  | .vfabs d b p f => some (16#5 ++ d ++ 0#5 ++ b ++ p ++ f ++ 10#4)
  | .vfneg d b p f => some (16#5 ++ d ++ 0#5 ++ b ++ p ++ f ++ 11#4)
  | .vfsgnj d a b p f => some (16#5 ++ d ++ a ++ b ++ p ++ f ++ 12#4)
  | .vfclass d b p f => some (16#5 ++ d ++ 0#5 ++ b ++ p ++ f ++ 13#4)
  | .vfaddVX d a b p f => some (17#5 ++ d ++ a ++ b ++ p ++ f ++ 0#4)
  | .vfsubVX d a b p f => some (17#5 ++ d ++ a ++ b ++ p ++ f ++ 1#4)
  | .vfmulVX d a b p f => some (17#5 ++ d ++ a ++ b ++ p ++ f ++ 2#4)
  | .vfmacVX d a b p f => some (17#5 ++ d ++ a ++ b ++ p ++ f ++ 3#4)
  | .vfminVX d a b p f => some (17#5 ++ d ++ a ++ b ++ p ++ f ++ 4#4)
  | .vfmaxVX d a b p f => some (17#5 ++ d ++ a ++ b ++ p ++ f ++ 5#4)
  | .vfrsubVX d a b p f => some (17#5 ++ d ++ a ++ b ++ p ++ f ++ 6#4)
  | .vfrdivVX d a b p f => some (17#5 ++ d ++ a ++ b ++ p ++ f ++ 7#4)
  | .vcmpeq d a b p => some (18#5 ++ d ++ a ++ b ++ p ++ 0#7)
  | .vcmpne d a b p => some (18#5 ++ d ++ a ++ b ++ p ++ 1#7)
  | .vcmplt d a b p => some (18#5 ++ d ++ a ++ b ++ p ++ 2#7)
  | .vcmpltu d a b p => some (18#5 ++ d ++ a ++ b ++ p ++ 3#7)
  | .vcmple d a b p => some (18#5 ++ d ++ a ++ b ++ p ++ 4#7)
  | .vcmpleu d a b p => some (18#5 ++ d ++ a ++ b ++ p ++ 5#7)
  | .vfcmpeq d a b p => some (18#5 ++ d ++ a ++ b ++ p ++ 6#7)
  | .vfcmplt d a b p => some (18#5 ++ d ++ a ++ b ++ p ++ 7#7)
  | .vfcmple d a b p => some (18#5 ++ d ++ a ++ b ++ p ++ 8#7)
  | .vfcmpun d a b p => some (18#5 ++ d ++ a ++ b ++ p ++ 9#7)
  | .vredsum d a b p => some (18#5 ++ d ++ a ++ b ++ p ++ 16#7)
  | .vredmin d a b p => some (18#5 ++ d ++ a ++ b ++ p ++ 17#7)
  | .vredmax d a b p => some (18#5 ++ d ++ a ++ b ++ p ++ 18#7)
  | .vredminu d a b p => some (18#5 ++ d ++ a ++ b ++ p ++ 19#7)
  | .vredmaxu d a b p => some (18#5 ++ d ++ a ++ b ++ p ++ 20#7)
  | .vredand d a b p => some (18#5 ++ d ++ a ++ b ++ p ++ 21#7)
  | .vredor d a b p => some (18#5 ++ d ++ a ++ b ++ p ++ 22#7)
  | .vredxor d a b p => some (18#5 ++ d ++ a ++ b ++ p ++ 23#7)
  | .vfredsum d a b p => some (18#5 ++ d ++ a ++ b ++ p ++ 24#7)
  | .vfredmin d a b p => some (18#5 ++ d ++ a ++ b ++ p ++ 25#7)
  | .vfredmax d a b p => some (18#5 ++ d ++ a ++ b ++ p ++ 26#7)
  | .vperm d a b p => some (18#5 ++ d ++ a ++ b ++ p ++ 32#7)
  | .vslideup d a b p => some (18#5 ++ d ++ a ++ b ++ p ++ 33#7)
  | .vslidedown d a b p => some (18#5 ++ d ++ a ++ b ++ p ++ 34#7)
  | .vcompress d b p => some (18#5 ++ d ++ 0#5 ++ b ++ p ++ 35#7)
  | .vexpand d b p => some (18#5 ++ d ++ 0#5 ++ b ++ p ++ 36#7)
  | .vid d p => some (18#5 ++ d ++ 0#10 ++ p ++ 37#7)
  | .vsplat d a p => some (18#5 ++ d ++ a ++ 0#5 ++ p ++ 38#7)
  | .vext d a b => some (18#5 ++ d ++ a ++ b ++ 0#4 ++ 39#7)
  | .vins d a b => some (18#5 ++ d ++ a ++ b ++ 0#4 ++ 40#7)
  | .vmv d b p => some (18#5 ++ d ++ 0#5 ++ b ++ p ++ 41#7)
  | .vmix d a b p => some (18#5 ++ d ++ a ++ b ++ p ++ 42#7)
  | .pand p q r => some (19#5 ++ p ++ q ++ r ++ 0#8)
  | .por p q r => some (19#5 ++ p ++ q ++ r ++ 1#8)
  | .pxor p q r => some (19#5 ++ p ++ q ++ r ++ 2#8)
  | .pandn p q r => some (19#5 ++ p ++ q ++ r ++ 3#8)
  | .pnot p q => some (19#5 ++ p ++ q ++ 0#6 ++ 4#8)
  | .pset p => some (19#5 ++ p ++ 0#12 ++ 5#8)
  | .pclr p => some (19#5 ++ p ++ 0#12 ++ 6#8)
  | .pmv p q => some (19#5 ++ p ++ q ++ 0#6 ++ 7#8)
  | .pfirst d q => some (19#5 ++ 0#1 ++ d ++ q ++ 0#6 ++ 8#8)
  | .pcount d q => some (19#5 ++ 0#1 ++ d ++ q ++ 0#6 ++ 9#8)
  | .pld p a => some (19#5 ++ p ++ 0#1 ++ a ++ 0#6 ++ 10#8)
  | .pst a r => some (19#5 ++ 0#7 ++ a ++ r ++ 11#8)
  | .psetx p a => some (19#5 ++ p ++ 0#1 ++ a ++ 0#6 ++ 12#8)
  | .vld d a p f n t => some (20#5 ++ d ++ a ++ 0#5 ++ p ++ f ++ 0#2 ++ n ++ t)
  | .vlds d a b p f n t => some (20#5 ++ d ++ a ++ b ++ p ++ f ++ 1#2 ++ n ++ t)
  | .vldff d a p f n t => some (20#5 ++ d ++ a ++ 0#5 ++ p ++ f ++ 2#2 ++ n ++ t)
  | .vldz d a b p f n t => some (20#5 ++ d ++ a ++ b ++ p ++ f ++ 3#2 ++ n ++ t)
  | .vst d a p f n t => some (21#5 ++ d ++ a ++ 0#5 ++ p ++ f ++ 0#2 ++ n ++ t)
  | .vsts d a b p f n t => some (21#5 ++ d ++ a ++ b ++ p ++ f ++ 1#2 ++ n ++ t)
  | .vstz d a b p f n t => some (21#5 ++ d ++ a ++ b ++ p ++ f ++ 3#2 ++ n ++ t)
  | .vgat d a b p f s c n t => some (22#5 ++ d ++ a ++ b ++ p ++ f ++ s ++ c ++ n ++ t)
  | .vsca d a b p f s n t => some (23#5 ++ d ++ a ++ b ++ p ++ f ++ s ++ 0#1 ++ n ++ t)
  | .vaadd d a b p q r s => some (24#5 ++ d ++ a ++ b ++ p ++ q ++ r ++ s ++ 0#3)
  | .vaand d a b p q r s => some (24#5 ++ d ++ a ++ b ++ p ++ q ++ r ++ s ++ 1#3)
  | .vaor d a b p q r s => some (24#5 ++ d ++ a ++ b ++ p ++ q ++ r ++ s ++ 2#3)
  | .vaxor d a b p q r s => some (24#5 ++ d ++ a ++ b ++ p ++ q ++ r ++ s ++ 3#3)
  | .vamin d a b p q r s => some (24#5 ++ d ++ a ++ b ++ p ++ q ++ r ++ s ++ 4#3)
  | .vamax d a b p q r s => some (24#5 ++ d ++ a ++ b ++ p ++ q ++ r ++ s ++ 5#3)
  | .vaminu d a b p q r s => some (24#5 ++ d ++ a ++ b ++ p ++ q ++ r ++ s ++ 6#3)
  | .vamaxu d a b p q r s => some (24#5 ++ d ++ a ++ b ++ p ++ q ++ r ++ s ++ 7#3)
  | .vuadd d a b p q r s => some (25#5 ++ d ++ a ++ b ++ p ++ q ++ r ++ s ++ 0#3)
  | .vuand d a b p q r s => some (25#5 ++ d ++ a ++ b ++ p ++ q ++ r ++ s ++ 1#3)
  | .vuor d a b p q r s => some (25#5 ++ d ++ a ++ b ++ p ++ q ++ r ++ s ++ 2#3)
  | .vuxor d a b p q r s => some (25#5 ++ d ++ a ++ b ++ p ++ q ++ r ++ s ++ 3#3)
  | .vumin d a b p q r s => some (25#5 ++ d ++ a ++ b ++ p ++ q ++ r ++ s ++ 4#3)
  | .vumax d a b p q r s => some (25#5 ++ d ++ a ++ b ++ p ++ q ++ r ++ s ++ 5#3)
  | .vuminu d a b p q r s => some (25#5 ++ d ++ a ++ b ++ p ++ q ++ r ++ s ++ 6#3)
  | .vumaxu d a b p q r s => some (25#5 ++ d ++ a ++ b ++ p ++ q ++ r ++ s ++ 7#3)
  | .vaswap d a b p q r s => some (31#5 ++ d ++ a ++ b ++ p ++ q ++ r ++ s ++ 0#3)
  | .vacas d a b p q r s => some (31#5 ++ d ++ a ++ b ++ p ++ q ++ r ++ s ++ 1#3)
  | .vwaitEq d a b p q s => some (31#5 ++ d ++ a ++ b ++ p ++ q ++ 0#1 ++ s ++ 2#3)
  | .vwaitNe d a b p q s => some (31#5 ++ d ++ a ++ b ++ p ++ q ++ 0#1 ++ s ++ 3#3)
  | .vwaitGe d a b p q s => some (31#5 ++ d ++ a ++ b ++ p ++ q ++ 0#1 ++ s ++ 4#3)
  | .vwaitGeu d a b p q s => some (31#5 ++ d ++ a ++ b ++ p ++ q ++ 0#1 ++ s ++ 5#3)
  | .mma d a b s t u f => some (26#5 ++ d ++ a ++ b ++ s ++ t ++ u ++ f ++ 0#4)
  | .mmaz d a b s t u f => some (26#5 ++ d ++ a ++ b ++ s ++ t ++ u ++ f ++ 1#4)
  | .mms d a b s t u f => some (26#5 ++ d ++ a ++ b ++ s ++ t ++ u ++ f ++ 2#4)
  | .mmai d a b s t u f => some (26#5 ++ d ++ a ++ b ++ s ++ t ++ u ++ f ++ 3#4)
  | .mmaiz d a b s t u f => some (26#5 ++ d ++ a ++ b ++ s ++ t ++ u ++ f ++ 4#4)
  | .vcp a => some (27#5 ++ 0#5 ++ a ++ 0#16)
  | .psbind a s => some (28#5 ++ 0#5 ++ a ++ 0#10 ++ s ++ 0#4)
  | .psfree s => some (28#5 ++ 0#20 ++ s ++ 1#4)
  | .psver d s => some (28#5 ++ d ++ 0#15 ++ s ++ 2#4)
  | .psexp a b s => some (28#5 ++ 0#5 ++ a ++ b ++ 0#5 ++ s ++ 3#4)
  | .psimp a s => some (28#5 ++ 0#5 ++ a ++ 0#10 ++ s ++ 4#4)
  | .psord s => some (28#5 ++ 0#20 ++ s ++ 5#4)
  | .pswait a s => some (28#5 ++ 0#5 ++ a ++ 0#10 ++ s ++ 6#4)
  | .psrec a s => some (28#5 ++ 0#5 ++ a ++ 0#10 ++ s ++ 7#4)
  | .psstat d s => some (28#5 ++ d ++ 0#15 ++ s ++ 8#4)
  | .gbar a => some (29#5 ++ 0#5 ++ a ++ 0#5 ++ 0#11)
  | .garr a => some (29#5 ++ 0#5 ++ a ++ 0#5 ++ 1#11)
  | .gdrop a => some (29#5 ++ 0#5 ++ a ++ 0#5 ++ 2#11)
  | .gwait a => some (29#5 ++ 0#5 ++ a ++ 0#5 ++ 3#11)
  | .launch d a b => some (29#5 ++ d ++ a ++ b ++ 4#11)
  | .vxsend v a => some (29#5 ++ v ++ a ++ 0#5 ++ 5#11)
  | .vxrecv v a => some (29#5 ++ v ++ a ++ 0#5 ++ 6#11)
  | .exit => some (29#5 ++ 0#15 ++ 7#11)
  | .csrrw d a c => some (30#5 ++ d ++ a ++ 0#3 ++ 0#1 ++ c)
  | .csrrs d a c => some (30#5 ++ d ++ a ++ 1#3 ++ 0#1 ++ c)
  | .csrrc d a c => some (30#5 ++ d ++ a ++ 2#3 ++ 0#1 ++ c)
  | .sys a => some (30#5 ++ 0#5 ++ a ++ 7#3 ++ 0#5 ++ 0#8)
  | .tret => some (30#5 ++ 0#10 ++ 7#3 ++ 0#5 ++ 1#8)
  | .brk => some (30#5 ++ 0#10 ++ 7#3 ++ 0#5 ++ 2#8)
  | .park => some (30#5 ++ 0#10 ++ 7#3 ++ 0#5 ++ 3#8)
  | .tlbinv a b => some (30#5 ++ 0#5 ++ a ++ 7#3 ++ b ++ 4#8)
  | .ptcinv a => some (30#5 ++ 0#5 ++ a ++ 7#3 ++ 0#5 ++ 5#8)
  | .pgshare a => some (30#5 ++ 0#5 ++ a ++ 7#3 ++ 0#5 ++ 6#8)
  | .pgdrop a => some (30#5 ++ 0#5 ++ a ++ 7#3 ++ 0#5 ++ 7#8)
  | .pgmove a b => some (30#5 ++ 0#5 ++ a ++ 7#3 ++ b ++ 8#8)
  | .pghot d a => some (30#5 ++ d ++ a ++ 7#3 ++ 0#5 ++ 9#8)
  | .mfcmp d a => some (30#5 ++ d ++ a ++ 7#3 ++ 0#5 ++ 10#8)
  | .halt => some (30#5 ++ 0#10 ++ 7#3 ++ 0#5 ++ 11#8)
  | .doorbell _ _ => none
  | .gangAbort _ => none
  | .deviceRegisterWrite _ _ _ => none
  | .seraiWrite _ _ => none
  | .llcreqWrite _ => none
  | .tgapply _ => none
  | .swap _ => none
  | .retrain _ _ => none
  | .getreport => none
  | .getmanifest => none
  | .instkey => none
  | .fwload => none
  | .switchout => none
  | .resumeh => none
  | .getevent => none
  | .packetOffer _ => none
  | .watermarkRead _ => none
  | .launchAging _ => none
  | .gangServe => none
  | .gangPlacement _ => none
  | .reclaimDeadline _ => none
  | .fullContextSwitch _ => none
  | .hartResume _ _ => none
  | .completionRecord _ => none
  | .parkedHartGrant _ => none
  | .vrelGroupRelease _ => none
  | .vectorConvoyStart _ _ => none
  | .convoyRetire _ => none
  | .elementStep _ => none
  | .instructionBreakpoint _ => none
  | .trapDelivery _ => none
  | .poisonConsumed _ => none
  | .stallFault _ => none
  | .migrationFault _ => none
  | .passComplete _ => none
  | .cowResolution _ _ => none
  | .pageWalk _ _ => none
  | .hotnessAddition _ => none
  | .publication _ => none
  | .vsetvlwSatisfied _ => none
  | .vwaitRound _ => none
  | .pswaitSatisfied _ => none
  | .exitGdropApply _ => none
  | .launchAccept _ => none
  | .vxsendPush _ => none
  | .vxrecvPop _ => none
  | .fenceWComplete _ => none
  | .writePerformed _ _ _ => none
  | .sliceRequest _ _ _ _ _ => none
  | .retryResend _ => none
  | .reserveEviction _ _ => none
  | .sliceMapChange _ _ => none
  | .slotBankSwap => none
  | .slotDeparture _ => none
  | .drawerReturn _ => none
  | .flitCheckFailure _ => none
  | .trunkRetrainStart _ _ => none
  | .retrainAttemptEnd _ _ => none
  | .correctedError _ => none
  | .poisonCreated _ _ _ => none
  | .tagDirectoryError _ _ => none
  | .sequenceCounterLost _ => none
  | .hostRequest _ _ _ _ => none
  | .cxlBackInvalidation _ _ => none
  | .numbering _ => none
  | .importValidation _ => none
  | .rowMoveStart _ _ => none
  | .copyRoundComplete _ _ => none
  | .rowCommit _ _ => none
  | .ptcAck _ _ => none
  | .reorderStop _ _ _ => none
  | .sketchUpdate _ => none
  | .migrationCommit _ => none
  | .migrationAbandon _ => none
  | .moduleReset => none
  | .bootVerify => none
  | .selftestComplete => none
  | .peerModuleAccess _ _ _ _ => none
  | .mailboxCommandDone => none

/-- The word of an instruction, with E set when it is the last of its convoy (R27, R78). -/
def encode (last : Bool) (i : Instr) : Option (BitVec 32) :=
  i.bits.map fun b => BitVec.ofBool last ++ b

/-- Bit 31: the word ends its convoy (R27). -/
def isLast (w : BitVec 32) : Bool := w.getLsbD 31

/-- The instruction that the opcode table's numbering of a word stands for: words have 32 bits. -/
noncomputable def decodeTableWord (nbits w : Nat) : Option Instr :=
  if nbits = 32 then (decode (BitVec.ofNat 32 w)).toOption else none

end Sys2Proof
end

