-- ==== Sys2Proof/Config.lean ====
section
/-! DEFINITION. What the spec leaves to the part, to the link, to the firmware or open altogether: constants without a body, so
that no proof can see a value of them. -/

namespace Sys2Proof.Config

/-- Undefined vector register contents, one for each draw (R8, log entry 6). -/
opaque freeVec : Nat → VReg

/-- Undefined scale side-array contents (R8, log entry 6). -/
opaque freeSide : Nat → Side

/-- An undefined byte of memory (R8, R373, log entry 6). -/
opaque freeByte : Nat → Byte

/-- Cycles, less one, that the step beginning at a cycle takes (log entry 7). -/
opaque stepCycles : Nat → Nat

/-- The sequence counter of a line after reset, which is not architectural (R233, log entry 23). -/
opaque tagInit : Nat → BitVec 16

/-- DCAP and DLAT as link training reports them (R228). -/
opaque dcap : Word

/-- The fixed return latency of the drawer in slots (R226, R228). -/
opaque dlat : BitVec 16

/-- The HBM4E stack, 0 to 7, that holds an address of tier H: the spec gives no interleaving (R9, R361). -/
opaque stackOf : Nat → BitVec 3

/-- The compute die whose L2 an event of an address strikes (R361). -/
opaque cacheDie : Nat → BitVec 2

/-- Where the tag of a line fails, for each draw: in the L2 of a compute die, or in the LLC or its directory (R359, R361; log entry 88). -/
opaque tagDie : Nat → Option (BitVec 2)

/-- The level that TVAL names when the check of a pass without a level fails: the descriptor's value decides (R387). -/
opaque plainLevel : Word → BitVec 3

/-- Pages of 64 KiB of CXL pool memory behind its window (R213; log entry 65). -/
opaque cxlPages : Nat

/-- Bytes of CXL pool memory behind its window (R213). -/
def cxlSize : Nat := 65536 * cxlPages

/-- The virtual address one byte above the mapping of the local TCM alias, which system software chooses (R24, R216). -/
opaque tcmTop : Word

/-- A byte of host memory at a bus address, as the host gives it in a cycle (R297). -/
opaque hostByte : Nat → Nat → Byte

/-- SHA-384 (R390, R394). -/
opaque sha384 : List Byte → BitVec 384

/-- Digests of the accepted host-die, hub-die and compute-die images, by the number of the images in force (R394). -/
opaque firmware : Nat → Fin 3 → BitVec 384

/-- Both signatures of a Manifest verify under the installed keys: body, SIGE, SIGL, ECDSA key, LMS key (R390, R391). -/
opaque manifestVerifies : List Byte → List Byte → List Byte → List Byte → List Byte → Bool

/-- Image 0 to 2 passes a test of its verification after the given boot: 1 the digests of its keys, 2 its ECDSA signature, 3 its LMS
signature (R394, R395). -/
opaque bootCheck : Nat → Nat → Nat → Bool

/-- DIE and DETAIL of the entry of an image that fails after the given boot (R395). -/
opaque bootFinding : Nat → Nat → Byte × Word

/-- What self-test finds, one for each entry, in the order of the tests (R393, R395). -/
opaque selftestFailures : Nat → List (Word × Word)

/-- The firmware image of the given length at a host bus address passes a test of its verification, for each draw (R394, R396). -/
opaque loadCheck : Word → Word → Nat → Nat → Bool

/-- An image is accepted only where both keys match and both signatures verify (R394). -/
def imageVerifies (at_ len : Word) (draw : Nat) : Bool := [1, 2, 3].all fun t => loadCheck at_ len draw t

end Sys2Proof.Config
end

