-- ==== Sys2Proof/Machine/State.lean ====
section
/-! DEFINITION. The state of the module as plain data: every register of a hart, the memories, the launch front end, the
renumbering unit, the trunks, the management mailbox, and the state after module reset. -/

namespace Sys2Proof.Machine

/-- Privilege of a hart (R322). -/
inductive Priv where
  | u
  | s
  deriving DecidableEq, Repr

/-- The two classes of a hart's memory accesses (R234). -/
inductive Cls where
  | scalar
  | vector
  deriving DecidableEq, Repr

/-- What a hart that cannot complete its convoy waits for. -/
inductive Why where
  /-- A free lane group, at a length-setting instruction that requests the given number of groups (R39). -/
  | lanes (request : Nat)
  /-- A previous owner to hand a lane group over (R35). -/
  | handover
  /-- The watermark of vsetvlw: drawer lines that its read or its walk waits for first, none where it is the value that is waited for
  (R141, R333). -/
  | watermark (lines : List Nat)
  /-- The watched locations of vwait (R184). -/
  | watch
  /-- A version of a permuted set (R277). -/
  | version
  /-- The sketch updates that psfree or psord must follow, or the set's commits that psexp holds (R259, R273, R275). -/
  | sketch
  /-- The phase of a barrier (R308). -/
  | barrier
  /-- Room in the lane exchange FIFOs (R310). -/
  | push
  /-- Entries in the lane exchange FIFOs (R310). -/
  | pop
  /-- The acknowledgement of the hart's earlier writes (R131). -/
  | writes
  /-- The acceptance of a launched packet (R301). -/
  | accept
  /-- The Spaup trunks of some lines, in the read or the write phase (R333). -/
  | trunk (lines : List Nat) (write : Bool)
  /-- A page that pgmove is moving (R295). -/
  | migration (va : Word)
  /-- A page that another pgmove is moving, waited for without any threshold (R294). -/
  | otherMove
  /-- The move that pgmove itself started: the page, its entry's address and leaf, and the new page (R294). -/
  | move (va : Word) (leafPa : Nat) (leaf : Word) (new : Nat)
  /-- A row whose lines the renumbering unit holds (R263). -/
  | row
  deriving DecidableEq, Repr

/-- What a hart does (R39, R327, R397). -/
inductive Status where
  /-- Its next convoy may issue. -/
  | running
  /-- Its convoy waits since the given cycle. -/
  | waiting (why : Why) (since : Nat)
  /-- Stopped by halt until RESUMEH (R397). -/
  | halted
  /-- Stopped by a double trap (R327). -/
  | doubleTrap
  /-- Its gang was placed and the hart has exited: no hart stands in the slot (R307). -/
  | gone
  deriving DecidableEq, Repr

/-- One byte of a write: its value and the bits that the write covers (an INT4 element covers a nibble, R167). -/
structure WByte where
  val : Byte
  mask : Byte
  deriving DecidableEq, Repr

/-- A write on its way to its ordering point (R230): consecutive bytes from a physical address, in single-copy atomic units of
`unit` bytes where aligned (R123, R168). `lo` and `hi` bound the bytes of the whole access. -/
structure Write where
  hart : Nat
  gang : Word
  hartix : BitVec 11
  cls : Cls
  /-- Its place in its hart's program order (R234). -/
  seq : Nat
  /-- It follows every earlier write of its hart and class to the ordering point: a scalar write, or a vector write of a
  deterministic hart (R48, R125). -/
  ordered : Bool
  pa : Nat
  bytes : List WByte
  unit : Nat
  lo : Nat
  hi : Nat
  /-- Route of the request, for a drawer line (R226). -/
  route : BitVec 6
  /-- The write of an atomic, of a permuted element or of a request that its trunk has carried, which is performed as its convoy retires
  (log entry 11). -/
  now : Bool
  /-- The rest of a write whose first units are applied: no other write of its line comes between (R248). -/
  part : Bool
  /-- The translation it used: the ASID, the virtual address and log2 of the page's size (R288). -/
  tr : Option (BitVec 9 × Word × Nat)
  /-- The cycle at which its core's queue accepted it (R333). -/
  since : Nat
  /-- For a permuted element: the set, the logical row, the physical row it was translated to and the offset in it (R177, R266). -/
  perm : Option (Nat × Nat × Nat × Nat)
  deriving DecidableEq, Repr

/-- What a fence, a release or a strip boundary leaves to be kept: the hart's writes of class `before` that precede it come before its
later accesses of class `after`, its writes and its reads as named (R128, R130, R185, R237). The earlier writes are performed at CORE
scope first, or at the ordering point (`wide`), or at SYSTEM scope too (`sys`). -/
structure Order where
  at_ : Nat
  before : Cls
  after : Cls
  wide : Bool
  sys : Bool
  reads : Bool
  writes : Bool
  /-- Of the later writes it holds back only the next one: the cursor of a copy (R189). -/
  next : Bool
  deriving DecidableEq, Repr

/-- Some bytes of memory as they stood before writes of the convoy in execution were performed: what its later words still read, in a
class (R171, R190). -/
structure Undo where
  cls : Cls
  pa : Nat
  bytes : List Byte
  deriving DecidableEq, Repr

/-- Where a poisoned unit lies (R356, R357). -/
inductive PoisonAt where
  /-- At its home: in the memory or the bank, or in the only current copy of it. -/
  | home
  /-- In drawer memory beneath the copy that the LLC holds of the line. -/
  | below
  /-- In the clean copy that a compute die's L2 holds. -/
  | l2 (die : Nat)
  deriving DecidableEq, Repr

/-- An smb publication on its way (R143, R402): the hart's publications are performed in order. -/
structure Pub where
  /-- The slot in which its hart stood. -/
  hart : Nat
  gang : Word
  hartix : BitVec 11
  /-- The place in program order that the writes it releases precede, and the cores whose queues its hart may have read (R239). -/
  seq : Nat
  cores : List Nat
  pa : Nat
  amount : Word
  /-- The Route of its request (R226). -/
  route : BitVec 6
  /-- The translation it used (R288). -/
  tr : Option (BitVec 9 × Word × Nat)
  /-- The watermark met poison; reported once at the next convoy that waits for it (R402). -/
  poisoned : Bool
  since : Nat
  deriving DecidableEq, Repr

/-- A page found faulty: canonical virtual page address and kind (R328). -/
structure Page where
  va : Word
  kind : BitVec 4
  deriving DecidableEq, Repr

/-- A cause a word raised: code, TVAL, the faulting pages and the element mask of the Waybill (R324, R328). -/
structure Trap where
  code : BitVec 8
  tval : Word
  pages : List Page
  mask : Pred
  /-- Raised by a commit point, which never rewinds (R384). -/
  commit : Bool
  /-- The report of an smb publication that met poison (R402). -/
  pub : Bool
  deriving DecidableEq, Repr

/-- A slot of a hart: the set it binds (physical address of the PSD), the sampling exponent if recording, and the sample
counter (R254, R257). -/
structure PSlot where
  psd : Option Nat
  psdVa : Word
  exp : Option (BitVec 5)
  count : BitVec 32
  deriving DecidableEq, Repr

/-- The rest of a suspended convoy that tret continues: words complete (CVD), the word it stopped in, and the elements of that
word left (R330, R331). -/
structure Resume where
  cvd : BitVec 4
  word : Nat
  rest : Pred
  /-- No trap suspended the convoy: a word of it waits with its own part done, and the words before it are complete (R131, R308,
  R333). -/
  soft : Bool
  /-- The word it stopped in has begun its write phase: a cause that strikes it suspends it (R330). -/
  wph : Bool
  deriving DecidableEq, Repr

/-- A trap whose delivery waits until the writes of the core that overlap the Waybill have reached their ordering points (R401): what
`takeTrap` delivers. -/
structure Due where
  trap : Trap
  cpc : Word
  word : Nat
  wph : Bool
  epc : Word
  resume : Option (BitVec 4)
  deriving DecidableEq, Repr

/-- A page that a convoy has translated: the space, whether for a write, the page, its physical address, its leaf, log2 of the size that the
leaf maps, and the physical address of the entry. -/
structure Pin where
  space : BitVec 61
  write : Bool
  page : Word
  pa : Nat
  leaf : Word
  lg : Nat
  at_ : Nat
  deriving DecidableEq, Repr

/-- A matrix pass in flight, between the steps of R205: the level, whether this is the re-run after a failed check, and the words of the
convoy and its translations, which the first pass made. -/
structure Pass where
  /-- None at dispatch: the descriptor's TRY is the level. -/
  level : Option Nat
  rerun : Bool
  words : List (BitVec 32)
  pins : List Pin
  deriving DecidableEq, Repr

/-- One entry that an addition to the hotness table will make (R292), by its physical address: counter 0 US, 1 ST, 2 IX. -/
structure Hot where
  gang : Word
  pa : Nat
  counter : Nat
  amount : Nat
  deriving DecidableEq, Repr

/-- What a checkpoint records (R381). -/
structure Check where
  pc : Word
  x : Vector Word 32
  vl : BitVec 14
  vtype : BitVec 13
  mvl : BitVec 14
  gmask : BitVec 4
  flags : BitVec 10
  psvlo : Word
  psvhi : Word
  rpc : Vector Word 5
  rpcx : Word
  convoys : Word
  v : Vector VReg 32
  side : Vector Side 32
  p : Vector Pred 64
  vcarry : BitVec 32
  pcarry : Word
  vdead : Bool
  resume : Option Resume
  /-- A forced checkpoint holds all vector state (R381). -/
  forced : Bool
  taken : Nat
  deriving DecidableEq, Repr

/-- What a suspended convoy leaves for its retirement (R87, R143, R208, R257, R268, R292, R334), and, between element steps, the registers
as they stood when the word in progress began, which its later steps still read, and whether one of its steps is done (R400). -/
structure Carry where
  hot : List Hot
  samples : List (Nat × List Nat)
  pubs : List (Nat × Word × Option (BitVec 9 × Word × Nat))
  vers : List Word
  tiles : List (Nat × Bool)
  npc : Option Word
  after : Option Trap
  final : Option Status
  cont : Option Resume
  base : Option Check
  begun : Bool
  /-- The element step of its vcp that fills the tile buffer is done (R400). -/
  filled : Bool
  strip : Bool
  commit : Bool
  undo : List Undo
  deriving DecidableEq, Repr

/-- Nothing left. -/
def Carry.none : Carry :=
  ⟨[], [], [], [], [], Option.none, Option.none, Option.none, Option.none, Option.none, false, false, false, false, []⟩

/-- The convoy in execution: how many words it has and which one executes, and what its words leave for its retirement. It is
the model's own form of the effects that R28, R30, R74, R190 and R330 hold until the convoy retires. -/
structure Convoy where
  len : Nat
  idx : Nat
  /-- Target of the jump or branch that ends it (R87). -/
  npc : Option Word
  /-- Flags its words raised (R74). -/
  fx : BitVec 7
  /-- Writes of its write phase, in word order (R190). -/
  pend : List Write
  /-- Causes its words raised, with the word index (R324). -/
  traps : List (Nat × Trap)
  /-- What its first waiting word waits for. -/
  wait : Option Why
  /-- Levels of the tiles it accepted, and whether over budget (R208). -/
  tiles : List (Nat × Bool)
  /-- Versions of its permuted elements (R268). -/
  vers : List Word
  hot : List Hot
  samples : List (Nat × List Nat)
  pubs : List (Nat × Word × Option (BitVec 9 × Word × Nat))
  /-- Words that are complete already, and the elements that the word being resumed performs (R330, R331). -/
  skip : BitVec 4
  only : Option (Nat × Pred)
  /-- Word at which its write phase stopped, the cause, and the elements left (R330). -/
  susp : Option (Nat × Trap × Pred)
  /-- The trap that follows its retirement: sys (R334). -/
  after : Option Trap
  /-- It is a commit point (R383). -/
  commit : Bool
  /-- Only one pass of its matrix instruction runs (R205). -/
  onePass : Bool
  /-- The pass that follows one that was not accepted (R205). -/
  nextPass : Option Pass
  /-- It holds a length-setting instruction (R381). -/
  strip : Bool
  /-- The wait of it that has passed its threshold: it faults instead of waiting (R295, R333). -/
  expired : Option Why
  /-- The word that waits with its own part done, and what it waits for: gbar after its arrival, or fence.w behind writes of the
  convoy (R131, R308). -/
  hold : Option (Nat × Why)
  /-- The word whose write phase waits with some of its elements performed, what it waits for, and the elements left (R333). -/
  pause : Option (Nat × Why × Pred)
  /-- The word that `only` names has begun its write phase (R330). -/
  wph : Bool
  /-- How its last word leaves the hart: exit or halt (R307, R397). -/
  final : Option Status
  /-- The suspended convoy that its tret continues (R331). -/
  cont : Option Resume
  /-- Faulting pages that other words of the convoy found, for the element mask of the Waybill (R328). -/
  pages : List Word
  /-- An element step of vcp: only its source is read into the tile buffer, or elements of its buffer stay unwritten (R400). -/
  fillOnly : Bool
  partly : Bool
  /-- What an element step leaves for the next one (R400). -/
  base : Option Check
  begun : Bool
  filled : Bool
  /-- The translations it has made, where a pass of it may be followed by another (R205). -/
  pins : Option (List Pin)
  /-- The VL that a suspended vstz of it will write, which its later words see (R173). -/
  lateVl : Option (BitVec 14)
  /-- Memory as it stood before those of its writes that had to be performed before one of its words (R171, R190). -/
  undo : List Undo
  deriving DecidableEq, Repr

/-- A convoy of one word, before it executes. -/
def Convoy.fresh : Convoy :=
  ⟨1, 0, none, 0, [], [], none, [], [], [], [], [], 0, none, none, none, false, false, none, false, none, none, none, false,
    none, none, [], false, false, none, false, false, none, none, []⟩

/-- A hart and its registers. -/
structure Hart where
  core : Nat
  slot : Nat
  x : Vector Word 32
  pc : Word
  priv : Priv
  v : Vector VReg 32
  side : Vector Side 32
  p : Vector Pred 64
  vdead : Bool
  gmask : BitVec 4
  request : Nat
  lgmin : Nat
  lgmax : Nat
  mfc : Vector (BitVec 27) 4
  mb : Vector (BitVec 53) 8
  ts : Vector Word 4
  vcarry : BitVec 32
  pcarry : Word
  wmark : Word
  wwait : Word
  psvlo : Word
  psvhi : Word
  mck : BitVec 6
  flags : BitVec 10
  vl : BitVec 14
  vtype : BitVec 13
  mvl : BitVec 14
  vstart : BitVec 14
  hartix : BitVec 11
  gangsz : BitVec 11
  gangid : BitVec 48
  rpc : Vector Word 5
  rpcx : Word
  convoys : Word
  tvec : Word
  tcause : BitVec 11
  tepc : Word
  tval : Word
  tstatus : BitVec 7
  wbase : BitVec 52
  tscratch : Word
  route : BitVec 6
  prio : BitVec 3
  ptbase : BitVec 61
  prtbase : BitVec 52
  fplist : BitVec 52
  hotbase : BitVec 52
  det : Bool
  prot : Bool
  retry : BitVec 32
  rewEn : Bool
  rewLimit : BitVec 3
  rewCount : BitVec 32
  dbgctl : BitVec 57
  slots : Vector PSlot 4
  /-- Elements of the tile buffer of a suspended vcp (R332): index within the strip and exact source bits. -/
  copyBuf : List (Nat × Word)
  status : Status
  resume : Option Resume
  /-- What the convoy at pc, where it stopped part way, leaves for its retirement. -/
  carry : Carry
  /-- What suspended convoys leave for their retirement until their tret, each with the address of its convoy: a handler, and traps in
  it, come between (R331). -/
  stash : List (Word × Carry)
  pass : Option Pass
  /-- The convoy was already re-executed after a mirror mismatch (R378). -/
  retried : Bool
  /-- Retired writes by class that the core has not yet accepted, and the writes held under REWIND (R323, R382). -/
  held : List Write
  rheld : List Write
  /-- The place in program order of its next write, and the orders that its fences, releases and strip boundaries leave (R130, R234,
  R237). -/
  seq : Nat
  orders : List Order
  /-- Cores whose queues it may have read since it was placed (R239). -/
  cores : List Nat
  /-- Drawer lines whose requests have returned to its convoy, and whether they were writes (R226). -/
  got : List (Nat × Bool)
  /-- Elements that its waiting gather has read: the element, its stored bits and its version (R271). -/
  gathered : List (Nat × Nat × Word)
  /-- The trap whose delivery waits (R401). -/
  due : Option Due
  check : Option Check
  /-- `carry` as it stood at the checkpoint (R384). -/
  checkCarry : Carry
  /-- Cycle at which it was named for reclaim (R42). -/
  reclaimAt : Option Nat
  /-- A reclaim took groups while it waited at its length-setting instruction (R37, R141, R210). -/
  shrunk : Bool
  switchReq : Bool
  /-- Barrier and phase of the arrival it waits on (R308). -/
  arrived : Option (Nat × Nat)
  deriving DecidableEq, Repr

/-- State of a barrier of a gang: members, arrivals and phase (R308). -/
structure Barrier where
  member : List Bool
  arr : List Bool
  phase : Nat
  deriving DecidableEq, Repr

/-- An address-space entry (R299). -/
structure Space where
  valid : Bool
  root : Word
  prtbase : Word
  fplist : Word
  hotbase : Word
  tvec : Word
  wb0 : Word
  deriving DecidableEq, Repr

/-- A placed gang (R302 to R309). -/
structure Gang where
  id : BitVec 48
  h : Nat
  n : BitVec 32
  lgmin : Nat
  cmsel : BitVec 6
  /-- The core mask that CMSEL named as it was placed (R299). -/
  mask : BitVec 384
  as : BitVec 9
  crec : Nat
  crecVa : Word
  /-- The leaf of CREC and its address, where it was a copy-on-write leaf when the packet was read (R306). -/
  crecCow : Option (Word × Nat)
  packet : Nat
  /-- Its address-space entry as it was placed (R299). -/
  space : Space
  /-- Cores on which its harts stood that have ended (R239, R240). -/
  cores : List Nat
  tstart : Word
  exited : Nat
  flags : BitVec 7
  rpcx : Word
  barriers : List Barrier
  aborted : Bool
  deriving DecidableEq, Repr

/-- A launch queue's descriptor (R297). -/
structure Queue where
  base : BitVec 52
  tail : BitVec 32
  head : BitVec 32
  en : Bool
  sup : Bool
  dev : Bool
  loc : Bool
  log2sz : BitVec 5
  as : BitVec 9
  ovf : Bool
  rmask : Word
  deriving DecidableEq, Repr

/-- A packet at the head of a queue that the LFE has read: its bits, its physical addresses, whether it is offered (its
watermark satisfied), the cycle from which it ages and the priority it has reached (R45, R302, R306). -/
structure Offer where
  queue : BitVec 6
  packet : BitVec 512
  wpa : Option Nat
  crec : Nat
  crecCow : Option (Word × Nat)
  /-- Physical address of the packet, or its bus address in a host ring. -/
  at_ : Nat
  offered : Bool
  since : Nat
  prio : Nat
  deriving DecidableEq, Repr

/-- What the LFE serves: the head of a queue or the switched-out hart of a frame (R302). -/
inductive Served where
  | queue (q : BitVec 6)
  | hart (frame : Nat)
  deriving DecidableEq, Repr

/-- A hart switched out: the hart as its frame records it, its frame and its lane count in groups (R314, R316). -/
structure Swapped where
  frame : Nat
  gang : BitVec 48
  hartix : BitVec 11
  groups : Nat
  prio : BitVec 3
  /-- Identity and placement state that the frame does not hold. -/
  keep : Hart
  deriving DecidableEq, Repr

/-- A drop that exit made, not yet applied at its barrier (R307). -/
structure ExitDrop where
  gang : BitVec 48
  hartix : BitVec 11
  /-- Cores whose queues the hart may have read (R239). -/
  cores : List Nat
  barrier : Nat
  deriving DecidableEq, Repr

/-- A cached translation: the tag, the page it covers (virtual base and log2 of its size), the leaf, and the physical address of its
entry (R287). -/
structure Tlb where
  core : Nat
  asid : BitVec 9
  va : Word
  lg : Nat
  leaf : Word
  at_ : Nat
  /-- The entry raises a translation fault: a walk found it not valid, or not well formed (R285, R288). -/
  bad : Bool
  deriving DecidableEq, Repr

/-- A line of a core's instruction cache (R132). -/
structure IcLine where
  core : Nat
  pa : Nat
  bytes : List Byte
  deriving DecidableEq, Repr

/-- A forward entry in a core's permutation translation cache (R255). -/
structure Ptc where
  core : Nat
  psd : Nat
  row : Nat
  phys : Nat
  deriving DecidableEq, Repr

/-- State of a row move (R263). -/
inductive MoveState where
  | copying
  | recopy (rounds : Nat)
  | locked
  | forwarding
  deriving DecidableEq, Repr

/-- A row move of a permuted set: cycle or path number, logical row, source and destination rows, state and dirty segments
(R263). -/
structure Move where
  cyc : Nat
  row : Nat
  src : Nat
  dst : Nat
  st : MoveState
  dirty : List Nat
  /-- The version that its commit set (R268). -/
  ver : Word
  /-- The pages of the destination row as its commit found them, each with its physical address (R266). -/
  pages : List (Word × Nat)
  /-- The cycle since which its copy waits on a trunk (R373). -/
  since : Option Nat
  deriving DecidableEq, Repr

/-- What the RNU does with a set (R260, R261). -/
inductive Reorder where
  | none
  /-- psord was accepted and is numbered. -/
  | numbering
  /-- psimp was accepted and its table is validated: its address and the space it was named in. -/
  | importing (table : Word) (root : BitVec 61)
  /-- The moves still to make, path by path and then cycle by cycle, as (row, from, to); the first `paths` lists are paths. -/
  | moving (paths : Nat) (plan : List (List (Nat × Nat × Nat)))
  deriving DecidableEq, Repr

/-- An active permuted set: the PSD as it was read, the address space of its first binder, its version and its reorder
(R250, R253). -/
structure PSet where
  psd : Nat
  base : Word
  pitch : Nat
  staging : Nat
  n : Nat
  fwd : Word
  inv : Word
  ver : Word
  sketch : Word
  nomove : Bool
  space : BitVec 61
  /-- Privilege of the first binder, with which the RNU reaches the set. -/
  priv : Priv
  reorder : Reorder
  moves : List Move
  rej : Bool
  deriving DecidableEq, Repr

/-- A list of logical rows that a taken gather of a hart recorded through a slot, not yet applied to the sketch, with the set as it was
recorded (R257, R259). -/
structure Sample where
  gang : BitVec 48
  hartix : BitVec 11
  slot : Nat
  set : PSet
  rows : List Nat
  deriving DecidableEq, Repr

/-- A page that pgmove is moving (R294): the hart, the physical address of its leaf, the page's old and new addresses. -/
structure PageMove where
  hart : Nat
  space : BitVec 61
  va : Word
  leafPa : Nat
  leaf : Word
  old : Nat
  new : Nat
  /-- The line whose trunk its copy waits on, and the cycle since which it does (R371). -/
  since : Option (Nat × Nat)
  deriving DecidableEq, Repr

/-- A request from outside that waits: it reached a line marked by pgmove, or it follows a posted write of its requester that waits (R241,
R295). The address of each of its bytes follows the moves. -/
structure Outside where
  /-- The requester, of a host request. -/
  rq : Option Nat
  relaxed : Bool
  /-- 0 a read, 1 a write, 2 an atomic add, 3 a swap. -/
  kind : BitVec 2
  at_ : List Nat
  bytes : List Byte
  deriving DecidableEq, Repr

/-- State of a trunk (R367). -/
inductive TrunkState where
  | up
  | retraining
  | down
  deriving DecidableEq, Repr

/-- A drawer request of a hart at a trunk: the hart, its Route, its line, whether it writes, the cycle at which it reached the trunk,
whether it is the request of a queued write, whose hart does not wait for it (R226, R333), and the link sequence number that it carries
once it has left (R366). -/
structure TrunkReq where
  gang : BitVec 48
  hartix : BitVec 11
  route : BitVec 6
  line : Nat
  write : Bool
  since : Nat
  posted : Bool
  num : Nat
  deriving DecidableEq, Repr

/-- A Spaup trunk (R226, R228, R366 to R369): its state, working fibres, failed attempts of the running series, the next transmit
slot, flits repeated in the frame, the requests that wait for a slot in the order they reached the trunk, the requests that left with
the slots at which their returns are due, the cycle at which the retraining started, the requests whose flits failed their check and are
to be repeated, and the next link sequence number. -/
structure Trunk where
  st : TrunkState
  fibres : Nat
  attempts : Nat
  slot : Nat
  repeats : Nat
  waiting : List TrunkReq
  flying : List (TrunkReq × Nat)
  since : Nat
  again : List TrunkReq
  num : Nat
  deriving DecidableEq, Repr

/-- A request at an LLC slice (R363, R364). -/
inductive ReqState where
  | retry
  | rehash
  | held
  deriving DecidableEq, Repr

/-- A request that an LLC slice did not serve at once. -/
structure SliceReq where
  core : Nat
  line : Nat
  write : Bool
  epoch : BitVec 32
  st : ReqState
  deriving DecidableEq, Repr

/-- A requested slice-map change: a new slice count, or the tile-geometry entries as the shadow held them (R222, R364). -/
inductive MapChange where
  | llcp (n : BitVec 8)
  | tiles (entries : Vector (BitVec 128) 16)
  deriving DecidableEq, Repr

/-- A slice-map change that runs: whether the epoch has advanced, the old map, and the lines handed over (R364). -/
structure MapRun where
  what : MapChange
  started : Bool
  oldLlcp : BitVec 8
  oldTiles : Vector (BitVec 128) 16
  handed : List Nat
  /-- Requests that had their rehash reply in this change: core, line, and whether it writes. -/
  rehashed : List (Nat × Nat × Bool)
  deriving DecidableEq, Repr

/-- Module states (R393). -/
inductive MState where
  | boot
  | selftest
  | run
  | talk
  deriving DecidableEq, Repr

/-- The management mailbox (R396). -/
structure Mailbox where
  op : BitVec 8
  arg0 : Word
  arg1 : Word
  result : BitVec 8
  busy : Bool
  done : Bool
  len : BitVec 16
  data : List Byte
  /-- Event records of 32 bytes, oldest first. -/
  events : List (List Byte)
  report : List (Word × Word)
  /-- INSTKEY has run since reset, and the keys (R396). -/
  keys : Option (List Byte × List Byte)
  /-- A queue has been enabled since reset (R396). -/
  opened : Bool
  deriving DecidableEq, Repr

/-- A turn of the agenda: which agent of the module moves next. The environment's choice is plain data (log entry 3). -/
inductive Turn where
  /-- A step of the device. -/
  | event (i : Instr)
  /-- The hart in the given slot (4 times the core number plus the slot) issues its next convoy. -/
  | run (h : Nat)
  /-- A core fetches a line of instructions into its L1I (R132). -/
  | fillL1I (core pa : Nat)
  /-- A core's permutation translation cache fills the entry of a row (R255). -/
  | fillPtc (core psd row : Nat)
  /-- The core of the hart in the given slot accepts the hart's held write at place k (R230, R238). -/
  | accept (h k : Nat)
  /-- The CXL pool acknowledges the write at place k (R230). -/
  | poolAck (k : Nat)
  /-- The LLC drops its copy of a line of a private drawer partition (R214). -/
  | dropLlc (line : Nat)
  /-- A core's L1D drops a line of 64 bytes (R124). -/
  | dropL1d (core line : Nat)
  /-- A compute die's L2 drops its copy of a line (R219). -/
  | dropL2 (die line : Nat)
  /-- The drawer moves a page of tier D into its flash, or brings it back (R296). -/
  | flash (page : Nat) (absent : Bool)
  deriving DecidableEq, Repr

/-- The whole module. -/
structure State where
  /-- The hart whose turn it is, and the other harts in their slots. -/
  hart : Hart
  others : List Hart
  conv : Convoy
  mem : List Host.Cell
  /-- Poisoned units: base, size, and where the poison lies (R356, R357). -/
  poison : List (Nat × Nat × PoisonAt)
  /-- Sequence counters of the lines that have one (R129, R233). -/
  tags : List (Nat × BitVec 16)
  /-- Pages of tier D that the drawer holds in its flash (R296). -/
  absentPages : List Nat
  wq : List Write
  /-- Writes of tier X applied at their slices that the CXL pool has not acknowledged (R230). -/
  unacked : List Write
  /-- Lines of private drawer partitions that the LLC holds, oldest first, and whether each is dirty (R214). -/
  llc : List (Nat × Bool)
  /-- Lines that the L2 of a compute die holds (R219). -/
  l2 : List (Nat × Nat)
  /-- The lines of 64 bytes that the L1D of a core holds (R124). -/
  l1d : List (Nat × Nat)
  pubs : List Pub
  hotPend : List Hot
  samples : List Sample
  tlb : List Tlb
  l1i : List IcLine
  ptc : List Ptc
  pageMoves : List PageMove
  stalled : List Outside
  lpr : Vector (BitVec 16) 384
  /-- Lane exchange FIFOs: sender, receiver, physical lane, entries oldest first (R310). -/
  fifos : List (Nat × Nat × Nat × List (BitVec 256))
  /-- Lane groups that vrel gave up and LPR still gives the hart's slot, as 4 times the core number plus the group (R144). -/
  relPend : List Nat
  /-- Gang whose data a lane group last held (R38). -/
  laneGang : List (Nat × BitVec 48)
  queues : Vector Queue 64
  masks : Vector (BitVec 384) 64
  spaces : Vector Space 512
  poolBase : BitVec 52
  poolCount : BitVec 16
  frames : List Nat
  offers : List Offer
  served : Option Served
  /-- Lane groups (4 times the core number plus the group) and hart slots that the served gang or hart has named (R303). -/
  named : List Nat
  namedSlots : List Nat
  rr : Vector (BitVec 6) 8
  gangs : List Gang
  swapped : List Swapped
  /-- Harts that have exited, with writes that their cores have not accepted (R307, R344). -/
  ended : List Hart
  exitDrops : List ExitDrop
  sets : List PSet
  serai : Vector (BitVec 5) 4
  dpriv : Word
  dshr : Word
  llcreq : BitVec 8
  llcp : BitVec 8
  epoch : BitVec 32
  change : Option MapRun
  changeHeld : List MapChange
  migthr : BitVec 32
  stallthr : BitVec 32
  slotAct : Bool
  swapPend : Bool
  refused : Bool
  tgShadow : Vector (BitVec 128) 16
  tgActive : Vector (BitVec 128) 16
  /-- The two banks of slot tables: entry 4,096 t + s for slot s of trunk t, ascending; an unlisted entry is Route 0 (R225). -/
  slotTab0 : List (Nat × BitVec 6)
  slotTab1 : List (Nat × BitVec 6)
  trunks : Vector Trunk 16
  sliceReqs : List SliceReq
  /-- Chunks of the reserve in use, per slice (R362). -/
  reserve : List (Nat × Nat)
  /-- Lines that the LLC stores in more than one chunk of 32 bytes, and in how many (R220). -/
  chunks : List (Nat × Nat)
  elBase : BitVec 52
  elHead : BitVec 32
  elTail : BitVec 32
  elEn : Bool
  elLog2 : BitVec 5
  elOvf : Bool
  elMsi : Bool
  cecnt : Vector Word 8
  mbox : Mailbox
  mstate : MState
  /-- The firmware images in force, and those that take effect at the next module reset, by number (R394, R396). -/
  images : Nat
  imagesNext : Nat
  /-- What the last host read returned, and whether it carried the EP attribute (R358). -/
  hostRead : List Byte × Bool
  cycle : Nat
  /-- The number of free values drawn so far (log entry 6). -/
  fresh : Nat
  agenda : List Turn
  deriving DecidableEq, Repr

/-- Reasons a step can stop. -/
inductive Fault where
  /-- Raised by `step` alone: the agenda names an instruction word where a step of the device is expected. The agenda is the
  model's own, so the stop is safe: the hardware has no such turn. -/
  | agendaWord
  deriving DecidableEq, Repr

/-- Instructions without a meaning. -/
inductive Refusal where
  /-- Raised by an arm of `exec` whose instruction has no meaning yet: safe. -/
  | notModelled (mnemonic : String)
  deriving DecidableEq, Repr

/-- A permuted-set slot that binds nothing (R254). -/
def PSlot.unbound : PSlot := ⟨none, 0, none, 0⟩

/-- A hart slot before any placement. A placement gives every register its value (R24, R25, R299), and the spec states no value
before one, so each register holds 0 here and the lane counts are 1 (log entry 2), but for MFC0, whose reset value R70 gives. -/
def Hart.blank (core slot : Nat) : Hart where
  core := core
  slot := slot
  x := Vector.replicate 32 0
  pc := 0
  priv := .u
  v := Vector.replicate 32 0
  side := Vector.replicate 32 0
  p := Vector.replicate 64 0
  vdead := false
  gmask := 0
  request := 1
  lgmin := 1
  lgmax := 1
  mfc := #v[0xFFF, 0, 0, 0]
  mb := Vector.replicate 8 0
  ts := Vector.replicate 4 0
  vcarry := 0
  pcarry := 0
  wmark := 0
  wwait := 0
  psvlo := 0
  psvhi := 0
  mck := 0
  flags := 0
  vl := 0
  vtype := 0
  mvl := 0
  vstart := 0
  hartix := 0
  gangsz := 0
  gangid := 0
  rpc := Vector.replicate 5 0
  rpcx := 0
  convoys := 0
  tvec := 0
  tcause := 0
  tepc := 0
  tval := 0
  tstatus := 0
  wbase := 0
  tscratch := 0
  route := 0
  prio := 0
  ptbase := 0
  prtbase := 0
  fplist := 0
  hotbase := 0
  det := false
  prot := false
  retry := 0
  rewEn := false
  rewLimit := 0
  rewCount := 0
  dbgctl := 0
  slots := Vector.replicate 4 PSlot.unbound
  copyBuf := []
  status := .gone
  resume := none
  carry := Carry.none
  stash := []
  pass := none
  retried := false
  held := []
  rheld := []
  seq := 0
  orders := []
  cores := [core]
  got := []
  gathered := []
  due := none
  check := none
  checkCarry := Carry.none
  reclaimAt := none
  shrunk := false
  switchReq := false
  arrived := none

/-- A queue descriptor after reset (R297). -/
def Queue.empty : Queue := ⟨0, 0, 0, false, false, false, false, 0, 0, false, 0⟩

/-- An address-space entry before system software writes it (log entry 2). -/
def Space.empty : Space := ⟨false, 0, 0, 0, 0, 0, 0⟩

/-- A trunk after link training: up, with 8 fibres in each direction (log entry 22). -/
def Trunk.trained : Trunk := ⟨.up, 8, 0, 0, 0, [], [], 0, [], 0⟩

/-- The mailbox after reset (R396). -/
def Mailbox.empty : Mailbox := ⟨0, 0, 0, 0, false, false, 0, [], [], [], none, false⟩

/-- The machine right after module reset (R393 and the reset columns of the register maps). -/
def State.reset : State where
  hart := Hart.blank 0 0
  others := []
  conv := Convoy.fresh
  mem := []
  poison := []
  tags := []
  absentPages := []
  wq := []
  unacked := []
  llc := []
  l2 := []
  l1d := []
  pubs := []
  hotPend := []
  samples := []
  tlb := []
  l1i := []
  ptc := []
  pageMoves := []
  stalled := []
  lpr := Vector.replicate 384 0
  fifos := []
  relPend := []
  laneGang := []
  queues := Vector.replicate 64 Queue.empty
  masks := (Vector.replicate 64 0).set 0 (BitVec.allOnes 384)
  spaces := Vector.replicate 512 Space.empty
  poolBase := 0
  poolCount := 0
  frames := []
  offers := []
  served := none
  named := []
  namedSlots := []
  rr := Vector.replicate 8 63
  gangs := []
  swapped := []
  ended := []
  exitDrops := []
  sets := []
  serai := Vector.replicate 4 0
  dpriv := 0
  dshr := 0
  llcreq := 131
  llcp := 131
  epoch := 0
  change := none
  changeHeld := []
  migthr := 32768
  stallthr := 131072
  slotAct := false
  swapPend := false
  refused := false
  tgShadow := Vector.replicate 16 0
  tgActive := Vector.replicate 16 0
  slotTab0 := []
  slotTab1 := []
  trunks := Vector.replicate 16 Trunk.trained
  sliceReqs := []
  reserve := []
  chunks := []
  elBase := 0
  elHead := 0
  elTail := 0
  elEn := false
  elLog2 := 0
  elOvf := false
  elMsi := false
  cecnt := Vector.replicate 8 0
  mbox := Mailbox.empty
  mstate := .boot
  images := 0
  imagesNext := 0
  hostRead := ([], false)
  cycle := 0
  fresh := 0
  agenda := []

/-- What a meaning answers. -/
abbrev Out := Host.Outcome State Fault Refusal

end Sys2Proof.Machine
end

