-- ==== Sys2Proof/Machine/Memory.lean ====
section
/-! DEFINITION. Bytes and memory: byte order, the list of cells in its canonical form, and the physical address map. -/

namespace Sys2Proof.Machine

/-- The little-endian value of bytes (R2). -/
def leNat : List Byte → Nat
  | [] => 0
  | b :: r => b.toNat + 256 * leNat r

/-- The first n bytes of a value, lowest first (R2). -/
def leBytes : Nat → Nat → List Byte
  | 0, _ => []
  | n + 1, v => BitVec.ofNat 8 v :: leBytes n (v / 256)

/-- What an address that the list does not name reads as (log entry 1). -/
def Memory.unlisted : Byte := 0

/-- The byte at an address. -/
def Memory.get : List Host.Cell → Nat → Byte
  | [], _ => Memory.unlisted
  | c :: r, a => if a = c.1 then c.2 else if a < c.1 then Memory.unlisted else Memory.get r a

/-- The memory with one byte written; the list keeps its canonical form. -/
def Memory.set : List Host.Cell → Nat → Byte → List Host.Cell
  | [], a, b => if b = Memory.unlisted then [] else [(a, b)]
  | c :: r, a, b =>
    if a < c.1 then (if b = Memory.unlisted then c :: r else (a, b) :: c :: r)
    else if a = c.1 then (if b = Memory.unlisted then r else (a, b) :: r)
    else c :: Memory.set r a b

/-- The canonical form: addresses strictly rising from `low` on, no entry equal to what an unlisted address reads as. -/
def Memory.wfFrom : Nat → List Host.Cell → Bool
  | _, [] => true
  | low, c :: r => low ≤ c.1 && c.2 != Memory.unlisted && Memory.wfFrom (c.1 + 1) r

/-- The canonical form of a memory. -/
def Memory.wf (m : List Host.Cell) : Bool := Memory.wfFrom 0 m

/-- n bytes from an address on. -/
def Memory.bytes (m : List Host.Cell) (a : Nat) : Nat → List Byte
  | 0 => []
  | n + 1 => Memory.get m a :: Memory.bytes m (a + 1) n

/-- The memory with bytes written from an address on, in ascending order. -/
def Memory.setBytes (m : List Host.Cell) (a : Nat) : List Byte → List Host.Cell
  | [] => m
  | b :: r => Memory.setBytes (Memory.set m a b) (a + 1) r

/-- The cells of some bytes, those that an unlisted address does not read as. -/
def Memory.cells (a : Nat) : List Byte → List Host.Cell
  | [] => []
  | b :: r => if b = Memory.unlisted then Memory.cells (a + 1) r else (a, b) :: Memory.cells (a + 1) r

/-- The memory with many bytes written from an address on, in one pass. -/
def Memory.splice (m : List Host.Cell) (a : Nat) (bs : List Byte) : List Host.Cell :=
  (m.filter fun c => c.1 < a) ++ Memory.cells a bs ++ m.filter fun c => a + bs.length ≤ c.1

/-- The little-endian value of the n bytes at an address (Table 2 of the notation, MEM). -/
def Memory.value (m : List Host.Cell) (a n : Nat) : Nat := leNat (Memory.bytes m a n)

/-- The memory with n bytes at `dst` made equal to those at `src`. -/
def Memory.copy (m : List Host.Cell) (src dst n : Nat) : List Host.Cell :=
  let cleared := (m.filter fun c => dst ≤ c.1 && c.1 < dst + n).foldl (fun k c => Memory.set k c.1 Memory.unlisted) m
  (m.filter fun c => src ≤ c.1 && c.1 < src + n).foldl (fun k c => Memory.set k (c.1 - src + dst) c.2) cleared

/-- The memory with n bytes from an address on set to zero. -/
def Memory.clear (m : List Host.Cell) (a n : Nat) : List Host.Cell :=
  (m.filter fun c => a ≤ c.1 && c.1 < a + n).foldl (fun k c => Memory.set k c.1 0) m

/-- The memory with n bytes from an address on undefined (R8): free values. -/
def Memory.scramble (m : List Host.Cell) (a fresh : Nat) : Nat → List Host.Cell
  | 0 => m
  | n + 1 => Memory.scramble (Memory.set m a (Config.freeByte fresh)) (a + 1) (fresh + 1) n

/-- The region of a physical address (Table 1 of the memory chapter). -/
inductive Region where
  | hbm
  | drawer
  | cxl
  | tcm (core : Nat)
  | csp (cluster : Nat)
  | serai (die : Nat)
  | regs
  | reserved
  deriving DecidableEq, Repr

/-- The start of the drawer window (R213). -/
def drawerBase : Nat := 0x1000000000000

/-- The start of the TCM windows (R213). -/
def tcmBase : Nat := 0xE000000000000

/-- The local TCM alias (R213, R216). -/
def aliasBase : Nat := 0xE0000FFFC0000

/-- The start of the CSP windows (R213). -/
def cspBase : Nat := 0xE000100000000

/-- The start of the Serai windows (R213). -/
def seraiBase : Nat := 0xE000200000000

/-- The start of the device registers (R213). -/
def regsBase : Nat := 0xF000000000000

/-- The physical address map (R213, Table 1). -/
def regionOf (pa : Nat) : Region :=
  if pa < 0x6000000000 then .hbm
  else if pa < drawerBase then .reserved
  else if pa < 0x1400000000000 then .drawer
  else if pa < 0x2000000000000 then .reserved
  else if pa < 0x3000000000000 then .cxl
  else if pa < tcmBase then .reserved
  else if pa < tcmBase + 0x40000 * 384 then .tcm ((pa - tcmBase) / 0x40000)
  else if pa < cspBase then .reserved
  else if pa < cspBase + 0x400000 * 48 then .csp ((pa - cspBase) / 0x400000)
  else if pa < seraiBase then .reserved
  else if pa < seraiBase + 0x10000000 * 4 then .serai ((pa - seraiBase) / 0x10000000)
  else if pa < regsBase then .reserved
  else if pa < 0x10000000000000 then .regs
  else .reserved

/-- The local TCM alias selects the TCM of the issuing core (R216). -/
def localTcm (core pa : Nat) : Nat :=
  if aliasBase ≤ pa ∧ pa < cspBase then tcmBase + 0x40000 * core + (pa - aliasBase) else pa

/-- The line of a physical address (128 bytes). -/
def lineOf (pa : Nat) : Nat := pa / 128 * 128

/-- The trunk of a drawer line (R224): the exclusive OR of the ten 4-bit groups of the line index within the window. -/
def trunkOf (pa : Nat) : Nat :=
  let x := (pa - drawerBase) / 128
  (List.range 10).foldl (fun t k => t ^^^ (x / 16 ^ k % 16)) 0

/-- A window whose bank is its ordering point (R215). -/
def Region.isWindow : Region → Bool
  | .tcm _ | .csp _ | .serai _ => true
  | .hbm | .drawer | .cxl | .regs | .reserved => false

/-- The home slice or the drawer keeps sequence tags for the line (R233). -/
def Region.hasTags : Region → Bool
  | .hbm | .drawer => true
  | .cxl | .tcm _ | .csp _ | .serai _ | .regs | .reserved => false

/-- Single-copy atomic units of `len` bytes at an address, as their sizes: aligned blocks of u bytes, else aligned 4-byte
units, else single bytes (R123, R168). -/
def unitSizes (u : Nat) : Nat → Nat → Nat → List Nat
  | 0, _, _ => []
  | fuel + 1, a, len =>
    if len = 0 then []
    else
      let k := if a % u = 0 ∧ u ≤ len then u else if a % 4 = 0 ∧ 4 ≤ len then 4 else 1
      k :: unitSizes u fuel (a + k) (len - k)

/-- Two byte ranges have a byte in common. -/
def overlaps (a n b m : Nat) : Bool := a < b + m && b < a + n

/-- The memory without its cells that a predicate names. -/
def Memory.drop (m : List Host.Cell) (p : Nat → Bool) : List Host.Cell := m.filter fun c => !p c.1

end Sys2Proof.Machine
end

