-- ==== Sys2Proof/Machine/Translate.lean ====
section
/-! DEFINITION. Translation of virtual addresses: page-table entries, the walk, the translation caches, access checks and the
copy-on-write and page-count tables (the translation chapter). -/

namespace Sys2Proof.Machine

/-- The kinds of access a page-table entry allows or forbids (R285). -/
inductive Acc where
  | read
  | write
  | fetch
  deriving DecidableEq, Repr

/-- A virtual address is canonical when bits 63 to 55 equal bit 54 (R5). -/
def canonical (va : Word) : Bool := va == (va.extractLsb' 0 55).signExtend 64

/-- The virtual page of an address (64 KiB, R283). -/
def pageOf (va : Word) : Word := va &&& ~~~(0xFFFF#64)

/-- PPN of an entry, as the physical address of its page (R284). -/
def ptePa (e : Word) : Nat := (e.extractLsb' 16 36).toNat * 65536

/-- Page-table entry bits (R284). -/
def pteV (e : Word) : Bool := e.getLsbD 0
def pteR (e : Word) : Bool := e.getLsbD 1
def pteW (e : Word) : Bool := e.getLsbD 2
def pteX (e : Word) : Bool := e.getLsbD 3
def pteU (e : Word) : Bool := e.getLsbD 4
def pteCow (e : Word) : Bool := e.getLsbD 5
def pteSh (e : Word) : Bool := e.getLsbD 6
def pteM (e : Word) : Bool := e.getLsbD 7
def pteHot (e : Word) : Bool := e.getLsbD 8

/-- A leaf has any of R, W and X (R283). -/
def pteLeaf (e : Word) : Bool := pteR e || pteW e || pteX e

/-- A page of tier H or of a private drawer partition (R214, R285). -/
def State.privatePage (s : State) (pa : Nat) : Bool :=
  match regionOf pa with
  | .hbm => true
  | .drawer => pa - drawerBase < s.dpriv.toNat
  | .cxl | .tcm _ | .csp _ | .serai _ | .regs | .reserved => false

/-- A byte of a region that modules share (R13, R214). -/
def State.sharedPa (s : State) (pa : Nat) : Bool :=
  match regionOf pa with
  | .drawer => s.dpriv.toNat ≤ pa - drawerBase && pa - drawerBase < s.dpriv.toNat + s.dshr.toNat
  | .hbm | .cxl | .tcm _ | .csp _ | .serai _ | .regs | .reserved => false

/-- A line that L1D, L2 and the LLC may hold (R13, R213 to R215). -/
def State.cacheable (s : State) (pa : Nat) : Bool :=
  match regionOf pa with
  | .hbm | .cxl => true
  | .drawer => !s.sharedPa pa
  | .tcm _ | .csp _ | .serai _ | .regs | .reserved => false

/-- The physical address lies in a region and within its configured size (R213). -/
def State.configured (s : State) (pa : Nat) : Bool :=
  match regionOf pa with
  | .hbm | .tcm _ | .csp _ | .regs => true
  | .drawer => pa - drawerBase < s.dpriv.toNat + s.dshr.toNat
  | .cxl => pa - 0x2000000000000 < Config.cxlSize
  | .serai d => (pa - seraiBase) % 0x10000000 < (s.serai[d]?.getD 0).toNat * 0x1000000
  | .reserved => false

/-- The index of a page in the page reference count table and the hotness table (R286). -/
def pageIndex (pa : Nat) : Nat :=
  if pa < drawerBase then pa / 65536 else 6291456 + (pa - drawerBase) / 65536

/-- An entry met in the walk with `left` levels below it raises a translation fault (R285). -/
def State.badEntry (s : State) (left : Nat) (e : Word) : Bool :=
  let size := 2 ^ (16 + 13 * left)
  !pteV e || e.extractLsb' 52 12 != 0 ||
    (if pteLeaf e then
      ptePa e % size != 0 || e.extractLsb' 14 2 == 3 ||
        ((pteCow e || pteSh e) && (left != 0 || !s.privatePage (ptePa e))) ||
        (pteCow e && (pteW e || !pteR e))
    else left == 0 || e.extractLsb' 1 15 != 0)

/-- The LLC holds a line of a private drawer partition (R214). -/
def State.inLlc (s : State) (pa : Nat) : Bool := !s.sharedPa pa && s.llc.any fun l => l.1 == lineOf pa

/-- The compute die of a core (R9). -/
def dieOf (core : Nat) : Nat := core / 96

/-- The trunk that an access to an address waits for: the trunk of its drawer line when that trunk carries nothing, unless the LLC holds
the line (R214, R367, R369). -/
def State.downTrunk (s : State) (pa : Nat) : Option Nat :=
  match regionOf pa with
  | .drawer =>
    let t := trunkOf pa
    if s.inLlc pa then none
    else
      match s.trunks[t]? with
      | some k => if k.st = .up then none else some t
      | none => none
  | .hbm | .cxl | .tcm _ | .csp _ | .serai _ | .regs | .reserved => none

/-- A table of translations may stand at a physical address: the walker is no hart, so it reaches no TCM and no device register (R213,
R216, R287). -/
def State.holdsTable (s : State) (pa : Nat) : Bool :=
  s.configured pa && (match regionOf pa with
    | .hbm | .drawer | .cxl | .csp _ | .serai _ => true
    | .tcm _ | .regs | .reserved => false)

/-- The end of a walk. -/
inductive Walk where
  /-- The leaf, the log2 of the page it maps, and the physical address of the entry. -/
  | leaf (e : Word) (lg : Nat) (at_ : Nat)
  /-- An entry that raises a translation fault. -/
  | bad
  /-- An entry that holds poison, at this physical address (R357). -/
  | poisoned (pa : Nat)
  /-- A table that lies where the walker reaches no memory (R213). -/
  | denied
  /-- An entry whose trunk carries nothing: the walk waits (R287, R369). -/
  | blocked (pa : Nat)
  deriving DecidableEq, Repr

/-- The first poisoned unit among n bytes at a physical address, as a read at their home finds it (R356, R357). -/
def State.poisonAt (s : State) (pa n : Nat) : Option Nat :=
  (s.poison.find? fun u => u.2.2 == .home && overlaps u.1 u.2.1 pa n).map fun u => u.1

/-- One entry of a walk, in a table with `left` levels below it; `down` continues in the table a pointer names (R283). -/
def State.walkStep (s : State) (va : Word) (table left : Nat) (down : Nat → Walk) : Walk :=
  let a := table + 8 * (va.toNat / 2 ^ (16 + 13 * left) % 8192)
  if !s.holdsTable a then .denied
  else if (s.downTrunk a).isSome then .blocked a
  else
    match s.poisonAt a 8 with
    | some u => .poisoned u
    | none =>
      let e := BitVec.ofNat 64 (Memory.value s.mem a 8)
      if s.badEntry left e then .bad
      else if pteLeaf e then .leaf e (16 + 13 * left) a
      else down (ptePa e)

/-- The walk of the tables from a table on, with `left` levels below it (R283). -/
def State.walkFrom (s : State) (va : Word) (table : Nat) : Nat → Walk
  | 0 => s.walkStep va table 0 fun _ => .bad
  | left + 1 => s.walkStep va table (left + 1) fun next => s.walkFrom va next left

/-- The walk of a virtual address in the space that a PTBASE value names (R283, R286). -/
def State.walk (s : State) (space : BitVec 61) (va : Word) : Walk :=
  s.walkFrom va ((space.extractLsb' 16 36).toNat * 65536) 2

/-- A cached translation of a core (R287, R288). -/
def State.tlbFind (s : State) (core : Nat) (space : BitVec 61) (va : Word) : Option Tlb :=
  s.tlb.find? fun t => t.core == core && t.asid == space.extractLsb' 52 9 && t.va.toNat / 2 ^ t.lg == va.toNat / 2 ^ t.lg

/-- What a translation answers. -/
inductive Trans where
  /-- The physical address and the leaf. -/
  | pa (a : Nat) (leaf : Word)
  /-- A fault: its code, and the kind of the page list (R324, R328). -/
  | fault (code : BitVec 8) (kind : BitVec 4)
  /-- The walk read poison at this unit (R358). -/
  | poison (unit : Nat)
  /-- The walk waits for a trunk, at this physical address (R287, R369). -/
  | blocked (pa : Nat)
  /-- The page is being moved (R295). -/
  | held
  /-- A write met a copy-on-write leaf; the entry stands at this physical address (R291). -/
  | cow (leaf : Word) (at_ : Nat)
  deriving DecidableEq, Repr

/-- An entry's verdict on an access at a privilege (R285): a copy-on-write leaf lets a write be resolved. -/
def pteAllows (e : Word) (priv : Priv) (acc : Acc) : Bool :=
  (match acc with
    | .read => pteR e
    | .write => pteW e || pteCow e
    | .fetch => pteX e) && (priv == .s || pteU e)

/-- The region check of a translated access (R170, R213, R216, R228): none when it may proceed, else the kind of the page list.
Only scalar loads and stores reach device registers. -/
def State.regionFault (s : State) (core : Nat) (scalar : Bool) (pa : Nat) : Option (BitVec 4) :=
  match regionOf pa with
  | .tcm n => if n = core then none else some 4
  | .regs => if scalar then none else some 5
  | .hbm | .drawer | .cxl | .csp _ | .serai _ | .reserved => if s.configured pa then none else some 4

/-- The leaf for an address in a space, from the core's translation cache or by a walk, with whether the walk filled it: an
absent drawer page is reported when the walker fills (R287, R296). A write that meets a cached copy-on-write leaf goes to the walker,
which finds the entry as it stands (R291). An entry found not valid may be cached too (R288, R354). -/
def State.leafOf (s : State) (core : Nat) (space : BitVec 61) (acc : Acc) (va : Word) : Walk × Bool :=
  match s.tlbFind core space va with
  | some t =>
    if t.bad then (.bad, false)
    else if acc == .write && pteCow t.leaf then (s.walk space va, true) else (.leaf t.leaf t.lg t.at_, false)
  | none => (s.walk space va, true)

/-- Translation of one byte's address for an access of a hart of a core, at a privilege, in a space (R5, R213, R283 to R296). -/
def State.translate (s : State) (core : Nat) (space : BitVec 61) (priv : Priv) (acc : Acc) (scalar : Bool) (va : Word) :
    Trans :=
  if !canonical va then .fault 0x06 2
  else
    match s.leafOf core space acc va with
    | (.bad, _) => .fault 0x06 1
    | (.denied, _) => .fault 0x07 4
    | (.poisoned u, _) => .poison u
    | (.blocked a, _) => .blocked a
    | (.leaf e lg a, filled) =>
      if pteM e then .held
      else if !pteAllows e priv acc then .fault 0x07 3
      else
        let pa := localTcm core (ptePa e + va.toNat % 2 ^ lg)
        match s.regionFault core scalar pa with
        | some k => .fault 0x07 k
        | none =>
          if filled && regionOf pa == .drawer && s.absentPages.contains (pa / 65536 * 65536) then .fault 0x09 8
          else if acc == .write && pteCow e then .cow e a
          else .pa pa e

/-- The leaf's SMM and TG choose the slice map of its lines (R221, R284). -/
def State.sliceOf (tiles : Vector (BitVec 128) 16) (p : Nat) (leaf : Word) (pa : Nat) : Nat :=
  let x := pa / 128
  let g := tiles[(leaf.extractLsb' 10 4).toNat]?.getD 0
  let base := (g.extractLsb' 0 36).toNat * 65536
  let pitch := (g.extractLsb' 64 20).toNat
  let twl := (g.extractLsb' 84 4).toNat
  let th := (g.extractLsb' 88 8).toNat
  let soff := (g.extractLsb' 96 8).toNat
  if !leaf.getLsbD 9 || pitch == 0 || 8 < twl || th == 0 || 256 < 2 ^ twl * th || pa < base then x % p
  else
    let off := pa - base
    let row := off / (128 * pitch)
    let col := off % (128 * pitch) / 128
    let nx := (pitch + 2 ^ twl - 1) / 2 ^ twl
    (row / th * nx + col / 2 ^ twl + soff) % p

end Sys2Proof.Machine
end

