-- ==== Sys2Proof/Machine/Ops.lean ====
section
/-! DEFINITION. The named operations over the state: registers, harts, the writes of a core on their way to memory, sequence
tags, the error log and the event queue, checkpoints, the retirement of a convoy, taking a trap and returning from one. -/

namespace Sys2Proof.Machine

/-- What a word of a convoy answers to the state it executes in. -/
inductive Res where
  /-- It is complete. -/
  | ok (s : State)
  /-- It raises a cause; nothing of it happened. -/
  | trap (t : Trap)
  /-- It cannot complete yet. -/
  | wait (why : Why)
  /-- Its matrix pass ended without acceptance; the pass named is the next one (R205). -/
  | replay (p : Pass)
  /-- It has done its part and waits: the words before it are complete (R308). -/
  | hold (s : State) (why : Why)
  /-- A cause struck it in the write phase: the state holds the elements performed, and the mask names the rest (R330). -/
  | susp (s : State) (t : Trap) (rest : Pred)
  /-- Its write phase waits: the state holds the elements performed so far, and the mask names the rest (R333). -/
  | pause (s : State) (why : Why) (rest : Pred)
  /-- It waits in its read phase with the elements that its gather has read: the convoy is to execute again (R271). -/
  | keep (gathered : List (Nat × Nat × Word)) (why : Why)

/-- Res.ok of a state goes on, anything else ends the word. -/
def Res.andThen : Res → (State → Res) → Res
  | .ok s, f => f s
  | .trap t, _ => .trap t
  | .wait w, _ => .wait w
  | .replay p, _ => .replay p
  | .hold s w, _ => .hold s w
  | .susp s t m, _ => .susp s t m
  | .pause s w m, _ => .pause s w m
  | .keep g w, _ => .keep g w

/-- A cause without pages. -/
def Trap.plain (code : BitVec 8) (tval : Word) : Trap := ⟨code, tval, [], 0, false, false⟩

/-! ### Registers -/

/-- A scalar register; x0 reads zero (R79). -/
def Hart.reg (h : Hart) (r : BitVec 5) : Word :=
  if r = 0 then 0 else h.x[r.toNat]'(by have := r.isLt; omega)

/-- The hart with a scalar register written; a write to x0 is discarded (R79, R114). -/
def Hart.setReg (h : Hart) (r : BitVec 5) (v : Word) : Hart :=
  if r = 0 then h else { h with x := h.x.set r.toNat v (by have := r.isLt; omega) }

/-- A scalar register of the current hart. -/
def State.x (s : State) (r : BitVec 5) : Word := s.hart.reg r

/-- The state with a scalar register of the current hart written. -/
def State.setX (s : State) (r : BitVec 5) (v : Word) : State := { s with hart := s.hart.setReg r v }

/-- The slot of a hart within the package: 4 times its global core number plus its slot. -/
def Hart.id (h : Hart) : Nat := 4 * h.core + h.slot

/-- Trap in progress, TSTATUS bit 6 (R326). -/
def Hart.tip (h : Hart) : Bool := h.tstatus.getLsbD 6

/-- Lane groups the hart holds. -/
def Hart.groups (h : Hart) : Nat := (List.range 4).countP fun k => h.gmask.getLsbD k

/-- L_h, the lanes the hart holds (R32). -/
def Hart.lanes (h : Hart) : Nat := 8 * h.groups

/-- LANES (R34). -/
def Hart.lanesCsr (h : Hart) : Word := BitVec.ofNat 64 (h.lanes + 64 * h.gmask.toNat)

/-- COREID of a slot of the package (R10): slot, core of the cluster, cluster of the die, die. -/
def coreidOf (id : Nat) : Word := BitVec.ofNat 64 (id % 4 + 4 * (id / 4 % 8) + 32 * (id / 4 / 8 % 12) + 512 * (id / 4 / 96))

/-- COREID (R10). -/
def Hart.coreid (h : Hart) : Word := coreidOf h.id

/-- SEW in bits (R91). -/
def sewOf (vtype : BitVec 13) : Nat := 8 * 2 ^ (vtype.extractLsb' 0 2).toNat

/-- LMUL (R91). -/
def lmulOf (vtype : BitVec 13) : Nat := 2 ^ (vtype.extractLsb' 3 2).toNat

/-- TR, the rows of a tile (R91). -/
def trOf (vtype : BitVec 13) : Nat := 4 * 2 ^ (vtype.extractLsb' 6 2).toNat

/-- VTYPE.BLK is 1 (R91). -/
def blkOf (vtype : BitVec 13) : Bool := vtype.getLsbD 8

/-- VTYPE.MA (R91). -/
def maOf (vtype : BitVec 13) : Bool := vtype.getLsbD 10

/-! ### Harts of the module -/

/-- Every hart that stands in a slot. -/
def State.harts (s : State) : List Hart :=
  if s.hart.status = .gone then s.others else s.hart :: s.others

/-- The hart in a slot. -/
def State.hartAt (s : State) (id : Nat) : Option Hart := s.harts.find? fun h => h.id == id

/-- The state with one hart changed, wherever it stands. -/
def State.onHart (s : State) (id : Nat) (f : Hart → Hart) : State :=
  { s with
    hart := if s.hart.id = id ∧ s.hart.status ≠ .gone then f s.hart else s.hart
    others := s.others.map fun h => if h.id = id then f h else h }

/-- The state with the hart of a slot as the current one, if a hart stands there. -/
def State.focus (s : State) (id : Nat) : Option State :=
  if s.hart.id = id ∧ s.hart.status ≠ .gone then some s
  else
    match s.others.find? fun h => h.id == id with
    | none => none
    | some h =>
      let rest := s.others.filter fun k => k.id != id
      some { s with hart := h, others := if s.hart.status = .gone then rest else rest ++ [s.hart] }

/-- The state with the hart of a slot as the current one and an operation applied; unchanged where no hart stands there. -/
def State.atHart (s : State) (id : Nat) (f : State → State) : State :=
  match s.focus id with
  | none => s
  | some t => f t

/-- The next of the other harts becomes the current one. -/
def State.rotate (s : State) : State :=
  match s.others with
  | [] => s
  | h :: r => { s with hart := h, others := if s.hart.status = .gone then r else r ++ [s.hart] }

/-! ### Small tables -/

/-- A table kept in ascending order of its keys, with one entry set. -/
def tableSet {α : Type} : List (Nat × α) → Nat → α → List (Nat × α)
  | [], k, v => [(k, v)]
  | e :: r, k, v => if k < e.1 then (k, v) :: e :: r else if k = e.1 then (k, v) :: r else e :: tableSet r k v

/-- The entry of a table. -/
def tableGet {α : Type} (t : List (Nat × α)) (k : Nat) : Option α := (t.find? fun e => e.1 == k).map fun e => e.2

/-! ### Writes on their way to their ordering points -/

/-- The sequence counter of a line (R129, R233). -/
def State.tag (s : State) (line : Nat) : BitVec 16 := (tableGet s.tags line).getD (Config.tagInit line)

/-- The counter of the line of a unit advances by one write, where the line keeps tags (R129, R233, R248). -/
def State.stamp (s : State) (pa : Nat) : State :=
  if (regionOf pa).hasTags then { s with tags := tableSet s.tags (lineOf pa) (s.tag (lineOf pa) + 1) } else s

/-- One stamp for each single-copy atomic unit of a write (R248). -/
def State.stampUnits (s : State) (pa : Nat) : List Nat → State
  | [] => s
  | k :: r => State.stampUnits (s.stamp pa) (pa + k) r

/-- A byte after a write of some of its bits. -/
def WByte.apply (w : WByte) (b : Byte) : Byte := (b &&& ~~~w.mask) ||| (w.val &&& w.mask)

/-- The bytes of a write applied to memory in ascending order. -/
def applyBytes (m : List Host.Cell) (a : Nat) : List WByte → List Host.Cell
  | [] => m
  | b :: r => applyBytes (Memory.set m a (b.apply (Memory.get m a))) (a + 1) r

/-- The poisoned units after a write, by a core of a die or by no core: a unit whose every byte the access covers is clean again, and one
written in part stays poisoned (R359). The copies that the L2s of other dies hold of the line go, and poison in the writer's own L2 is
then in the only current copy. -/
def clearPoison (ps : List (Nat × Nat × PoisonAt)) (die : Option Nat) (pa n lo hi : Nat) : List (Nat × Nat × PoisonAt) :=
  ps.filterMap fun u =>
    let covered := overlaps u.1 u.2.1 pa n && lo ≤ u.1 && u.1 + u.2.1 ≤ hi
    match u.2.2 with
    | .home => if covered then none else some u
    | .below => some u
    | .l2 d =>
      if !overlaps (lineOf u.1) 128 pa n then some u
      else if some d != die || covered then none
      else some (u.1, u.2.1, .home)

/-- A set of the renumbering unit. -/
def State.setOf (s : State) (psd : Nat) : Option PSet := s.sets.find? fun k => k.psd == psd

/-- The state with a set changed. -/
def State.onSet (s : State) (psd : Nat) (f : PSet → PSet) : State :=
  { s with sets := s.sets.map fun k => if k.psd = psd then f k else k }

/-- The physical address of a virtual address of a space, by its tables, whatever their permissions (R250, R253). -/
def State.spacePa (s : State) (space : BitVec 61) (va : Word) : Option Nat :=
  match s.walk space va with
  | .leaf e lg _ => some (ptePa e + va.toNat % 2 ^ lg)
  | .bad | .poisoned _ | .denied | .blocked _ => none

/-- The virtual address of a byte of a physical row (R250). -/
def PSet.rowVa (k : PSet) (q off : Nat) : Word := k.base + BitVec.ofNat 64 (q * k.pitch + off)

/-- The move of a logical row of a set out of a physical row (R263). -/
def State.moveAt (s : State) (psd row q : Nat) : Option (PSet × Move) :=
  match s.setOf psd with
  | some k => (k.moves.find? fun m => m.row == row && m.src == q).map fun m => (k, m)
  | none => none

/-- The physical address of a byte of the row that a committed move made current (R266). -/
def Move.landing (m : Move) (k : PSet) (off : Nat) : Option Nat :=
  let va := k.rowVa m.dst off
  (m.pages.find? fun p => p.1 == pageOf va).map fun p => p.2 + va.toNat % 65536

/-- The 64-byte segments of a row that n bytes at an offset touch (R263). -/
def segmentsOf (off n : Nat) : List Nat := (List.range ((off % 64 + n + 63) / 64)).map fun j => off / 64 + j

/-- A set with segments of a moving row marked dirty, where the move is not committed (R263). -/
def PSet.markDirty (k : PSet) (row : Nat) (segs : List Nat) : PSet :=
  { k with moves := k.moves.map fun m => if m.row = row ∧ m.st ≠ .forwarding then { m with dirty := m.dirty ++ segs } else m }

/-- A permuted element's write at the copy that is current: after a commit it is forwarded to the new copy, and while its row is
copied its segments become dirty (R263, R266). The first argument bounds the commits that it can meet. -/
def State.redirectFrom : Nat → State → Write → Write × State
  | 0, s, w => (w, s)
  | n + 1, s, w =>
    match w.perm with
    | none => (w, s)
    | some (psd, row, q, off) =>
      match s.moveAt psd row q with
      | none => (w, s)
      | some (k, m) =>
        match m.st with
        | .forwarding =>
          match m.landing k off with
          | some pa => State.redirectFrom n s { w with
              pa := pa, lo := pa, hi := pa + w.bytes.length, perm := some (psd, row, m.dst, off) }
          | none => (w, s)
        | .copying | .recopy _ | .locked => (w, s.onSet psd fun k => k.markDirty row (segmentsOf off w.bytes.length))

/-- A write at the copy of its row that is current (R263, R266). -/
def State.redirect (s : State) (w : Write) : Write × State :=
  match w.perm with
  | none => (w, s)
  | some (psd, _, _, _) => State.redirectFrom ((s.setOf psd).elim 0 fun k => k.moves.length + 1) s w

/-- The core of the queue that a write passes through. -/
def Write.core (w : Write) : Nat := w.hart / 4

/-- Copies of the lines of some bytes that the L1Ds and the L2s hold are dropped, but for those of the core `keep` and of its die, each line
whole (R124, R219). -/
def State.dropCopies (s : State) (keep : Option Nat) (pa n : Nat) : State :=
  let base := lineOf pa
  let size := lineOf (pa + n + 127) - base
  { s with
    l1d := if s.l1d.isEmpty then [] else s.l1d.filter fun l => some l.1 == keep || !overlaps l.2 64 base size
    l2 := if s.l2.isEmpty then [] else s.l2.filter fun l => some l.1 == keep.map dieOf || !overlaps l.2 128 base size }

/-- The LLC holds a line of a private drawer partition, dirty or clean. A slice has tags for 4 × 2^20 lines (R220): past that many the
oldest line goes. -/
def State.takeLlc (s : State) (line : Nat) (dirty : Bool) : State :=
  if s.llc.any fun l => l.1 == line then
    { s with llc := if dirty then s.llc.map fun l => if l.1 = line then (line, true) else l else s.llc }
  else { s with llc := (if s.llc.length < 4194304 then s.llc else s.llc.drop 1) ++ [(line, dirty)] }

/-- The LLC drops its copy of a line of a private drawer partition: a dirty one is written back over what lay beneath, and after a clean one
the memory beneath is read again (R214, R219, R357). -/
def State.dropLlc (s : State) (line : Nat) : State :=
  let dirty := s.llc.any fun l => l.1 == line && l.2
  let held := s.llc.any fun l => l.1 == line
  { s with
    llc := s.llc.filter fun l => l.1 != line
    chunks := s.chunks.filter fun c => c.1 != line
    poison := if !held then s.poison else s.poison.filterMap fun u =>
      if u.2.2 = .below ∧ lineOf u.1 = line then (if dirty then none else some (u.1, u.2.1, PoisonAt.home)) else some u }

/-- Some bytes written at their ordering point: memory, poison and sequence tags follow (R231, R248, R359), the LLC takes the line of a
private drawer partition (R214), and the caches drop their copies of the line, but for those of the core `keep` and its die (R124). -/
def State.putWrite (s : State) (w : Write) (keep : Option Nat) : State :=
  let n := w.bytes.length
  let t := if regionOf w.pa == .drawer && !s.sharedPa w.pa then s.takeLlc (lineOf w.pa) true else s
  (({ t with
    mem := applyBytes t.mem w.pa w.bytes
    poison := clearPoison t.poison (keep.map dieOf) w.pa n w.lo w.hi } : State).dropCopies keep w.pa n).stampUnits w.pa
      (unitSizes w.unit n w.pa n)

/-- A write of a core applied at its ordering point; the CXL pool is still to acknowledge one of tier X (R230). A store leaves the copy
that its own core's L1D holds up to date, and an atomic drops it (R124, R126). -/
def State.performWrite (s : State) (w : Write) : State :=
  let r := s.redirect w
  let t := r.2.putWrite r.1 (if w.now then none else some w.core)
  if regionOf w.pa = .cxl then { t with unacked := t.unacked ++ [w] } else t

/-- The parts of writes whose first units are applied at some lines are applied too: nothing comes between (R248). -/
def State.finishParts (s : State) (pa n : Nat) : State :=
  if s.wq.all fun w => !w.part then s
  else
    let hit := fun (w : Write) => w.part && overlaps (lineOf w.pa) 128 pa n
    (s.wq.filter hit).foldl State.performWrite { s with wq := s.wq.filter fun w => !hit w }

/-- A write that no core's queue carries, applied at its ordering point; the CXL pool is still to acknowledge one of tier X (R230,
R401). -/
def State.pokeAs (s : State) (w : Write) : State :=
  let t := (s.finishParts w.pa w.bytes.length).putWrite w none
  if regionOf w.pa = .cxl then { t with unacked := t.unacked ++ [w] } else t

/-- Bytes that an agent other than a hart writes. -/
def engineWrite (pa : Nat) (bs : List Byte) (unit : Nat) : Write :=
  ⟨0, 0, 0, .scalar, 0, false, pa, bs.map fun b => ⟨b, 0xFF⟩, unit, pa, pa + bs.length, 0, false, false, none, 0, none⟩

/-- A write of an agent other than a hart, applied at its ordering point (R401). -/
def State.poke (s : State) (pa : Nat) (bs : List Byte) (unit : Nat) : State := s.pokeAs (engineWrite pa bs unit)

/-- A write is one of a hart's own, in whatever slot the hart stood when it made it (R234, R314). -/
def Write.mine (w : Write) (h : Hart) : Bool := w.gang == BitVec.zeroExtend 64 h.gangid && w.hartix == h.hartix

/-- The row of a permuted element's write is locked for its commit (R263). -/
def State.rowLocked (s : State) (w : Write) : Bool :=
  match w.perm with
  | none => false
  | some (psd, row, _, _) => (s.setOf psd).any fun k => k.moves.any fun m => m.row == row && m.st == .locked

/-- Bytes that are reached in a slot of a Route only: those of the drawer, unless the LLC holds their line (R214, R226). -/
def State.overTrunk (s : State) (pa : Nat) : Bool := regionOf pa == .drawer && !s.inLlc pa

/-- A write whose request takes a place of its trunk: to its ordering point, the drawer, or for the line that the LLC is to hold (R214,
R226). An atomic or a permuted element waits for its request while it executes. -/
def State.needsSlot (s : State) (w : Write) : Bool := !w.now && s.overTrunk w.pa

/-- Of two queued writes the first comes first: writes of one core to one byte, and of one hart where its accesses are ordered or
overlap (R48, R125, R230, R235). -/
def Write.before (k w : Write) : Bool :=
  (k.core == w.core && overlaps k.pa k.bytes.length w.pa w.bytes.length) ||
    (k.gang == w.gang && k.hartix == w.hartix && k.cls == w.cls &&
      (w.ordered || overlaps k.pa k.bytes.length w.pa w.bytes.length))

/-- A queued write may be applied now: its trunk is up, or has answered its request already, no move of a page or of its row holds its
line, no request of its line waits at a slice or is to be sent again, no other write of its line is half applied, and no earlier queued
write comes before it (R226, R230, R248, R263, R295, R363, R364, R369). `parts` are the queued writes whose first units are applied. -/
def State.canApply (s : State) (earlier parts : List Write) (w : Write) : Bool :=
  ((w.now && w.perm.isNone) || (s.downTrunk w.pa).isNone) && !s.rowLocked w &&
    !(s.pageMoves.any fun m => overlaps m.old 65536 w.pa w.bytes.length) &&
    !(s.cacheable w.pa && s.sliceReqs.any fun r => r.core == w.core && r.write && overlaps r.line 128 w.pa w.bytes.length) &&
    !(parts.any fun k => k != w && overlaps (lineOf k.pa) 128 w.pa w.bytes.length) && !(earlier.any fun k => k.before w)

/-- A queued write may be applied now, and needs no slot of a trunk for it (R226). -/
def State.canPerform (s : State) (earlier parts : List Write) (w : Write) : Bool :=
  !s.needsSlot w && s.canApply earlier parts w

/-- Which of some writes, in their order, are needed: those that a predicate names, and those that come before one that is. -/
def neededBy (rel : Write → Write → Bool) (p : Write → Bool) : List Write → List Bool
  | [] => []
  | w :: r =>
    let f := neededBy rel p r
    (p w || (r.zip f).any fun e => e.2 && rel w e.1) :: f

/-- The queued writes that are flagged are performed in order, as far as they can be. -/
def drainFrom : List (Write × Bool) → List Write → List Write → State → State
  | [], kept, _, s => { s with wq := kept.reverse }
  | (w, n) :: r, kept, parts, s =>
    if n && s.canPerform kept parts w then drainFrom r kept (if w.part then parts.erase w else parts) (s.performWrite w)
    else drainFrom r (w :: kept) parts s

/-- The queued writes that a predicate names, and those that come before them, are performed in order, as far as they can be. -/
def State.drain (s : State) (p : Write → Bool) : State :=
  if !s.wq.any p then s
  else drainFrom (s.wq.zip (neededBy Write.before p s.wq)) [] (s.wq.filter fun w => w.part) s

/-- A write is accepted into its core's ordered write queue; a window's write is applied at its bank (R230, Table 2). -/
def State.accept (s : State) (w : Write) : State :=
  if (regionOf w.pa).isWindow && s.canPerform s.wq (s.wq.filter fun k => k.part) w then s.performWrite w
  else if w.now then
    { s with wq := s.wq ++ [{ w with since := s.cycle }] }.drain fun k => k.core == w.core && overlaps k.pa k.bytes.length w.pa w.bytes.length
  else { s with wq := s.wq ++ [{ w with since := s.cycle }] }

/-- An order holds a later write back until an earlier one is performed (R130). -/
def Order.holds (o : Order) (k w : Write) : Bool :=
  o.writes && k.seq < o.at_ && (if o.next then w.seq == o.at_ else o.at_ ≤ w.seq) && k.cls == o.before && w.cls == o.after

/-- Of two retired writes of a hart the first is accepted first: they are of one class and ordered or overlap, or an order says so
(R125, R130, R235, R237). -/
def comesFirst (os : List Order) (k w : Write) : Bool :=
  (k.cls == w.cls && (w.ordered || overlaps k.pa k.bytes.length w.pa w.bytes.length)) || os.any fun o => o.holds k w

/-- The writes of a hart that some orders name and that precede them. -/
def Order.names (os : List Order) (h : Hart) (w : Write) : Bool :=
  w.mine h && os.any fun o => w.seq < o.at_ && w.cls == o.before

/-- Every queued write that some orders of a hart name is performed, as far as it can be, and whether that is all of them, at SYSTEM
scope where an order asks for it (R130, R230). -/
def State.meet (s : State) (h : Hart) (os : List Order) : State × Bool :=
  let wide := os.filter fun o => o.wide
  if wide.isEmpty then (s, true)
  else
    let t := s.drain (Order.names wide h)
    (t, !t.wq.any (Order.names wide h) && !t.unacked.any (Order.names (wide.filter fun o => o.sys) h))

/-- The retired writes of a hart that are flagged are accepted in order, as far as its orders let them be; the others stay with it. -/
def acceptFrom (h : Hart) : List (Write × Bool) → List Write → State → List Write × State
  | [], kept, s => (kept.reverse, s)
  | (w, n) :: r, kept, s =>
    if n && !kept.any fun k => comesFirst h.orders k w then
      let q := s.meet h (h.orders.filter fun o => o.writes && o.at_ ≤ w.seq && o.after == w.cls)
      if q.2 then acceptFrom h r kept (q.1.accept w) else acceptFrom h r (w :: kept) q.1
    else acceptFrom h r (w :: kept) s

/-- The retired writes of a hart that a predicate names, and those that come before them, are accepted: the ones that stay with the hart,
and the state. -/
def State.acceptOf (s : State) (h : Hart) (p : Write → Bool) : List Write × State :=
  acceptFrom h (h.held.zip (neededBy (comesFirst h.orders) p h.held)) [] s

/-- The held writes of the current hart that a predicate names are accepted in order, with those that come before them (R230, R323). -/
def State.release (s : State) (p : Write → Bool) : State :=
  if !s.hart.held.any p then s
  else
    let r := s.acceptOf s.hart p
    { r.2 with hart := { r.2.hart with held := r.1 } }

/-- Writes of the current hart that a predicate names and that are still on their way. -/
def State.outstanding (s : State) (p : Write → Bool) : List Write :=
  (s.hart.held.filter p) ++ s.wq.filter fun w => w.mine s.hart && p w

/-- The hart's writes, made or held under REWIND, that precede an order and that it names are not all performed. -/
def State.orderLive (s : State) (o : Order) : Bool :=
  (s.hart.held ++ s.hart.rheld ++ s.conv.pend ++ (if o.wide then s.wq else []) ++ (if o.sys then s.unacked else [])).any
    (Order.names [o] s.hart)

/-- The current hart's accesses from now on are ordered after its earlier writes as some orders say (R130, R185, R237). -/
def State.order (s : State) (os : List Order) : State :=
  { s with hart := { s.hart with orders := s.hart.orders.filter s.orderLive ++ os.filter s.orderLive } }

/-- A byte as later writes leave it. -/
def overlay (ws : List Write) (pa : Nat) (b : Byte) : Byte :=
  ws.foldl (fun b w => if w.pa ≤ pa ∧ pa < w.pa + w.bytes.length then
    (match w.bytes[pa - w.pa]? with | some k => k.apply b | none => b) else b) b

/-- The writes that a read of a class by the current hart finds before memory: the core's queue, the hart's own held writes of
that class, and the writes held under REWIND (R230, R235, R382). -/
def State.ahead (s : State) (cls : Cls) : List Write :=
  (s.wq.filter fun w => w.core == s.hart.core) ++ (s.hart.held.filter fun w => w.cls == cls) ++ s.hart.rheld

/-- A byte as it stood before the writes of the convoy in execution: the earliest record of it counts (R171, R190). -/
def undone (us : List Undo) (cls : Cls) (pa : Nat) (b : Byte) : Byte :=
  match us.find? fun u => u.cls == cls && u.pa ≤ pa && pa < u.pa + u.bytes.length with
  | some u => u.bytes[pa - u.pa]?.getD b
  | none => b

/-- A byte as a read of a class by the current hart finds it. -/
def State.readByte (s : State) (cls : Cls) (pa : Nat) : Byte :=
  undone s.conv.undo cls pa (overlay (s.ahead cls) pa (Memory.get s.mem pa))

/-- n bytes as a read of a class by the current hart finds them. -/
def State.readBytes (s : State) (cls : Cls) (pa n : Nat) : List Byte :=
  let ws := (s.ahead cls).filter fun w => overlaps w.pa w.bytes.length pa n
  if ws.isEmpty && s.conv.undo.isEmpty then Memory.bytes s.mem pa n
  else (List.range n).map fun k => undone s.conv.undo cls (pa + k) (overlay ws (pa + k) (Memory.get s.mem (pa + k)))

/-- Some bytes as a core finds them in memory and in its queue (R230). -/
def State.coreBytes (s : State) (core pa n : Nat) : List Byte :=
  let ws := s.wq.filter fun w => w.core == core && overlaps w.pa w.bytes.length pa n
  (List.range n).map fun k => overlay ws (pa + k) (Memory.get s.mem (pa + k))

/-- A publication is the current hart's. -/
def Pub.mine (p : Pub) (h : Hart) : Bool := p.gang == BitVec.zeroExtend 64 h.gangid && p.hartix == h.hartix

/-- The outstanding publications of the current hart. -/
def State.ownPubs (s : State) : List Pub := s.pubs.filter fun p => p.mine s.hart

/-- The drawer requests that a hart's convoy made are withdrawn: no return of one reaches a later convoy. -/
def State.withdraw (s : State) (h : Hart) : State :=
  if s.trunks.toList.all fun t => t.waiting.isEmpty && t.flying.isEmpty && t.again.isEmpty then s
  else
    let keeps := fun (r : TrunkReq) => r.posted || !(r.gang == h.gangid && r.hartix == h.hartix)
    { s with trunks := s.trunks.map fun t => { t with
        waiting := t.waiting.filter keeps
        again := t.again.filter keeps
        flying := t.flying.filter fun f => keeps f.1 } }

/-! ### The error log and the event queue -/

/-- TIME: nanoseconds since module reset, at 1.75 cycles each (R4, R136). -/
def State.time (s : State) : Word := BitVec.ofNat 64 (s.cycle * 4 / 7)

/-- The hub die to which an HBM4E stack attaches, as a record names it (R9, R361). -/
def stackUnit (stack : Nat) : BitVec 8 := if stack < 4 then 4 else 5

/-- The die that holds the memory of a physical address, as a record names it (R361). -/
def unitOf (pa : Nat) : BitVec 8 :=
  match regionOf pa with
  | .hbm => stackUnit (Config.stackOf pa).toNat
  | .drawer => 7
  | .cxl => 6
  | .tcm n => BitVec.ofNat 8 (n / 96)
  | .csp c => BitVec.ofNat 8 (c / 12)
  | .serai d => BitVec.ofNat 8 d
  | .regs | .reserved => 6

/-- A record of the error log (R360, R361). -/
def State.log (s : State) (kind unit : BitVec 8) (aux16 : BitVec 16) (aux32 : BitVec 32) (addr extra : Word) : State :=
  if !s.elEn then s
  else if s.elHead - s.elTail = BitVec.ofNat 32 (2 ^ s.elLog2.toNat) then { s with elOvf := true }
  else
    let at_ := s.elBase.toNat + 32 * (s.elHead.toNat % 2 ^ s.elLog2.toNat)
    let bs := leBytes 8 (kind.toNat + 256 * unit.toNat + 65536 * aux16.toNat + 2 ^ 32 * aux32.toNat) ++
      leBytes 8 addr.toNat ++ leBytes 8 s.time.toNat ++ leBytes 8 extra.toNat
    { s.poke at_ bs 8 with elHead := s.elHead + 1 }

/-- The event queue of the mailbox takes a record, if it has room for it (R396). -/
def State.pushEvent (s : State) (kind : BitVec 8) (h : Hart) (tepc : Word) : State :=
  if 64 ≤ s.mbox.events.length then s
  else
    let r := leBytes 8 kind.toNat ++ leBytes 8 h.coreid.toNat ++ leBytes 8 h.gangid.toNat ++
      leBytes 8 (h.tcause.toNat + 2 ^ 32 * (tepc.toNat % 2 ^ 32))
    { s with mbox := { s.mbox with events := s.mbox.events ++ [r] } }

/-! ### Checkpoints (strip rewind) -/

/-- A checkpoint of the current hart with a resume address (R381). -/
def Hart.checkpoint (h : Hart) (pc : Word) (forced : Bool) : Check :=
  ⟨pc, h.x, h.vl, h.vtype, h.mvl, h.gmask, h.flags, h.psvlo, h.psvhi, h.rpc, h.rpcx, h.convoys, h.v, h.side, h.p, h.vcarry,
    h.pcarry, h.vdead, h.resume, forced, 0⟩

/-- The hart with a checkpoint of a state of it, with a resume address (R381). -/
def Hart.checkAt (h pre : Hart) (forced : Bool) : Hart :=
  { h with check := some (pre.checkpoint pre.pc forced), checkCarry := pre.carry }

/-- A forced checkpoint at the boundary before the convoy at pc: the held writes are released (R381 to R383). -/
def State.forceCheck (s : State) : State :=
  if s.hart.rewEn then
    { s with hart := { s.hart.checkAt s.hart true with
      held := s.hart.held ++ s.hart.rheld
      rheld := [] } }
  else s

/-- The registers of a group of LMUL registers named in VCARRY, or every register after a forced checkpoint. -/
def Check.keepsReg (c : Check) (r : Nat) : Bool :=
  let m := lmulOf c.vtype
  c.forced || c.vcarry.getLsbD (r / m * m)

/-- The hart as a checkpoint recorded it: vector state not recorded is undefined (R384). -/
def Hart.restore (h : Hart) (c : Check) (fresh : Nat) : Hart :=
  { h with
    pc := c.pc
    x := c.x
    vl := c.vl
    vtype := c.vtype
    mvl := c.mvl
    gmask := c.gmask
    flags := c.flags
    psvlo := c.psvlo
    psvhi := c.psvhi
    rpc := c.rpc
    rpcx := c.rpcx
    convoys := c.convoys
    vstart := 0
    vdead := c.vdead
    resume := c.resume
    v := Vector.ofFn fun (i : Fin 32) => if c.keepsReg i.val then c.v[i] else Config.freeVec (fresh + i.val)
    side := Vector.ofFn fun (i : Fin 32) => if c.keepsReg i.val then c.side[i] else Config.freeSide (fresh + i.val)
    p := Vector.ofFn fun (i : Fin 64) => if c.forced || c.pcarry.getLsbD i.val then c.p[i]
      else Config.freeVec (fresh + 32 + i.val)
    rheld := []
    rewCount := if h.rewCount = BitVec.allOnes 32 then h.rewCount else h.rewCount + 1
    check := some { c with taken := c.taken + 1 }
    carry := h.checkCarry
    got := []
    gathered := []
    status := .running
    pass := none
    retried := false }

/-- A record that a hart, by its slot and its gang, consumed poison (R361, kind 0x02). -/
def State.logConsumption (s : State) (id : Nat) (gang : BitVec 48) (line : Word) : State :=
  s.log 0x02 (BitVec.ofNat 8 (id / 4 / 96)) (BitVec.zeroExtend 16 (gang.extractLsb' 0 6)) (gang.extractLsb' 16 32) line (coreidOf id)

/-- A record that the hart consumed poison. -/
def State.logConsumed (s : State) (line : Word) : State := s.logConsumption s.hart.id s.hart.gangid line

/-- The consumption that a trap reports is logged; a poisoned publication was logged when it was performed, and is reported once
(R361, R402). -/
def State.noteConsumed (s : State) (t : Trap) : State :=
  if t.code != 0x10 then s
  else if t.pub then
    { s with pubs := s.pubs.filter fun p => !(p.mine s.hart && p.poisoned && BitVec.ofNat 64 (lineOf p.pa) == t.tval) }
  else s.logConsumed t.tval

/-- The L2 of a die drops its copy of a line, and with it the L1Ds of the die and the poison of that copy (R124, R219). -/
def State.dropL2 (s : State) (die line : Nat) : State :=
  { s with
    l1d := s.l1d.filter fun l => !(dieOf l.1 == die && overlaps l.2 64 line 128)
    l2 := s.l2.filter fun l => l != (die, line)
    poison := s.poison.filter fun u => !(u.2.2 == .l2 die && lineOf u.1 == line) }

/-- A strip rewind (R384): held writes go, the clean copies of the poisoned unit in L1D and L2 go, each with its line, and the hart
restarts from its checkpoint. -/
def State.rewind (s : State) (c : Check) (cause : Trap) : State :=
  let t := (s.noteConsumed cause).withdraw s.hart
  let t := (List.range 4).foldl (fun (t : State) d => t.dropL2 d cause.tval.toNat) t
  { t with
    hart := t.hart.restore c t.fresh
    fresh := t.fresh + 96
    conv := Convoy.fresh }

/-- The checkpoint that the hart rewinds to when a convoy of it that is no commit point consumes poison, if it may (R384). -/
def State.rewindTo (s : State) (t : Trap) : Option Check :=
  match s.hart.check with
  | some c =>
    if s.hart.rewEn && !t.commit && !s.conv.commit && !t.pub && t.code == 0x10 && c.taken < s.hart.rewLimit.toNat then some c else none
  | none => none

/-! ### Fetching instruction words -/

/-- What fetching an instruction word answers. -/
inductive Fetched where
  | word (w : BitVec 32)
  | trap (t : Trap)
  | wait (why : Why)

/-- A drawer line that the hart's convoy has no copy of yet: neither did its request for the line return, nor does the LLC hold the line,
as it may one of a private partition (R214, R226). -/
def State.unserved (s : State) (write : Bool) (pa : Nat) : Bool :=
  match regionOf pa with
  | .drawer =>
    let l := lineOf pa
    !(s.hart.got.contains (l, write) || s.inLlc pa)
  | .hbm | .cxl | .tcm _ | .csp _ | .serai _ | .regs | .reserved => false

/-- The word at a virtual address, as the hart fetches it: through the L1I line if the core holds one, else from its core's view
of memory (R120, R132, R287, R341). Device registers are no instruction memory. -/
def State.fetch (s : State) (va : Word) : Fetched :=
  match s.translate s.hart.core s.hart.ptbase s.hart.priv .fetch false va with
  | .fault code kind =>
    .trap ⟨if code = 0x06 then 0x05 else code, va, [⟨pageOf va, kind⟩], 0, false, false⟩
  | .poison u => .trap (Trap.plain 0x10 (BitVec.ofNat 64 (lineOf u)))
  | .blocked a => .wait (.trunk [lineOf a] false)
  | .held => .wait (.migration va)
  | .cow _ _ => .trap (Trap.plain 0x08 va)
  | .pa a _ =>
    match s.l1i.find? fun l => l.core == s.hart.core && l.pa == a / 64 * 64 with
    | some l => .word (BitVec.ofNat 32 (leNat ((l.bytes.drop (a % 64)).take 4)))
    | none =>
      if s.unserved false a then .wait (.trunk [lineOf a] false)
      else .word (BitVec.ofNat 32 (leNat (s.readBytes .scalar a 4)))

/-- The word at an address for the Waybill, 0 where it cannot be fetched. -/
def State.insnAt (s : State) (va : Word) : BitVec 32 :=
  match s.fetch va with
  | .word w => w
  | .trap _ | .wait _ => 0

/-! ### Taking a trap -/

/-- Set bits of a predicate. -/
def popPred (p : Pred) : Nat → Nat
  | 0 => 0
  | n + 1 => popPred p n + (if p.getLsbD n then 1 else 0)

/-- The page list of a Waybill: distinct pages in ascending order (R328). -/
def insertPage (p : Page) : List Page → List Page
  | [] => [p]
  | q :: r => if p.va.toNat < q.va.toNat then p :: q :: r else if p.va = q.va then q :: r else q :: insertPage p r

/-- The pages of a list, distinct and in ascending address. -/
def sortPages (ps : List Page) : List Page := ps.foldl (fun a p => insertPage p a) []

/-- An entry of the page list (R328). -/
def Page.entry (p : Page) : Word := pageOf p.va ||| BitVec.zeroExtend 64 p.kind

/-- The bytes of a Waybill (R328, Table 4). -/
def State.waybill (s : State) (t : Trap) (cpc : Word) (word : Nat) (wph : Bool) (epc : Word) : List Byte :=
  let ps := sortPages t.pages
  let n := min 64 ps.length
  let h := s.hart
  leBytes 4 (t.code.toNat + 256 * word + (if wph then 1024 else 0) + (if 64 < ps.length then 2048 else 0)) ++
    leBytes 4 n ++ leBytes 4 (popPred t.mask 8192) ++ leBytes 4 h.vl.toNat ++ leBytes 8 epc.toNat ++ leBytes 8 t.tval.toNat ++
    leBytes 8 h.vtype.toNat ++ leBytes 8 (s.insnAt (cpc + BitVec.ofNat 64 (4 * word))).toNat ++
    leBytes 8 h.lanesCsr.toNat ++ leBytes 8 (h.ptbase.extractLsb' 52 9).toNat ++ leBytes 1024 t.mask.toNat ++
    ((ps.take 64).map fun p => leBytes 8 p.entry.toNat).flatten ++ List.replicate (8 * (64 - n)) 0

/-- DBGCTL.SKIP is cleared as a convoy that could have matched retires or traps: one that began at privilege U with no trap in
progress (R398, R399; log entry 48). -/
def Hart.skipDone (pre h : Hart) : Hart := if pre.priv == .u && !pre.tip then { h with dbgctl := h.dbgctl &&& ~~~(8#57) } else h

/-- The trap CSRs and the mode after a trap is taken (R325, R326). -/
def Hart.enterTrap (h : Hart) (t : Trap) (word : Nat) (wph : Bool) (epc : Word) (resume : Option (BitVec 4)) : Hart :=
  { h with
    tepc := epc
    tval := t.tval
    tcause := BitVec.ofNat 11 (t.code.toNat + 256 * word + (if wph then 1024 else 0))
    tstatus := BitVec.ofBool true ++ (resume.getD 0) ++ BitVec.ofBool resume.isSome ++ BitVec.ofBool (h.priv == .s)
    priv := .s
    pc := h.tvec
    status := .running
    resume := none
    carry := Carry.none
    stash := if resume.isSome then (epc, h.carry) :: h.stash.filter (fun k => k.1 != epc) else h.stash
    got := []
    gathered := []
    due := none
    pass := none
    retried := false
    shrunk := false
    dbgctl := (Hart.skipDone h h).dbgctl }

/-- The hart stops at a double trap, and an event record of KIND 1 is queued (R327). -/
def State.doubleTrap (s : State) : State :=
  let t := s.pushEvent 1 s.hart s.hart.tepc
  { t with hart := { t.hart with status := .doubleTrap, resume := none, due := none, pass := none }, conv := Convoy.fresh }

/-- The delivery of a trap (R325, R327, R401): the writes of the core that overlap the Waybill reach their ordering points first, and the
hart waits while one of them cannot. -/
def State.deliver (s : State) (d : Due) : State :=
  let wb := s.hart.wbase.toNat
  let hit := fun (w : Write) => overlaps w.pa w.bytes.length wb 1600
  let q := (s.release hit).drain fun w => w.core == s.hart.core && hit w
  if q.hart.held.any hit || q.wq.any fun w => w.core == s.hart.core && hit w then
    { q with hart := { q.hart with due := some d, status := .waiting .writes s.cycle }, conv := Convoy.fresh }
  else
    let q := q.poke wb (q.waybill d.trap d.cpc d.word d.wph d.epc) 8
    let q := ({ q with hart := q.hart.enterTrap d.trap d.word d.wph d.epc d.resume, conv := Convoy.fresh } : State).withdraw q.hart
    match q.fetch q.hart.tvec with
    | .trap _ => q.doubleTrap
    | .word _ | .wait _ => q

/-- A trap is taken on the hart as the convoy leaves it (R325, R327): the Waybill is written at WBASE, the trap CSRs name the
cause, the status saves the privilege, and the hart continues at TVEC at privilege S. The state `s` is the one between the
trapping convoy and the one before it, or after the retired or suspended convoy; `cpc` is the address of the convoy. -/
def State.takeTrap (s : State) (t : Trap) (cpc : Word) (word : Nat) (wph : Bool) (epc : Word) (resume : Option (BitVec 4)) : State :=
  let s := s.forceCheck
  let s := s.noteConsumed t
  let wb := s.hart.wbase.toNat
  if s.hart.tip || regionOf wb != .hbm || regionOf (wb + 1599) != .hbm then s.doubleTrap
  else s.deliver ⟨t, cpc, word, wph, epc, resume⟩

/-- The order of the classes of causes when one convoy raises several (R324). -/
def causeRank (code : BitVec 8) : Nat :=
  match code.toNat with
  | 0x16 => 0
  | 0x01 => 1
  | 0x02 => 2
  | 0x13 => 3
  | 0x0A | 0x0B | 0x0C | 0x0D | 0x0F => 4
  | 0x03 | 0x04 => 5
  | 0x05 | 0x06 | 0x07 | 0x08 | 0x09 | 0x0E => 6
  | _ => 7

/-- A whole-instruction fault of the convoy at pc: the convoy is squashed and the trap taken, or the hart rewinds (R329, R384). -/
def State.squash (s : State) (t : Trap) (word : Nat) : State :=
  match s.rewindTo t with
  | some c => s.rewind c t
  | none =>
    { s with hart := { s.hart with vstart := 0 } }.takeTrap t s.hart.pc word false s.hart.pc none

/-! ### The end of a hart -/

/-- Bits 4k+1:4k of LPR and its valid bit: the slot that owns group k, if one does (R35). -/
def lprOwner (l : BitVec 16) (k : Nat) : Option Nat :=
  if l.getLsbD (4 * k + 2) then some (l.extractLsb' (4 * k) 2).toNat else none

/-- LPR with group k given to a slot. -/
def lprGive (l : BitVec 16) (k slot : Nat) : BitVec 16 :=
  (l &&& ~~~((15#16) <<< (4 * k))) ||| (BitVec.ofNat 16 (4 + slot) <<< (4 * k))

/-- LPR with group k free. -/
def lprFree (l : BitVec 16) (k : Nat) : BitVec 16 := l &&& ~~~((15#16) <<< (4 * k))

/-- The map of a core. -/
def State.lprOf (s : State) (core : Nat) : BitVec 16 := s.lpr[core]?.getD 0

/-- The state with the map of a core replaced. -/
def State.setLpr (s : State) (core : Nat) (l : BitVec 16) : State := { s with lpr := s.lpr.setIfInBounds core l }

/-- The groups of a core that LPR gives a slot are freed (R38). -/
def State.freeGroups (s : State) (core slot : Nat) : State :=
  let ks := (List.range 4).filter fun k => lprOwner (s.lprOf core) k == some slot
  { s.setLpr core (ks.foldl lprFree (s.lprOf core)) with
    relPend := s.relPend.filter fun n => !ks.any fun k => n == 4 * core + k }

/-- The gang of an identity. -/
def State.gangOf (s : State) (id : BitVec 48) : Option Gang := s.gangs.find? fun g => g.id == id

/-- The state with a gang changed. -/
def State.onGang (s : State) (id : BitVec 48) (f : Gang → Gang) : State :=
  { s with gangs := s.gangs.map fun g => if g.id = id then f g else g }

/-- The sets that stay active: those that a slot of some hart binds, or that a reorder of runs (R253). DESIGN CHOICE: a set whose last
commit is done and whose old rows still forward stays active until that ends (log entry 78). -/
def State.pruneSets (s : State) : State :=
  let bound := (s.harts ++ s.swapped.map fun k => k.keep).flatMap fun h => h.slots.toList.filterMap fun p => p.psd
  let live := s.sets.filter fun k => bound.contains k.psd || k.reorder != .none || !k.moves.isEmpty
  { s with sets := live, ptc := s.ptc.filter fun e => live.any fun k => k.psd == e.psd }

/-- The held writes of a hart that ends are accepted as far as its orders let them be, and the others go on without it (R307, R336,
R344). -/
def State.keepEnded (s : State) (h : Hart) : State :=
  let r := s.acceptOf h fun _ => true
  if r.1.isEmpty then r.2 else { r.2 with ended := r.2.ended ++ [{ h with status := .gone, held := r.1, rheld := [] }] }

/-- The current hart leaves its slot at exit (R307): its writes go on, those its core does not accept yet without it (R344), its drops are
outstanding, its groups are free, and the gang's record takes its flags and its RPCX (R305). -/
def State.leave (s : State) : State :=
  let h := s.hart
  let s := s.keepEnded h
  let s := s.onGang h.gangid fun g => { g with
    exited := g.exited + 1
    cores := g.cores ++ h.cores
    flags := g.flags ||| h.flags.extractLsb' 0 7
    rpcx := g.rpcx + h.rpcx }
  let drops := (List.range 16).map fun b => (⟨h.gangid, h.hartix, h.cores, b⟩ : ExitDrop)
  let s := { s with
    exitDrops := s.exitDrops ++ drops
    pubs := s.pubs.filter fun p => !(p.mine h && p.poisoned)
    hart := { s.hart with status := .gone, held := [], rheld := [] } }
  ((s.freeGroups h.core h.slot).pruneSets).rotate

/-! ### Retirement -/

/-- Counts a tile in the replay counters (R208). -/
def Hart.countTile (h : Hart) (t : Nat × Bool) : Hart :=
  { h with
    rpc := h.rpc.setIfInBounds t.1 ((h.rpc[t.1]?.getD 0) + 1)
    rpcx := if t.2 then h.rpcx + 1 else h.rpcx
    flags := if t.2 then h.flags ||| 0x40 else h.flags }

/-- The lowest and the highest of some versions (R268). -/
def versionBounds : List Word → Option (Word × Word)
  | [] => none
  | v :: r =>
    match versionBounds r with
    | none => some (v, v)
    | some (lo, hi) => some (if v.toNat < lo.toNat then v else lo, if hi.toNat < v.toNat then v else hi)

/-- The bytes of writes. -/
def writeBytes (ws : List Write) : Nat := ws.foldl (fun n w => n + w.bytes.length) 0

/-- The registers after the convoy's retirement (R74, R136, R208, R268, R331). -/
def Hart.retired (h : Hart) (c : Convoy) (next : Word) : Hart :=
  let h := c.tiles.foldl Hart.countTile h
  let resumed := h.resume.any fun r => !r.soft
  { h with
    pc := next
    convoys := h.convoys + 1
    flags := h.flags ||| BitVec.zeroExtend 10 c.fx
    psvlo := match versionBounds c.vers with | some b => b.1 | none => h.psvlo
    psvhi := match versionBounds c.vers with | some b => b.2 | none => h.psvhi
    vstart := if resumed then 0 else h.vstart
    tstatus := if resumed then h.tstatus &&& 0x41 else h.tstatus
    status := c.final.getD .running
    resume := c.cont
    carry := if c.cont.isSome then ((h.stash.find? fun k => k.1 == next).map fun k => k.2).getD Carry.none else Carry.none
    stash := if c.cont.isSome then h.stash.filter fun k => k.1 != next else h.stash
    got := []
    gathered := []
    pass := none
    retried := false
    shrunk := false
    arrived := none }

/-- Where the writes of a retiring convoy go: to the hart's held writes, or to those held under REWIND until the next checkpoint
(R382, R383). -/
def Hart.keepWrites (pre h : Hart) (c : Convoy) : Hart :=
  if !h.rewEn && !pre.rewEn then { h with held := h.held ++ c.pend }
  else if c.commit || c.strip || 65536 < writeBytes c.pend then
    { (if h.rewEn then h.checkAt h (c.commit || !c.strip) else { h with check := none }) with
      held := h.held ++ h.rheld ++ c.pend
      rheld := [] }
  else if 65536 < writeBytes (h.rheld ++ c.pend) then
    { h.checkAt pre true with held := h.held ++ h.rheld, rheld := c.pend }
  else { h with rheld := h.rheld ++ c.pend }

/-- The sample counter of a slot after a recorded gather (R257). -/
def Hart.countSample (h : Hart) (slot : Nat) : Hart :=
  { h with slots := h.slots.setIfInBounds slot (let p := h.slots[slot]?.getD PSlot.unbound; { p with count := p.count + 1 }) }

/-- The rows that the gather of a convoy recorded, brought together from its element steps: distinct ones at their first appearance, up to
64 (R257, R400). A convoy holds one gather at most (R29). -/
def mergeSamples : List (Nat × List Nat) → Option (Nat × List Nat)
  | [] => none
  | e :: r => some (e.1, (((e :: r).flatMap fun k => k.2).foldl (fun a l => if a.contains l then a else a ++ [l]) []).take 64)

/-- A recorded gather is offered to its slot's recorder at retirement: the counter advances, and the list is taken where it stood
at a multiple of 2^s (R257). -/
def State.recordSample (s : State) (k : Nat × List Nat) : State :=
  let p := s.hart.slots[k.1]?.getD PSlot.unbound
  let t := { s with hart := s.hart.countSample k.1 }
  match p.psd, p.exp with
  | some d, some e =>
    match s.setOf d with
    | some j =>
      if p.count.toNat % 2 ^ e.toNat = 0 ∧ j.sketch ≠ 0 then
        { t with samples := t.samples ++ [⟨s.hart.gangid, s.hart.hartix, k.1, j, k.2⟩] }
      else t
    | none => t
  | _, _ => t

/-- Effects of a retired convoy that other agents make later: hotness additions, recorded lists and publications (R143, R257,
R292). -/
def State.retireLater (s : State) (c : Convoy) : State :=
  let t := match mergeSamples c.samples with | some k => s.recordSample k | none => s
  { t with
    hotPend := t.hotPend ++ c.hot
    pubs := t.pubs ++ c.pubs.map fun k =>
      ⟨t.hart.id, BitVec.zeroExtend 64 t.hart.gangid, t.hart.hartix, t.hart.seq, t.hart.cores, k.1, k.2.1, t.hart.route,
        k.2.2, false, t.cycle⟩ }

/-- A convoy step is due: STEP is 1 at privilege U with no trap in progress (R399). -/
def Hart.stepping (h : Hart) (n : Nat) : Bool :=
  h.priv == .u && !h.tip && (h.dbgctl.extractLsb' 0 2).toNat == n

/-- The convoy of the current hart retires (R323, R399): `pre` is the hart before it. -/
def State.retire (s : State) (pre : Hart) : State :=
  let c := s.conv
  let next := c.npc.getD (s.hart.pc + BitVec.ofNat 64 (4 * c.len))
  let h := Hart.keepWrites pre (Hart.skipDone pre (s.hart.retired c next)) c
  let t := ({ s with hart := h, conv := Convoy.fresh }.retireLater c).release fun w => w.now
  -- the Waybill of a trap that follows takes the instruction word from the lines that the convoy was fetched from
  let q := { t with hart := { t.hart with got := s.hart.got } }
  if h.status = .gone then t.leave
  else
    match c.after with
    | some k => q.takeTrap k s.hart.pc (c.len - 1) false next none
    | none => if pre.stepping 1 then q.takeTrap (Trap.plain 0x16 1) s.hart.pc 0 false next none else t

/-! ### The end of a word -/

/-- A word is complete: a convoy of one word retires; the words of a longer one are brought together by `runConvoy`. -/
def State.endWord (s : State) (pre : Hart) : State := if s.conv.len = 1 then s.retire pre else s

/-- The registers of a convoy that stops part way: FLAGS takes what its performed parts raised (R330), and its writes are held under REWIND
as those of a retired convoy would be (R382, R383). -/
def Hart.partly (h : Hart) (c : Convoy) : Hart :=
  let h := { h with flags := h.flags ||| BitVec.zeroExtend 10 c.fx }
  if h.rewEn && !c.commit then { h with rheld := h.rheld ++ c.pend }
  else { h with held := h.held ++ h.rheld ++ c.pend, rheld := [] }

/-- What a convoy that stops part way leaves for its retirement (R87, R143, R208, R257, R268, R292, R307, R334). -/
def Convoy.left (c : Convoy) (begun : Bool) : Carry :=
  ⟨c.hot, c.samples, c.pubs, c.vers, c.tiles, c.npc, c.after, c.final, c.cont, c.base, begun, c.filled, c.strip, c.commit, c.undo⟩

/-- The registers of a suspended convoy: p63 and VSTART name the rest (R330); `begun` says that the word it stopped in has begun. -/
def Hart.suspended (h : Hart) (c : Convoy) (rest : Pred) (begun : Bool) : Hart :=
  let rest := rest &&& BitVec.ofNat 8192 (2 ^ h.vl.toNat - 1)
  let low := ((List.range 8192).find? fun k => rest.getLsbD k).getD 0
  { h.partly c with
    p := h.p.set 63 rest
    vstart := BitVec.ofNat 14 low
    carry := c.left begun
    gathered := [] }

/-- The resumption of a convoy that waits part way without a trap (R131, R308, R333): `done` names its complete words. -/
def Hart.waitPart (h : Hart) (done : BitVec 4) (word : Nat) (rest : Pred) : Resume :=
  ⟨done, word, rest, (h.resume.map fun r => r.soft).getD true, true⟩

/-- A cause struck a convoy in its write phase: the convoy is suspended and the trap taken, or the hart rewinds (R330, R384). A
debug event has no mask of its own in the Waybill (R328). -/
def State.suspendAt (s : State) (t : Trap) (word : Nat) (rest : Pred) (cvd : BitVec 4) : State :=
  match s.rewindTo t with
  | some c => s.rewind c t
  | none =>
    let wph := t.code != 0x16
    let q := ({ s with hart := s.hart.suspended s.conv rest (wph || s.conv.begun) } : State).release fun w => w.now
    q.takeTrap { t with mask := if wph then rest else 0 } q.hart.pc word wph q.hart.pc (some cvd)

/-- The write phase of a convoy waits at a word with some elements left: the hart waits, and its convoy goes on there; `done` names the
words that are complete (R333). -/
def State.pauseAt (s : State) (why : Why) (word : Nat) (rest : Pred) (done : BitVec 4) : State :=
  let h := s.hart.partly s.conv
  { s with
    hart := { h with
      status := .waiting why s.cycle
      resume := some (h.waitPart done word rest)
      carry := s.conv.left true
      got := [] }
    conv := Convoy.fresh }.release fun w => w.now

/-- A word raised a cause: a convoy of one word traps at once, a longer one goes on to find the causes of its other words
(R324, R339). A cause that strikes the word that a suspension left suspends it again with the elements it had left (R330). -/
def State.raise (s : State) (t : Trap) : State :=
  if s.conv.len = 1 then
    match s.conv.only with
    | some k => if s.conv.wph then s.suspendAt t 0 k.2 0 else s.squash t 0
    | none => s.squash t 0
  else { s with conv := { s.conv with traps := s.conv.traps ++ [(s.conv.idx, t)] } }

/-- The cycle since which the hart waits. -/
def State.waitSince (s : State) (why : Why) : Nat :=
  match s.hart.status with
  | .waiting w c => if w = why then c else s.cycle
  | .running | .halted | .doubleTrap | .gone => s.cycle

/-- Cached translations that a predicate names are dropped in every core (R288). -/
def State.dropTlb (s : State) (p : Tlb → Bool) : State := { s with tlb := s.tlb.filter fun t => !p t }

/-- A translation maps a virtual address. -/
def Tlb.maps (t : Tlb) (va : Word) : Bool := t.va.toNat / 2 ^ t.lg == va.toNat / 2 ^ t.lg

/-- The hart between two passes of a matrix instruction without the translations made with an entry: its next pass makes them anew (R288,
R291). -/
def Hart.unpin (h : Hart) (at_ : Nat) : Hart :=
  { h with pass := h.pass.map fun p => { p with pins := p.pins.filter fun k => k.at_ != at_ } }

/-- An entry written by hardware, and its translations dropped in every core and under every ASID (R288, R291, R294). -/
def State.writePte (s : State) (at_ : Nat) (e : Word) : State :=
  let t := (s.poke at_ (leBytes 8 e.toNat) 8).dropTlb fun t => t.at_ == at_
  { t with hart := t.hart.unpin at_, others := t.others.map fun h => h.unpin at_ }

/-- The held writes of a hart that has exited, accepted as far as its orders let them be: the hart goes once none is left (R307). -/
def State.releaseEnded (s : State) (p : Write → Bool) : State :=
  (s.ended.filter fun h => h.held.any p).foldl (fun (t : State) h =>
    let r := t.acceptOf h p
    let left := r.2.ended.map fun k => if k.gangid = h.gangid ∧ k.hartix = h.hartix then { k with held := r.1 } else k
    { r.2 with ended := left.filter fun k => !k.held.isEmpty }) s

/-- The held writes of every hart that a predicate names, and those that come before them, are accepted into their cores' queues, as far
as their orders let them be. -/
def State.releaseEverywhere (s : State) (p : Write → Bool) : State :=
  (((s.hart :: s.others).filter fun h => h.held.any p).foldl (fun (t : State) h =>
    let r := t.acceptOf h p
    r.2.onHart h.id fun h => { h with held := r.1 }) s).releaseEnded p

/-- A held or queued write, or a publication on its way, that meets some bytes, of whatever hart (R294). -/
def State.onItsWay (s : State) (pa n : Nat) : Bool :=
  let hit := fun (w : Write) => overlaps pa n w.pa w.bytes.length
  s.wq.any hit || (s.hart :: s.others ++ s.ended).any (fun h => h.held.any hit) ||
    s.pubs.any fun p => !p.poisoned && overlaps pa n p.pa 8

/-- A drawer request of the current hart reaches its trunk, unless it is there already or on its way back (R226, R333). -/
def State.request (s : State) (pa : Nat) (write : Bool) : State :=
  let h := s.hart
  let same := fun (r : TrunkReq) => !r.posted && r.gang == h.gangid && r.hartix == h.hartix && r.write == write && r.line == lineOf pa
  { s with trunks := s.trunks.mapFinIdx fun i t _ =>
      if i ≠ trunkOf pa ∨ t.waiting.any same ∨ t.again.any same ∨ t.flying.any fun f => same f.1 then t
      else { t with waiting := t.waiting ++ [⟨h.gangid, h.hartix, h.route, lineOf pa, write, s.cycle, false, 0⟩] } }

/-- The first line of a moving page, old or new, whose trunk carries nothing (R371). -/
def State.moveBlocked (s : State) (old new : Nat) : Option Nat :=
  if s.trunks.toList.all fun t => t.st == .up then none
  else ((List.range 512).flatMap fun k => [old + 128 * k, new + 128 * k]).find? fun a => (s.downTrunk a).isSome

/-- What begins with a wait: the requests for drawer lines (R226), and pgmove's marking of its page, once the accesses translated before
are performed (R294). -/
def State.beginWait (s : State) (why : Why) : State :=
  match why with
  | .move va at_ e new =>
    let old := ptePa e
    let hit := fun (w : Write) => overlaps old 65536 w.pa w.bytes.length
    let t := (s.releaseEverywhere hit).drain hit
    let t := t.writePte at_ (e ||| 0x80)
    { t with pageMoves := t.pageMoves ++ [⟨t.hart.id, t.hart.ptbase, va, at_, e, old, new, (t.moveBlocked old new).map fun a => (a, t.cycle)⟩] }
  | .trunk lines write => lines.foldl (fun (t : State) a => t.request a write) s
  | .watermark lines => lines.foldl (fun (t : State) a => t.request a false) s
  | .lanes _ | .handover | .watch | .version | .sketch | .barrier | .push | .pop | .writes | .accept
  | .migration _ | .otherMove | .row => s

/-- What begins with a wait, unless the hart waits for the same already. -/
def State.enterWait (s : State) (why : Why) : State :=
  if (match s.hart.status with | .waiting w _ => w == why | .running | .halted | .doubleTrap | .gone => false) then s
  else s.beginWait why

/-- The hart waits at its convoy, since now or since it began to wait for the same. -/
def State.waitNow (s : State) (why : Why) : State :=
  let t := s.enterWait why
  { t with hart := { t.hart with status := .waiting why (s.waitSince why) } }

/-- The hart waits at a word of its convoy, which has done its part, or for which the words before it are not to execute again; `done`
names the words that are complete (R131, R139, R308). -/
def State.holdOn (s : State) (done : BitVec 4) (word : Nat) (why : Why) : State :=
  let c := s.conv
  let t := s.enterWait why
  let h := t.hart.partly c
  let resume := if done = 0 ∧ h.resume.isNone then none else some (h.waitPart done word (BitVec.allOnes 8192))
  { t with
    hart := { h with status := .waiting why (s.waitSince why), resume := resume, carry := c.left c.begun }
    conv := Convoy.fresh }.release fun w => w.now

/-- A word cannot complete: the hart waits at its convoy. -/
def State.waitOn (s : State) (why : Why) : State :=
  if s.conv.len = 1 then s.waitNow why
  else
    { s with conv := { s.conv with wait := some (s.conv.wait.getD why) } }

/-- The pass named is the next one of the current hart's matrix instruction: it reads the lines that modules share anew (R198, R205). -/
def State.setPass (s : State) (p : Pass) : State :=
  { s with hart := { s.hart with pass := some p, got := s.hart.got.filter fun g => !s.sharedPa g.1 }, conv := Convoy.fresh }

/-- The pass named is the next one of the convoy's matrix instruction (R205). -/
def State.nextPass (s : State) (p : Pass) : State :=
  if s.conv.len = 1 then s.setPass p
  else { s with conv := { s.conv with nextPass := some p } }

/-- The end of a word: what its answer does to the convoy. `pre` is the state the word executed in. -/
def State.finish (pre : State) : Res → Out
  | .ok s => .next (s.endWord pre.hart)
  | .trap t => .next (pre.raise t)
  | .wait w => .next (pre.waitOn w)
  | .replay p => .next (pre.nextPass p)
  | .hold s w => .next (if pre.conv.len = 1 then s.holdOn 0 0 w else { s with conv := { s.conv with hold := some (pre.conv.idx, w) } })
  | .susp s t rest =>
    .next (if pre.conv.len = 1 then s.suspendAt t 0 rest 0
      else { s with conv := { s.conv with susp := some (pre.conv.idx, t, rest) } })
  | .pause s w rest =>
    .next (if pre.conv.len = 1 then (s.beginWait w).pauseAt w 0 rest 0
      else { s with conv := { s.conv with pause := some (pre.conv.idx, w, rest) } })
  | .keep g w => .next ({ pre with hart := { pre.hart with gathered := g } }.waitOn w)

/-- The answer comes from a commit point (R383). -/
def Res.commits : Res → Bool
  | .ok s | .hold s _ | .susp s _ _ | .pause s _ _ => s.conv.commit
  | .trap t => t.commit
  | .wait (.move _ _ _ _) => true
  | .wait _ | .replay _ | .keep _ _ => false

/-- A forced checkpoint comes before a convoy that is a commit point, and before one whose writes would overflow the buffer of held writes
(R382, R383). -/
def State.checksFirst (s : State) (commits : Bool) (pend : List Write) : Bool :=
  s.hart.rewEn && (commits || 65536 < writeBytes (s.hart.rheld ++ pend))

/-- The writes that an answer leaves to its convoy. -/
def Res.pend : Res → List Write
  | .ok s | .hold s _ | .susp s _ _ | .pause s _ _ => s.conv.pend
  | .trap _ | .wait _ | .replay _ | .keep _ _ => []

/-- A word's meaning: the effect on the state it executes in, and the end of the word. A convoy of one word that is a commit
point executes after the forced checkpoint at the boundary before it (R383). -/
def State.word (s : State) (f : State → Res) : Out :=
  if s.conv.len = 1 && s.checksFirst (s.conv.commit || (f s).commits) (f s).pend then s.forceCheck.finish (f s.forceCheck)
  else s.finish (f s)

/-- The current convoy with some flags raised (R74). -/
def State.flag (s : State) (fx : BitVec 7) : State := { s with conv := { s.conv with fx := s.conv.fx ||| fx } }

/-- The convoy is a commit point (R383). -/
def State.commit (s : State) : State := { s with conv := { s.conv with commit := true } }

/-- A trap of a commit point (R384). -/
def Res.committing : Res → Res
  | .ok s => .ok s.commit
  | .trap t => .trap { t with commit := true }
  | .wait w => .wait w
  | .replay p => .replay p
  | .hold s w => .hold s.commit w
  | .susp s t m => .susp s.commit { t with commit := true } m
  | .pause s w m => .pause s.commit w m
  | .keep g w => .keep g w

end Sys2Proof.Machine
end

