-- ==== Sys2Proof/Machine/ScalarAlu.lean ====
section
/-! DEFINITION. Scalar integer arithmetic and constants: MAJ 1, 2 and 3 (R114 to R118, R85). -/

namespace Sys2Proof.Machine

/-- The shift amount b[5:0] (R116). -/
def amount (b : Word) : Nat := (b.setWidth 6).toNat

/-- 1 or 0. -/
def bit (b : Bool) : Word := if b then 1 else 0

/-- SEXT(imm13, 13) (R118). -/
def imm (i : BitVec 13) : Word := i.signExtend 64

/-- Bits 127 to 64 of the signed product (R116). -/
def mulHighS (a b : Word) : Word := ((a.signExtend 128) * (b.signExtend 128)).extractLsb' 64 64

/-- Bits 127 to 64 of the unsigned product (R116). -/
def mulHighU (a b : Word) : Word := ((a.setWidth 128) * (b.setWidth 128)).extractLsb' 64 64

/-- The signed quotient, truncated toward zero; −1 for a divisor of 0, −2^63 for −2^63 by −1 (R117). -/
def divS (a b : Word) : Word := if b = 0 then BitVec.allOnes 64 else a.sdiv b

/-- The signed remainder, with the sign of the dividend; a for a divisor of 0 (R117). -/
def remS (a b : Word) : Word := if b = 0 then a else a.srem b

/-- The unsigned quotient; all ones for a divisor of 0 (R117). -/
def divU (a b : Word) : Word := if b = 0 then BitVec.allOnes 64 else a / b

/-- The unsigned remainder; a for a divisor of 0 (R117). -/
def remU (a b : Word) : Word := if b = 0 then a else a % b

/-- Leading zero bits (R116). -/
def leadingZeros (a : Word) : Word :=
  BitVec.ofNat 64 (((List.range 64).find? fun k => a.getLsbD (63 - k)).getD 64)

/-- Trailing zero bits (R116). -/
def trailingZeros (a : Word) : Word := BitVec.ofNat 64 (((List.range 64).find? fun k => a.getLsbD k).getD 64)

/-- One bits (R116). -/
def oneBits (a : Word) : Word := BitVec.ofNat 64 ((List.range 64).countP fun k => a.getLsbD k)

/-- A word that writes one scalar register and does nothing else (R114). -/
def State.result (s : State) (d : BitVec 5) (v : State → Word) : Out := s.word fun s => .ok (s.setX d (v s))

/-! ### MAJ 1 -/

/-- Addition (R116). -/
def execAdd (d a b : BitVec 5) (s : State) : Out := s.result d fun s => s.x a + s.x b

/-- Subtraction (R116). -/
def execSub (d a b : BitVec 5) (s : State) : Out := s.result d fun s => s.x a - s.x b

/-- Bitwise and (R116). -/
def execAnd (d a b : BitVec 5) (s : State) : Out := s.result d fun s => s.x a &&& s.x b

/-- Bitwise or (R116). -/
def execOr (d a b : BitVec 5) (s : State) : Out := s.result d fun s => s.x a ||| s.x b

/-- Bitwise exclusive or (R116). -/
def execXor (d a b : BitVec 5) (s : State) : Out := s.result d fun s => s.x a ^^^ s.x b

/-- And with the complement (R116). -/
def execAndn (d a b : BitVec 5) (s : State) : Out := s.result d fun s => s.x a &&& ~~~s.x b

/-- Or with the complement (R116). -/
def execOrn (d a b : BitVec 5) (s : State) : Out := s.result d fun s => s.x a ||| ~~~s.x b

/-- Shift left by b[5:0] (R116). -/
def execSll (d a b : BitVec 5) (s : State) : Out := s.result d fun s => s.x a <<< amount (s.x b)

/-- Logical shift right by b[5:0] (R116). -/
def execSrl (d a b : BitVec 5) (s : State) : Out := s.result d fun s => s.x a >>> amount (s.x b)

/-- Arithmetic shift right by b[5:0] (R116). -/
def execSra (d a b : BitVec 5) (s : State) : Out := s.result d fun s => (s.x a).sshiftRight (amount (s.x b))

/-- Rotation left by b[5:0] (R116). -/
def execRotl (d a b : BitVec 5) (s : State) : Out := s.result d fun s => (s.x a).rotateLeft (amount (s.x b))

/-- Rotation right by b[5:0] (R116). -/
def execRotr (d a b : BitVec 5) (s : State) : Out := s.result d fun s => (s.x a).rotateRight (amount (s.x b))

/-- 1 where a < b, signed (R116). -/
def execSlt (d a b : BitVec 5) (s : State) : Out := s.result d fun s => bit ((s.x a).slt (s.x b))

/-- 1 where a < b, unsigned (R116). -/
def execSltu (d a b : BitVec 5) (s : State) : Out := s.result d fun s => bit ((s.x a).ult (s.x b))

/-- The smaller, signed (R116). -/
def execMin (d a b : BitVec 5) (s : State) : Out := s.result d fun s => if (s.x a).slt (s.x b) then s.x a else s.x b

/-- The larger, signed (R116). -/
def execMax (d a b : BitVec 5) (s : State) : Out := s.result d fun s => if (s.x a).slt (s.x b) then s.x b else s.x a

/-- The smaller, unsigned (R116). -/
def execMinu (d a b : BitVec 5) (s : State) : Out := s.result d fun s => if (s.x a).ult (s.x b) then s.x a else s.x b

/-- The larger, unsigned (R116). -/
def execMaxu (d a b : BitVec 5) (s : State) : Out := s.result d fun s => if (s.x a).ult (s.x b) then s.x b else s.x a

/-- Low 64 bits of the product (R116). -/
def execMul (d a b : BitVec 5) (s : State) : Out := s.result d fun s => s.x a * s.x b

/-- Bits 127 to 64 of the signed product (R116). -/
def execMulh (d a b : BitVec 5) (s : State) : Out := s.result d fun s => mulHighS (s.x a) (s.x b)

/-- Bits 127 to 64 of the unsigned product (R116). -/
def execMulhu (d a b : BitVec 5) (s : State) : Out := s.result d fun s => mulHighU (s.x a) (s.x b)

/-- Signed quotient (R117). -/
def execDiv (d a b : BitVec 5) (s : State) : Out := s.result d fun s => divS (s.x a) (s.x b)

/-- Unsigned quotient (R117). -/
def execDivu (d a b : BitVec 5) (s : State) : Out := s.result d fun s => divU (s.x a) (s.x b)

/-- Signed remainder (R117). -/
def execRem (d a b : BitVec 5) (s : State) : Out := s.result d fun s => remS (s.x a) (s.x b)

/-- Unsigned remainder (R117). -/
def execRemu (d a b : BitVec 5) (s : State) : Out := s.result d fun s => remU (s.x a) (s.x b)

/-- Leading zero bits; 64 for 0 (R116). -/
def execClz (d a : BitVec 5) (s : State) : Out := s.result d fun s => leadingZeros (s.x a)

/-- Trailing zero bits; 64 for 0 (R116). -/
def execCtz (d a : BitVec 5) (s : State) : Out := s.result d fun s => trailingZeros (s.x a)

/-- Number of one bits (R116). -/
def execPopc (d a : BitVec 5) (s : State) : Out := s.result d fun s => oneBits (s.x a)

/-- Sign extension of the low byte (R116). -/
def execSextb (d a : BitVec 5) (s : State) : Out := s.result d fun s => ((s.x a).setWidth 8).signExtend 64

/-- Sign extension of the low 16 bits (R116). -/
def execSexth (d a : BitVec 5) (s : State) : Out := s.result d fun s => ((s.x a).setWidth 16).signExtend 64

/-- Sign extension of the low 32 bits (R116). -/
def execSextw (d a : BitVec 5) (s : State) : Out := s.result d fun s => ((s.x a).setWidth 32).signExtend 64

/-- Zero extension of the low 32 bits (R116). -/
def execZextw (d a : BitVec 5) (s : State) : Out := s.result d fun s => ((s.x a).setWidth 32).setWidth 64

/-! ### MAJ 2 -/

/-- Addition of the sign-extended immediate (R118). -/
def execAddi (d a : BitVec 5) (i : BitVec 13) (s : State) : Out := s.result d fun s => s.x a + imm i

/-- And with the sign-extended immediate (R118). -/
def execAndi (d a : BitVec 5) (i : BitVec 13) (s : State) : Out := s.result d fun s => s.x a &&& imm i

/-- Or with the zero-extended immediate (R118). -/
def execOri (d a : BitVec 5) (i : BitVec 13) (s : State) : Out := s.result d fun s => s.x a ||| i.setWidth 64

/-- Exclusive or with the sign-extended immediate (R118). -/
def execXori (d a : BitVec 5) (i : BitVec 13) (s : State) : Out := s.result d fun s => s.x a ^^^ imm i

/-- 1 where a < i, signed (R118). -/
def execSlti (d a : BitVec 5) (i : BitVec 13) (s : State) : Out := s.result d fun s => bit ((s.x a).slt (imm i))

/-- 1 where a < i, unsigned, i sign-extended before (R118). -/
def execSltiu (d a : BitVec 5) (i : BitVec 13) (s : State) : Out := s.result d fun s => bit ((s.x a).ult (imm i))

/-- Low 64 bits of the product with the immediate (R118). -/
def execMuli (d a : BitVec 5) (i : BitVec 13) (s : State) : Out := s.result d fun s => s.x a * imm i

/-- Shift left by an immediate amount (R118). -/
def execSlli (d a : BitVec 5) (n : BitVec 6) (s : State) : Out := s.result d fun s => s.x a <<< n.toNat

/-- Logical shift right by an immediate amount (R118). -/
def execSrli (d a : BitVec 5) (n : BitVec 6) (s : State) : Out := s.result d fun s => s.x a >>> n.toNat

/-- Arithmetic shift right by an immediate amount (R118). -/
def execSrai (d a : BitVec 5) (n : BitVec 6) (s : State) : Out := s.result d fun s => (s.x a).sshiftRight n.toNat

/-! ### MAJ 3 -/

/-- SEXT(imm20, 20) (R85). -/
def execMovi (d : BitVec 5) (i : BitVec 20) (s : State) : Out := s.result d fun _ => i.signExtend 64

/-- SEXT(imm20, 20) shifted left by 12 (R85). -/
def execMovh (d : BitVec 5) (i : BitVec 20) (s : State) : Out := s.result d fun _ => i.signExtend 64 <<< 12

end Sys2Proof.Machine
end

