-- ==== Sys2Proof/Machine/Control.lean ====
section
/-! DEFINITION. Branches and jumps: MAJ 5, 6 and 7 (R87, R119, R120). -/

namespace Sys2Proof.Machine

/-- The address of the word in execution (R87). -/
def State.wordPc (s : State) : Word := s.hart.pc + BitVec.ofNat 64 (4 * s.conv.idx)

/-- The convoy continues at a target (R87). -/
def State.goto (s : State) (target : Word) : State := { s with conv := { s.conv with npc := some target } }

/-- A branch: the target where its condition holds, else the next convoy (R87, R119). -/
def State.branch (s : State) (cond : State → Bool) (o : BitVec 13) : Out :=
  s.word fun s => .ok (if cond s then s.goto (s.wordPc + (o.signExtend 64 <<< 2)) else s)

/-- A jump: a target that is not word-aligned traps with rd not written; else the link is written and the hart continues at the
target (R120). -/
def State.jump (s : State) (d : BitVec 5) (target : State → Word) : Out :=
  s.word fun s =>
    let t := target s
    if t.extractLsb' 0 2 ≠ 0 then .trap (Trap.plain 0x04 t)
    else .ok ((s.setX d (s.wordPc + 4)).goto t)

/-- Branch where equal (R119). -/
def execBeq (a b : BitVec 5) (o : BitVec 13) (s : State) : Out := s.branch (fun s => s.x a == s.x b) o

/-- Branch where not equal (R119). -/
def execBne (a b : BitVec 5) (o : BitVec 13) (s : State) : Out := s.branch (fun s => s.x a != s.x b) o

/-- Branch where less, signed (R119). -/
def execBlt (a b : BitVec 5) (o : BitVec 13) (s : State) : Out := s.branch (fun s => (s.x a).slt (s.x b)) o

/-- Branch where greater or equal, signed (R119). -/
def execBge (a b : BitVec 5) (o : BitVec 13) (s : State) : Out := s.branch (fun s => !(s.x a).slt (s.x b)) o

/-- Branch where less, unsigned (R119). -/
def execBltu (a b : BitVec 5) (o : BitVec 13) (s : State) : Out := s.branch (fun s => (s.x a).ult (s.x b)) o

/-- Branch where greater or equal, unsigned (R119). -/
def execBgeu (a b : BitVec 5) (o : BitVec 13) (s : State) : Out := s.branch (fun s => !(s.x a).ult (s.x b)) o

/-- Jump and link to a word offset (R87, R120). -/
def execJal (d : BitVec 5) (o : BitVec 21) (s : State) : Out := s.jump d fun s => s.wordPc + (o.signExtend 64 <<< 2)

/-- Jump and link to rs1 + SEXT(imm13, 13) (R87, R120). -/
def execJalr (d a : BitVec 5) (i : BitVec 13) (s : State) : Out := s.jump d fun s => s.x a + imm i

end Sys2Proof.Machine
end

