-- ==== Sys2Proof/Machine/Formats.lean ====
section
/-! DEFINITION. Number formats and exact values: the format codes, the decoding of elements, exact arithmetic, and BX blocks
(the number-format chapter, R50 to R60). -/

namespace Sys2Proof.Machine

/-- The defined formats (R51, R53, R56, R65). -/
inductive Fmt where
  | int4
  | int8
  | uint8
  | int16
  | int32
  | int64
  | fp8e4
  | fp8e5
  | fp16
  | bf16
  | fp32
  | fp64
  | bx4
  | bx6
  | bx9
  deriving DecidableEq, Repr

/-- The format of a code; every other code is reserved (R65, Tables 1 to 3). -/
def Fmt.ofCode (c : BitVec 6) : Option Fmt :=
  match c.toNat with
  | 0x01 => some .int4
  | 0x02 => some .int8
  | 0x03 => some .uint8
  | 0x04 => some .int16
  | 0x05 => some .int32
  | 0x06 => some .int64
  | 0x08 => some .fp8e4
  | 0x09 => some .fp8e5
  | 0x0A => some .fp16
  | 0x0B => some .bf16
  | 0x0C => some .fp32
  | 0x0D => some .fp64
  | 0x10 => some .bx4
  | 0x11 => some .bx6
  | 0x12 => some .bx9
  | _ => none

/-- Container width in bits (R66). -/
def Fmt.cw : Fmt → Nat
  | .int4 | .int8 | .uint8 | .fp8e4 | .fp8e5 | .bx4 | .bx6 | .bx9 => 8
  | .int16 | .fp16 | .bf16 => 16
  | .int32 | .fp32 => 32
  | .int64 | .fp64 => 64

/-- W(f), the width of an integer format (R148). -/
def Fmt.width : Fmt → Nat
  | .int4 => 4
  | f => f.cw

/-- An integer format. -/
def Fmt.isInt : Fmt → Bool
  | .int4 | .int8 | .uint8 | .int16 | .int32 | .int64 => true
  | .fp8e4 | .fp8e5 | .fp16 | .bf16 | .fp32 | .fp64 | .bx4 | .bx6 | .bx9 => false

/-- A BX format. -/
def Fmt.isBx : Fmt → Bool
  | .bx4 | .bx6 | .bx9 => true
  | .int4 | .int8 | .uint8 | .int16 | .int32 | .int64 | .fp8e4 | .fp8e5 | .fp16 | .bf16 | .fp32 | .fp64 => false

/-- A format whose stored elements are not whole bytes (before R164). -/
def Fmt.subByte (f : Fmt) : Bool := f == .int4 || f.isBx

/-- m of a BX format (R56, Table 3). -/
def Fmt.bxM : Fmt → Nat
  | .bx4 => 2
  | .bx6 => 4
  | _ => 7

/-- Block bytes of a BX format (Table 3). -/
def Fmt.blockBytes (f : Fmt) : Nat := 2 + 2 * (f.bxM + 1)

/-- Exponent bits of a floating format (R53, Table 2). -/
def Fmt.ebits : Fmt → Nat
  | .fp8e4 => 4
  | .fp8e5 | .fp16 => 5
  | .fp64 => 11
  | _ => 8

/-- Mantissa bits of a floating format (Table 2). -/
def Fmt.fbits : Fmt → Nat
  | .fp8e4 => 3
  | .fp8e5 => 2
  | .fp16 => 10
  | .bf16 => 7
  | .fp64 => 52
  | _ => 23

/-- Exponent bias of a floating format (Table 2). -/
def Fmt.bias (f : Fmt) : Nat := 2 ^ (f.ebits - 1) - 1

/-- The default NaN of a floating format (Table 2). -/
def Fmt.nan : Fmt → Nat
  | .fp8e4 => 0x7F
  | .fp8e5 => 0x7E
  | .fp16 => 0x7E00
  | .bf16 => 0x7FC0
  | .fp64 => 0x7FF8000000000000
  | _ => 0x7FC00000

/-- The signed integer format of width SEW (R148). -/
def Fmt.nativeInt : Nat → Fmt
  | 8 => .int8
  | 16 => .int16
  | 32 => .int32
  | _ => .int64

/-- The IEEE format native to SEW; there is none at SEW 8 (R66). -/
def Fmt.nativeFloat : Nat → Option Fmt
  | 16 => some .fp16
  | 32 => some .fp32
  | 64 => some .fp64
  | _ => none

/-- The smallest and the largest value of an integer format (R51). -/
def Fmt.range (f : Fmt) : Int × Int :=
  if f = .uint8 then (0, 255) else (-(2 ^ (f.width - 1) : Nat), (2 ^ (f.width - 1) : Nat) - 1)

/-- An exact value (R50): a NaN, signalling or quiet; an infinity; or (−1)^neg × m × 2^e, with `more` when a nonzero amount below
one unit of 2^e follows (quotients and roots). -/
inductive Exact where
  | nan (sig : Bool)
  | inf (neg : Bool)
  | fin (neg : Bool) (m : Nat) (e : Int) (more : Bool)
  deriving DecidableEq, Repr

/-- The exact value of an integer. -/
def Exact.ofInt (i : Int) : Exact := .fin (i < 0) i.natAbs 0 false

/-- Zero of a sign. -/
def Exact.zero (neg : Bool) : Exact := .fin neg 0 0 false

/-- The sign. -/
def Exact.neg : Exact → Bool
  | .nan _ => false
  | .inf n => n
  | .fin n _ _ _ => n

/-- It is a zero. -/
def Exact.isZero : Exact → Bool
  | .fin _ m _ more => m == 0 && !more
  | .nan _ | .inf _ => false

/-- It is a NaN. -/
def Exact.isNan : Exact → Bool
  | .nan _ => true
  | .inf _ | .fin _ _ _ _ => false

/-- It is a signalling NaN. -/
def Exact.isSig : Exact → Bool
  | .nan s => s
  | .inf _ | .fin _ _ _ _ => false

/-- It is finite. -/
def Exact.isFin : Exact → Bool
  | .fin _ _ _ _ => true
  | .nan _ | .inf _ => false

/-- The value with a sign set. -/
def Exact.withSign (x : Exact) (n : Bool) : Exact :=
  match x with
  | .nan s => .nan s
  | .inf _ => .inf n
  | .fin _ m e more => .fin n m e more

/-- The value times 2^k. -/
def Exact.scale (x : Exact) (k : Int) : Exact :=
  match x with
  | .nan s => .nan s
  | .inf n => .inf n
  | .fin n m e more => .fin n m (e + k) more

/-- m × 2^(e − low), for low at most e. -/
def shiftTo (m : Nat) (e low : Int) : Nat := m * 2 ^ (e - low).toNat

/-- The signed integer m × 2^(e − low). -/
def signedTo (neg : Bool) (m : Nat) (e low : Int) : Int :=
  if neg then -(shiftTo m e low : Int) else (shiftTo m e low : Int)

/-- The exact sum of finite values; an exact zero is +0, or −0 under RDN and where both are −0 (R55). -/
def addFin (rdn : Bool) (n1 : Bool) (m1 : Nat) (e1 : Int) (n2 : Bool) (m2 : Nat) (e2 : Int) : Exact :=
  let low := min e1 e2
  let t := signedTo n1 m1 e1 low + signedTo n2 m2 e2 low
  if t = 0 then .fin (rdn || (n1 && n2 && m1 == 0 && m2 == 0)) 0 0 false
  else .fin (t < 0) t.natAbs low false

/-- An exact result and whether the operation was invalid (R54). -/
abbrev Inv := Exact × Bool

/-- The exact sum (R54, R55). A NaN operand is answered before. -/
def Exact.add (rdn : Bool) : Exact → Exact → Inv
  | .nan s, _ | _, .nan s => (.nan s, s)
  | .inf a, .inf b => if a = b then (.inf a, false) else (.nan false, true)
  | .inf a, .fin .. => (.inf a, false)
  | .fin .., .inf b => (.inf b, false)
  | .fin n1 m1 e1 _, .fin n2 m2 e2 _ => (addFin rdn n1 m1 e1 n2 m2 e2, false)

/-- The exact product (R54, R55). -/
def Exact.mul : Exact → Exact → Inv
  | .nan s, _ | _, .nan s => (.nan s, s)
  | .inf a, .inf b => (.inf (a != b), false)
  | .inf a, .fin n m _ _ => if m = 0 then (.nan false, true) else (.inf (a != n), false)
  | .fin n m _ _, .inf b => if m = 0 then (.nan false, true) else (.inf (n != b), false)
  | .fin n1 m1 e1 _, .fin n2 m2 e2 _ => (.fin (n1 != n2) (m1 * m2) (e1 + e2) false, false)

/-- The negated value. -/
def Exact.negate (x : Exact) : Exact := x.withSign (!x.neg)

/-- The exact difference: an exact zero is +0, or −0 under RDN; what R55 says of two operands of −0 it says of a sum (R54, R55). -/
def Exact.sub (rdn : Bool) (x y : Exact) : Inv :=
  match Exact.add rdn x y.negate with
  | (.fin n m e t, bad) => (.fin (if m = 0 then rdn else n) m e t, bad)
  | r => r

/-- Bits of a number. -/
def bitLen (m : Nat) : Nat := if m = 0 then 0 else Nat.log2 m + 1

/-- The quotient, with whether it was invalid and whether a finite nonzero value was divided by zero (R54, R152). -/
def Exact.div : Exact → Exact → Exact × Bool × Bool
  | .nan s, _ | _, .nan s => (.nan s, s, false)
  | .inf _, .inf _ => (.nan false, true, false)
  | .inf a, .fin n _ _ _ => (.inf (a != n), false, false)
  | .fin n _ _ _, .inf b => (.zero (n != b), false, false)
  | .fin n1 m1 e1 _, .fin n2 m2 e2 _ =>
    if m2 = 0 then (if m1 = 0 then (.nan false, true, false) else (.inf (n1 != n2), false, true))
    else if m1 = 0 then (.zero (n1 != n2), false, false)
    else
      let k := bitLen m2 + 80
      let n := m1 * 2 ^ k
      (.fin (n1 != n2) (n / m2) (e1 - e2 - (k : Int)) (n % m2 != 0), false, false)

/-- The integer square root, bit by bit from bit `k` − 1 down. -/
def isqrtFrom (n : Nat) : Nat → Nat → Nat
  | 0, r => r
  | k + 1, r => isqrtFrom n k (if (r + 2 ^ k) * (r + 2 ^ k) ≤ n then r + 2 ^ k else r)

/-- The integer square root. -/
def isqrt (n : Nat) : Nat := isqrtFrom n (bitLen n / 2 + 1) 0

/-- The square root (R54, R152): a value below zero is invalid, and the root of −0 is −0. -/
def Exact.sqrt : Exact → Inv
  | .nan s => (.nan s, s)
  | .inf n => if n then (.nan false, true) else (.inf false, false)
  | .fin n m e _ =>
    if m = 0 then (.zero n, false)
    else if n then (.nan false, true)
    else
      let odd := e % 2 != 0
      let m' := (if odd then 2 * m else m) * 2 ^ 160
      let e' := (if odd then e - 1 else e) / 2 - 80
      let r := isqrt m'
      (.fin false r e' (r * r != m'), false)

/-- Comparison of two values that are no NaN: less, equal. −0 equals +0. -/
def Exact.cmp : Exact → Exact → Ordering
  | .inf a, .inf b => if a = b then .eq else if a then .lt else .gt
  | .inf a, _ => if a then .lt else .gt
  | _, .inf b => if b then .gt else .lt
  | .fin n1 m1 e1 _, .fin n2 m2 e2 _ =>
    let low := min e1 e2
    compare (signedTo n1 m1 e1 low) (signedTo n2 m2 e2 low)
  | _, _ => .eq

/-- The exact value of an integer container (R51, R52, R148). -/
def decInt (f : Fmt) (c : Nat) : Int :=
  match f with
  | .uint8 => (c % 256 : Nat)
  | _ => (BitVec.ofNat f.width c).toInt

/-- The exact value of a floating encoding (R53). -/
def decFloat (f : Fmt) (c : Nat) : Exact :=
  let fb := f.fbits
  let eb := f.ebits
  let frac := c % 2 ^ fb
  let ex := c / 2 ^ fb % 2 ^ eb
  let sg := c / 2 ^ (fb + eb) % 2 == 1
  if f = .fp8e4 ∧ c % 128 = 127 then .nan false
  else if f ≠ .fp8e4 ∧ ex = 2 ^ eb - 1 then
    if frac = 0 then .inf sg else .nan (frac / 2 ^ (fb - 1) = 0)
  else if ex = 0 then .fin sg frac (1 - (f.bias : Int) - (fb : Int)) false
  else .fin sg (2 ^ fb + frac) ((ex : Int) - (f.bias : Int) - (fb : Int)) false

/-- The exact value of a BX element: its container or field (sign above m magnitude bits), E and the quad shift (R57, R59). -/
def decBx (m : Nat) (sign : Bool) (mag : Nat) (e q : Nat) : Exact :=
  if e = 255 then .nan false
  else if mag = 0 then .zero false
  else .fin sign mag ((e : Int) - 127 - (q : Int) - ((m : Int) - 1)) false

/-- Rounding modes (R61). -/
inductive Rm where
  | rne
  | rtz
  | rdn
  | rup
  deriving DecidableEq, Repr

/-- The mode of a code (R61, Table 5). -/
def Rm.ofCode (c : BitVec 2) : Rm :=
  match c.toNat with
  | 0 => .rne
  | 1 => .rtz
  | 2 => .rdn
  | _ => .rup

/-- A magnitude m × 2^e (with `more` below it) rounded to a multiple of 2^q under a mode, as a count of 2^q, and whether it is
inexact (R61). -/
def roundTo (rm : Rm) (neg : Bool) (m : Nat) (e : Int) (more : Bool) (q : Int) : Nat × Bool :=
  if q ≤ e then
    let n := shiftTo m e q
    let up := more && ((rm == .rdn && neg) || (rm == .rup && !neg))
    (if up then n + 1 else n, more)
  else
    let d := (q - e).toNat
    let n := m / 2 ^ d
    let r := m % 2 ^ d
    let half := 2 ^ (d - 1)
    let inexact := r != 0 || more
    let up := match rm with
      | .rne => half < r || (r == half && (more || n % 2 == 1))
      | .rtz => false
      | .rdn => inexact && neg
      | .rup => inexact && !neg
    (if up then n + 1 else n, inexact)

/-- RINT of a finite value (R58, R61, R64), and whether it rounded. -/
def rint (rm : Rm) (neg : Bool) (m : Nat) (e : Int) (more : Bool) : Int × Bool :=
  let r := roundTo rm neg m e more 0
  (if neg then -(r.1 : Int) else r.1, r.2)

/-- MIX(c, key) (R77). -/
def mix (c key : BitVec 32) : BitVec 32 :=
  let h := (c + key) * 0x2545F491
  h ^^^ (h >>> 16)

end Sys2Proof.Machine
end

