-- ==== Sys2Proof/Machine/Flags.lean ====
section
/-! DEFINITION. Rounding into a format with its flags: CVT, the packing of BX blocks, and the flags of FLAGS (R54 to R64, R73). -/

namespace Sys2Proof.Machine

/-- Flag bits of FLAGS (R73): NX, UF, OF, DZ, NV, SATI, RPX from bit 0 up. -/
def fNX : BitVec 7 := 0x01
def fUF : BitVec 7 := 0x02
def fOF : BitVec 7 := 0x04
def fDZ : BitVec 7 := 0x08
def fNV : BitVec 7 := 0x10
def fSATI : BitVec 7 := 0x20

/-- A flag or none. -/
def flagIf (b : Bool) (f : BitVec 7) : BitVec 7 := if b then f else 0

/-- The encoding of the largest finite magnitude of a floating format (Table 2). -/
def Fmt.maxFinite (f : Fmt) : Nat :=
  if f = .fp8e4 then 0x7E else (2 ^ f.ebits - 1) * 2 ^ f.fbits - 1

/-- The sign bit of a floating encoding. -/
def Fmt.signBit (f : Fmt) (neg : Bool) : Nat := if neg then 2 ^ (f.ebits + f.fbits) else 0

/-- Overflow of a finite value (R62, R63). -/
def overflowTo (f : Fmt) (rm : Rm) (sat : Bool) (neg : Bool) : Nat :=
  if f = .fp8e4 then (if sat then f.maxFinite + f.signBit neg else f.nan)
  else
    let toInf := !sat && (match rm with
      | .rne => true
      | .rtz => false
      | .rdn => neg
      | .rup => !neg)
    (if toInf then f.maxFinite + 1 else f.maxFinite) + f.signBit neg

/-- CVT into a floating format (R55, R61 to R64): the encoding and its flags. -/
def cvtFloat (f : Fmt) (rm : Rm) (sat : Bool) (x : Exact) : Nat × BitVec 7 :=
  match x with
  | .nan s => (f.nan, flagIf s fNV)
  | .inf n =>
    if f = .fp8e4 then (if sat then (f.maxFinite + f.signBit n, 0) else (f.nan, fNV))
    else (f.maxFinite + 1 + f.signBit n, 0)
  | .fin n m e more =>
    if m = 0 ∧ !more then (f.signBit n, 0)
    else
      let fb : Int := f.fbits
      let emin : Int := 1 - (f.bias : Int)
      let lead : Int := e + (bitLen m : Int) - 1
      let q := max (lead - fb) (emin - fb)
      let r := roundTo rm n m e more q
      let free := roundTo rm n m e more (lead - fb)
      let tiny := lead < emin && !(free.1 == 2 ^ (f.fbits + 1) && lead + 1 == emin)
      let k := if r.1 = 2 ^ (f.fbits + 1) then (2 ^ f.fbits, q + 1) else (r.1, q)
      let enc := if k.1 < 2 ^ f.fbits then k.1
        else (k.2 + fb + (f.bias : Int)).toNat * 2 ^ f.fbits + (k.1 - 2 ^ f.fbits)
      if f.maxFinite < enc then (overflowTo f rm sat n, fOF ||| fNX)
      else (enc + f.signBit n, flagIf r.2 fNX ||| flagIf (tiny && r.2) fUF)

/-- A value of an integer format as a container of its width (R52): INT4 is held sign-extended in 8 bits. -/
def intContainer (f : Fmt) (v : Int) : Nat := ((v : Int) % (2 ^ f.cw : Nat)).toNat

/-- An integer modulo 2^w, read in the format. -/
def wrapInt (f : Fmt) (v : Int) : Int :=
  let u := (v % (2 ^ f.width : Nat))
  if f = .uint8 ∨ u < (2 ^ (f.width - 1) : Nat) then u else u - (2 ^ f.width : Nat)

/-- CVT of a finite value into an integer format (R64): from an integer source it wraps, or clamps with SATI under SAT; from a
floating source it clamps with NV. -/
def cvtInt (f : Fmt) (rm : Rm) (sat fromInt : Bool) (x : Exact) : Nat × BitVec 7 :=
  match x with
  | .nan _ => (0, fNV)
  | .inf n => (intContainer f (if n then f.range.1 else f.range.2), fNV)
  | .fin n m e more =>
    let r := rint rm n m e more
    if f.range.1 ≤ r.1 ∧ r.1 ≤ f.range.2 then (intContainer f r.1, flagIf r.2 fNX)
    else
      let clamped := intContainer f (if r.1 < f.range.1 then f.range.1 else f.range.2)
      if fromInt then (if sat then (clamped, fSATI) else (intContainer f (wrapInt f r.1), 0))
      else (clamped, fNV)

/-- CVT into any format but BX (R64): the container and its flags. -/
def cvt (f : Fmt) (rm : Rm) (sat fromInt : Bool) (x : Exact) : Nat × BitVec 7 :=
  if f.isInt then cvtInt f rm sat fromInt x else cvtFloat f rm sat x

/-- One element of a packed BX block: sign, magnitude, flags, whether it saturated, and whether it underflowed to zero (R58). -/
structure BxElem where
  sign : Bool
  mag : Nat
  fx : BitVec 7
  sat : Bool
  und : Bool
  deriving DecidableEq, Repr

/-- A packed BX block: E, the quad shifts and the elements (R56, R58). -/
structure BxBlock where
  e : Nat
  q : List Nat
  els : List BxElem
  deriving DecidableEq, Repr

/-- QM(x, k, rm) of a finite value (R58), and whether it is exact. -/
def bxMag (m : Nat) (rm : Rm) (x : Exact) (k : Int) : Nat × Bool :=
  match x with
  | .fin n mm e more => roundTo rm n mm e more (k - ((m : Int) - 1))
  | .nan _ | .inf _ => (0, false)

/-- FITS(x, k) (R58). -/
def bxFits (m : Nat) (rm : Rm) (x : Exact) (k : Int) : Bool := (bxMag m rm x k).1 ≤ 2 ^ m - 1

/-- The largest quad shift of 0 to 3 at which a predicate holds, else 0 (R58). -/
def bestShift (p : Nat → Bool) : Nat := if p 3 then 3 else if p 2 then 2 else if p 1 then 1 else 0

/-- One element at the scale k of its quad (R58). -/
def bxElem (m : Nat) (rm : Rm) (x : Exact) (k : Int) : BxElem :=
  let r := bxMag m rm x k
  let big := 2 ^ m - 1 < r.1
  let mag := if big then 2 ^ m - 1 else r.1
  let und := !x.isZero && mag == 0
  ⟨x.neg && mag != 0, mag, flagIf big fOF ||| flagIf und fUF ||| flagIf (big || r.2) fNX, big, und⟩

/-- The conversion of 16 exact values into a BX block (R58). -/
def packBx (f : Fmt) (rm : Rm) (xs : List Exact) : BxBlock :=
  let m := f.bxM
  if xs.any fun x => !x.isFin then
    ⟨255, [0, 0, 0, 0], xs.map fun x => ⟨false, 0, flagIf (!x.isFin) fNV, false, false⟩⟩
  else
    let e : Nat := ((List.range 255).find? fun (e : Nat) => xs.all fun x => bxFits m rm x ((e : Int) - 127)).getD 254
    let q := (List.range 4).map fun j =>
      bestShift fun q => ((xs.drop (4 * j)).take 4).all fun x => bxFits m rm x ((e : Int) - 127 - (q : Int))
    let els := (List.range xs.length).map fun i =>
      bxElem m rm (xs[i]?.getD (.zero false)) ((e : Int) - 127 - ((q[i / 4]?.getD 0 : Nat) : Int))
    ⟨e, q, els⟩

/-- The register container of a BX element (R59). -/
def BxElem.container (x : BxElem) : Nat := (if x.sign then 128 else 0) + x.mag

/-- The quad shifts as byte 1 of a block holds them (R56). -/
def shiftByte (q : List Nat) : Nat := (q[0]?.getD 0) + 4 * (q[1]?.getD 0) + 16 * (q[2]?.getD 0) + 64 * (q[3]?.getD 0)

/-- The side-array entry of a block (R59). -/
def BxBlock.entry (b : BxBlock) : Nat := b.e + 256 * shiftByte b.q

/-- The stored bytes of a block (R56). -/
def BxBlock.bytes (f : Fmt) (b : BxBlock) : List Byte :=
  let w := f.bxM + 1
  let fields := (List.range b.els.length).foldl (fun a i =>
    match b.els[i]? with
    | some x => a + (x.mag + (if x.sign then 2 ^ f.bxM else 0)) * 2 ^ (w * i)
    | none => a) 0
  leBytes 2 b.entry ++ leBytes (2 * w) fields

/-- Quad shift of element i in a shift byte (R57). -/
def quadShift (byte1 i : Nat) : Nat := byte1 / 4 ^ (i / 4) % 4

/-- Element i of a stored block, whose bytes are given as a number (R56, R57). -/
def decStoredBx (f : Fmt) (block i : Nat) : Exact :=
  let w := f.bxM + 1
  let field := block / 65536 / 2 ^ (w * i) % 2 ^ w
  decBx f.bxM (field / 2 ^ f.bxM == 1) (field % 2 ^ f.bxM) (block % 256) (quadShift (block / 256 % 256) i)

/-- An element of a register block: its container and the side-array entry (R59). -/
def decRegBx (f : Fmt) (c entry i : Nat) : Exact :=
  decBx f.bxM (c / 128 % 2 == 1) (c % 2 ^ f.bxM) (entry % 256) (quadShift (entry / 256 % 256) i)

end Sys2Proof.Machine
end

