-- ==== Sys2Proof/Machine/Operands.lean ====
section
/-! DEFINITION. Operand forms: the place of an element in the lanes, predicates, format descriptors and memory format controls
with their checks, and the writing of element-wise results (R32, R60, R65 to R72, R145 to R147, R376). -/

namespace Sys2Proof.Machine

/-! ### Elements in the lanes -/

/-- Lanes that hold different elements: half of the hart's lanes under PROTMODE (R376). -/
def Hart.plane (h : Hart) : Nat := if h.prot then h.lanes / 2 else h.lanes

/-- Elements of one register (R32, R376). -/
def Hart.perReg (h : Hart) (sew : Nat) : Nat := h.plane * (256 / sew)

/-- Register of the group and lowest bit of element e (R32, R376). -/
def Hart.place (h : Hart) (sew e : Nat) : Nat × Nat :=
  let u := e % h.plane
  let slot := e / h.plane
  let per := 256 / sew
  let lane := if h.prot then 8 * (u / 4) + u % 4 else u
  (slot / per, 256 * lane + sew * (slot % per))

/-- Container of element e of the register group that starts at v. -/
def Hart.elem (h : Hart) (sew v e : Nat) : Nat :=
  let p := h.place sew e
  ((h.v[v + p.1]?.getD 0).extractLsb' p.2 sew).toNat

/-- A register with `n` bits from `b` on replaced. -/
def putBits (r : VReg) (b n x : Nat) : VReg :=
  (r &&& ~~~(BitVec.ofNat 8192 (2 ^ n - 1) <<< b)) ||| (BitVec.ofNat 8192 (x % 2 ^ n) <<< b)

/-- The hart with element e of a group written; under PROTMODE the mirror holds the same element (R376). -/
def Hart.setElem (h : Hart) (sew v e x : Nat) : Hart :=
  let p := h.place sew e
  let r := putBits (h.v[v + p.1]?.getD 0) p.2 sew x
  { h with v := h.v.setIfInBounds (v + p.1) (if h.prot then putBits r (p.2 + 1024) sew x else r) }

/-- Blocks of 16 elements in one register. -/
def Hart.blocksPerReg (h : Hart) (sew : Nat) : Nat := h.perReg sew / 16

/-- Side-array entry of block b of the group at v (R59). -/
def Hart.entry (h : Hart) (sew v b : Nat) : Nat :=
  let n := h.blocksPerReg sew
  ((h.side[v + b / n]?.getD 0).extractLsb' (16 * (b % n)) 16).toNat

/-- The hart with a side-array entry written. -/
def Hart.setEntry (h : Hart) (sew v b x : Nat) : Hart :=
  let n := h.blocksPerReg sew
  let k := 16 * (b % n)
  let r := h.side[v + b / n]?.getD 0
  let r := (r &&& ~~~((0xFFFF#1024) <<< k)) ||| (BitVec.ofNat 1024 (x % 65536) <<< k)
  { h with side := h.side.setIfInBounds (v + b / n) r }

/-! ### Predicates -/

/-- Bit i of a predicate: p0 reads all-true, and bits at MVL and above read 0 (R79, R147). -/
def Hart.pbit (h : Hart) (p i : Nat) : Bool :=
  i < h.mvl.toNat && (p == 0 || (h.p[p]?.getD 0).getLsbD i)

/-- The hart with a predicate replaced; a write to p0 is discarded (R79, R145). -/
def Hart.setPred (h : Hart) (p : Nat) (x : Pred) : Hart :=
  if p = 0 then h else { h with p := h.p.setIfInBounds p x }

/-- The bits below `n` of a predicate from a function, the others from the old value. -/
def putPred (old : Pred) (n : Nat) (f : Nat → Bool) : Pred :=
  let low := (List.range n).foldl (fun (a : Nat) i => if f i then a + 2 ^ i else a) 0
  ((old >>> n) <<< n) ||| BitVec.ofNat 8192 low

/-! ### Type state at a word -/

/-- SEW in bits. -/
def Hart.sew (h : Hart) : Nat := sewOf h.vtype

/-- VL as a number. -/
def Hart.vln (h : Hart) : Nat := h.vl.toNat

/-- The elements that the word in execution may perform: all of them, or those a suspension left (R331). -/
def State.allowed (s : State) (i : Nat) : Bool :=
  match s.conv.only with
  | none => true
  | some k => k.1 != s.conv.idx || k.2.getLsbD i

/-- Element i lies at or above VSTART and is one that the word may perform; in a resumed convoy p63 alone says which elements are
left (R145, R331). -/
def State.reached (s : State) (i : Nat) : Bool := (s.conv.only.isSome || s.hart.vstart.toNat ≤ i) && s.allowed i

/-- Element i of a destination takes zero where it is below VL and not active: under MA, but for an element that a resumed word does
not perform (R145, R331). -/
def State.masksOut (s : State) (i : Nat) : Bool := maOf s.hart.vtype && s.allowed i

/-- ACTIVE(i) (R145). -/
def State.active (s : State) (pm : BitVec 4) (i : Nat) : Bool :=
  s.reached i && i < s.hart.vln && s.hart.pbit pm.toNat i

/-- The lowest active element of the whole instruction, performed already or not. -/
def State.lowestActive (s : State) (pm : BitVec 4) : Option Nat :=
  (List.range s.hart.vln).find? fun i => (s.conv.only.isSome || s.hart.vstart.toNat ≤ i) && s.hart.pbit pm.toNat i

/-- The active elements in ascending order. -/
def State.actives (s : State) (pm : BitVec 4) : List Nat := (List.range s.hart.vln).filter fun i => s.active pm i

/-- The instruction word in execution, as it stands in memory. -/
def State.thisWord (s : State) : Word := BitVec.zeroExtend 64 (s.insnAt (s.hart.pc + BitVec.ofNat 64 (4 * s.conv.idx)))

/-- The illegal-instruction trap of the word in execution (R104, R324). -/
def State.illegal (s : State) : Trap := Trap.plain 0x01 s.thisWord

/-- The privilege trap of the word in execution (R134, R324). -/
def State.denied (s : State) : Trap := Trap.plain 0x02 s.thisWord

/-- A check: the trap it raises, if it fails. -/
abbrev Check? := Option Trap

/-- A word goes on when its check passes. -/
def guard (c : Check?) (f : Res) : Res :=
  match c with
  | some t => .trap t
  | none => f

/-- The first check that fails. -/
def firstOf : List Check? → Check?
  | [] => none
  | some t :: _ => some t
  | none :: r => firstOf r

/-- Every vector register field that names a group holds a multiple of LMUL (R80). -/
def State.groups (s : State) (vs : List (BitVec 5)) : Check? :=
  if vs.all fun v => v.toNat % lmulOf s.hart.vtype == 0 then none else some s.illegal

/-- Only privilege S may go on (R134). -/
def State.needS (s : State) : Check? := if s.hart.priv = .s then none else some s.denied

/-! ### Format descriptors -/

/-- A format descriptor (R68). -/
structure Desc where
  fa : Fmt
  fb : Fmt
  fd : Fmt
  rm : Rm
  sat : Bool
  mbi : Nat
  try_ : Nat
  ceil : Nat
  nff : Bool
  chk : Bool
  deriving DecidableEq, Repr

/-- The descriptor in a register, or none where R69 finds it illegal. -/
def Desc.read (w : Word) : Option Desc :=
  match Fmt.ofCode (w.extractLsb' 0 6), Fmt.ofCode (w.extractLsb' 6 6), Fmt.ofCode (w.extractLsb' 12 6) with
  | some fa, some fb, some fd =>
    let t := (w.extractLsb' 24 3).toNat
    let c := (w.extractLsb' 27 3).toNat
    let nff := w.getLsbD 30
    if 5 ≤ t ∨ 5 ≤ c ∨ (nff ∧ c < t) ∨ w.extractLsb' 32 32 ≠ 0 then none
    else some ⟨fa, fb, fd, Rm.ofCode (w.extractLsb' 18 2), w.getLsbD 20, (w.extractLsb' 21 3).toNat, t, c, nff, w.getLsbD 31⟩
  | _, _, _ => none

/-- The register that fdw names: d1 to d7 are x25 to x31 (R66, R79). -/
def descReg (fdw : BitVec 3) : BitVec 5 := BitVec.ofNat 5 (24 + fdw.toNat)

/-- A format fault (R66); it names the descriptor or MFC, or 0 where only VTYPE fails (R324). -/
def formatFault (v : Word) : Trap := Trap.plain 0x0A v

/-- An illegal-format fault (R69, R71). -/
def illegalFormat (v : Word) : Trap := Trap.plain 0x0B v

/-- BX formats need SEW 8 and BLK 1 (R60). -/
def Hart.bxOk (h : Hart) : Bool := h.sew == 8 && blkOf h.vtype

/-- A format fits the type state (R60, R66). -/
def Hart.fits (h : Hart) (f : Fmt) : Bool := f.cw == h.sew && (!f.isBx || h.bxOk)

/-- FLAGS.FRM (R73). -/
def Hart.frm (h : Hart) : Rm := Rm.ofCode (h.flags.extractLsb' 8 2)

/-- Formats of an operation: sources, destination, rounding and saturation. -/
structure Formats where
  fa : Fmt
  fb : Fmt
  fd : Fmt
  rm : Rm
  sat : Bool
  deriving DecidableEq, Repr

/-- The descriptor of a word, with the formats used when fdw is 0. -/
def State.formats (s : State) (fdw : BitVec 3) (native : Option Fmt) (ok : Desc → Bool) (k : Formats → Res) : Res :=
  if fdw = 0 then
    match native with
    | none => .trap (formatFault 0)
    | some f => k ⟨f, f, f, if f.isInt then .rne else s.hart.frm, false⟩
  else
    let w := s.x (descReg fdw)
    match Desc.read w with
    | none => .trap (illegalFormat w)
    | some d => if ok d then k ⟨d.fa, d.fb, d.fd, d.rm, d.sat⟩ else .trap (formatFault w)

/-- Formats of an integer form (R148). -/
def State.intFormats (s : State) (fdw : BitVec 3) (k : Formats → Res) : Res :=
  s.formats fdw (some (Fmt.nativeInt s.hart.sew))
    (fun d => [d.fa, d.fb, d.fd].all fun f => f.isInt && s.hart.fits f) k

/-- How a floating form uses its formats (R151, R153, R154). -/
inductive FpUse where
  /-- Two sources. -/
  | two
  /-- Two sources, the right one a scalar. -/
  | twoScalar
  /-- One source. -/
  | one
  /-- vfcvt: any formats. -/
  | convert
  /-- vfclass: an integer destination. -/
  | classify
  deriving DecidableEq, Repr

/-- A descriptor fits a floating form (R60, R66, R151, R153, R154). -/
def Hart.fpOk (h : Hart) (u : FpUse) (d : Desc) : Bool :=
  h.fits d.fa && h.fits d.fd && (match u with
    | .two => !d.fa.isInt && !d.fd.isInt && !d.fb.isInt && h.fits d.fb
    | .twoScalar => !d.fa.isInt && !d.fd.isInt && !d.fb.isInt && h.fits d.fb && !d.fb.isBx
    | .one => !d.fa.isInt && !d.fd.isInt
    | .convert => true
    | .classify => !d.fa.isInt && d.fd.isInt)

/-- Formats of a floating form. With fdw 0 vfclass has a floating destination, which is a format fault (R153). -/
def State.fpFormats (s : State) (u : FpUse) (fdw : BitVec 3) (k : Formats → Res) : Res :=
  s.formats fdw (if u = .classify then none else Fmt.nativeFloat s.hart.sew) (s.hart.fpOk u) k

/-- The exact value of a container under a format that is not BX. -/
def decode1 (f : Fmt) (c : Nat) : Exact := if f.isInt then Exact.ofInt (decInt f c) else decFloat f c

/-- The exact value of element e of the group at v under a format; a BX element takes its block's side-array entry (R59). -/
def Hart.value (h : Hart) (f : Fmt) (v e : Nat) : Exact :=
  let c := h.elem h.sew v e
  if f.isBx then decRegBx f c (h.entry h.sew v (e / 16)) (e % 16) else decode1 f c

/-! ### Writing results -/

/-- Containers written to the active elements of vd (R145): `f` gives the container of an active element, and the flags of
active elements are raised. -/
def State.putElems (s : State) (sew vd : Nat) (pm : BitVec 4) (f : Nat → Nat × BitVec 7) : State :=
  (List.range s.hart.vln).foldl (fun t i =>
    if s.active pm i then
      let r := f i
      ({ t with hart := t.hart.setElem sew vd i r.1 } : State).flag r.2
    else if s.masksOut i then { t with hart := t.hart.setElem sew vd i 0 }
    else t) s

/-- A result before its rounding: exact value, flags the operation raised, and whether it comes from an integer format. -/
structure Val where
  x : Exact
  fx : BitVec 7
  fromInt : Bool
  deriving DecidableEq, Repr

/-- A BX block of vd written as a whole from the results of its active elements (R60). DESIGN CHOICE: in an element step whose element
group ends inside a block, the elements of the block outside the group count as masked ones: they take zero under MA = 1 and are re-rounded
with the block under MA = 0, also where an earlier step has performed them (log entry 94). -/
def State.putBlock (s : State) (fd : Fmt) (rm : Rm) (vd : Nat) (pm : BitVec 4) (f : Nat → Val) (t : State) (b : Nat) : State :=
  let idx := (List.range 16).map fun j => 16 * b + j
  let any := idx.any fun i => s.active pm i
  if !any && !(idx.any fun i => s.masksOut i) then t
  else
    let xs := idx.map fun i =>
      if s.active pm i then (f i).x
      else if maOf s.hart.vtype then Exact.zero false
      else s.hart.value fd vd i
    let k := packBx fd rm xs
    let fx := idx.foldl (fun a i => if s.active pm i then a ||| (f i).fx ||| ((k.els[i % 16]?.map fun x => x.fx).getD 0) else a)
      (0 : BitVec 7)
    let h := idx.foldl (fun h i => h.setElem 8 vd i ((k.els[i % 16]?.map fun x => x.container).getD 0)) t.hart
    ({ t with hart := h.setEntry 8 vd b k.entry } : State).flag fx

/-- Results rounded into vd by ROUND (R64), a BX destination block by block (R60). -/
def State.putVals (s : State) (fd : Fmt) (rm : Rm) (sat : Bool) (vd : Nat) (pm : BitVec 4) (f : Nat → Val) : State :=
  if fd.isBx then (List.range (s.hart.vln / 16)).foldl (fun t b => s.putBlock fd rm vd pm f t b) s
  else s.putElems s.hart.sew vd pm fun i =>
    let r := f i
    let c := cvt fd rm sat r.fromInt r.x
    (c.1, r.fx ||| c.2)

/-- A predicate result by R145. -/
def State.putMask (s : State) (pd : Nat) (pm : BitVec 4) (f : Nat → Bool) : State :=
  let old := s.hart.p[pd]?.getD 0
  { s with hart := s.hart.setPred pd (putPred old s.hart.vln fun i =>
      if s.active pm i then f i
      else if s.masksOut i then false else old.getLsbD i) }

/-! ### Memory format controls -/

/-- The conversion that an MFC or a shape record names: `none` for RAW (R70, R186). -/
structure MemFmt where
  stored : Option Fmt
  reg : Option Fmt
  scl : Bool
  se : Int
  sat : Bool
  skip : Nat
  deriving DecidableEq, Repr

/-- A format code of an MFC: some none is RAW (R65). -/
def memCode (c : BitVec 6) : Option (Option Fmt) :=
  if c = 0x3F then some none else (Fmt.ofCode c).map some

/-- SKIP lies in the range that a stored format allows (R70, R71). -/
def skipOk (f : Option Fmt) (skip : Nat) : Bool :=
  match f with
  | some k => if k.isBx then skip < 16 else if k = .int4 then skip < 2 else skip == 0
  | none => skip == 0

/-- The fields SFMT, RFMT, SCL, SE, SAT and SKIP of a control value, or none where R71 finds it illegal. -/
def MemFmt.read (w : BitVec 27) : Option MemFmt :=
  match memCode (w.extractLsb' 0 6), memCode (w.extractLsb' 6 6) with
  | some sf, some rf =>
    let scl := w.extractLsb' 12 2
    let skip := (w.extractLsb' 23 4).toNat
    if sf.isNone != rf.isNone ∨ 2 ≤ scl.toNat ∨ !skipOk sf skip then none
    else some ⟨sf, rf, scl = 1, (w.extractLsb' 14 8).toInt, w.getLsbD 22, skip⟩
  | _, _ => none

/-- The MFC that a load or store names, checked against the type state (R71); `whole` forms need a stored format of whole bytes
(R171, R174, R176). -/
def State.memFmt (s : State) (mf : BitVec 2) (whole : Bool) (k : MemFmt → Res) : Res :=
  let raw := s.hart.mfc[mf.toNat]'(by have := mf.isLt; omega)
  let w := BitVec.zeroExtend 64 raw
  match MemFmt.read raw with
  | none => .trap (illegalFormat w)
  | some m =>
    let isBx := (m.stored.any fun f => f.isBx) || (m.reg.any fun f => f.isBx)
    if (m.reg.any fun f => f.cw != s.hart.sew) || (isBx && !s.hart.bxOk) || (whole && m.stored.any fun f => f.subByte) then
      .trap (formatFault w)
    else k m

/-- s, the stored bytes of one element, for a stored format of whole bytes or RAW. -/
def MemFmt.size (m : MemFmt) (sew : Nat) : Nat :=
  match m.stored with
  | none => sew / 8
  | some f => f.cw / 8

/-- Elements are copied bit for bit (R166). -/
def MemFmt.copies (m : MemFmt) : Bool := m.stored == m.reg && !m.scl

/-- 2^SE or 1 as a power of two. -/
def MemFmt.power (m : MemFmt) : Int := if m.scl then m.se else 0

end Sys2Proof.Machine
end

