-- ==== Sys2Proof/Machine/VectorInt.lean ====
section
/-! DEFINITION. Vector integer arithmetic: MAJ 13, 14 and 15 (R145 to R150). -/

namespace Sys2Proof.Machine

/-- The integer operations of MAJ 13 and 14 (Table 3). -/
inductive IntOp where
  | add
  | sub
  | sadd
  | ssub
  | mul
  | mulh
  | and
  | or
  | xor
  | sll
  | srl
  | sra
  | min
  | max
  | minu
  | maxu
  deriving DecidableEq, Repr

/-- The integer nearest to a value within bounds. -/
def clampInt (r : Int × Int) (v : Int) : Int := if v < r.1 then r.1 else if r.2 < v then r.2 else v

/-- Rule B: the low W(FD) bits of a pattern, held as R52 states (R149). -/
def ruleB (fd : Fmt) (p : Nat) : Nat := intContainer fd (wrapInt fd p)

/-- Rule V: CVT of an integer into FD under RNE (R149). -/
def ruleV (fd : Fmt) (sat : Bool) (x : Int) : Nat × BitVec 7 := cvtInt fd .rne sat true (Exact.ofInt x)

/-- U(v, f): v mod 2^W(f) (R148). -/
def unsignedOf (f : Fmt) (v : Int) : Nat := (v % (2 ^ f.width : Nat)).toNat

/-- The container and the flags of an integer result (Table 3, R149); a and b are exact values under FA and FB, and `sew` gives the
width of the patterns P(a) and P(b). -/
def intResult (op : IntOp) (f : Formats) (sew : Nat) (a b : Int) : Nat × BitVec 7 :=
  let p := fun (v : Int) => (v % (2 ^ sew : Nat)).toNat
  let n := unsignedOf f.fb b % f.fa.width
  let clamp := fun (x : Int) =>
    let c := clampInt f.fd.range x
    (intContainer f.fd c, flagIf (c != x) fSATI)
  match op with
  | .add => ruleV f.fd f.sat (a + b)
  | .sub => ruleV f.fd f.sat (a - b)
  | .sadd => clamp (a + b)
  | .ssub => clamp (a - b)
  | .mul => ruleV f.fd f.sat (a * b)
  | .mulh => ruleV f.fd f.sat ((a * b) / (2 ^ f.fd.width : Nat))
  | .and => (ruleB f.fd (p a &&& p b), 0)
  | .or => (ruleB f.fd (p a ||| p b), 0)
  | .xor => (ruleB f.fd (p a ^^^ p b), 0)
  | .sll => (ruleB f.fd (p a <<< n), 0)
  | .srl => (ruleB f.fd (unsignedOf f.fa a >>> n), 0)
  | .sra => (ruleB f.fd (p (a / (2 ^ n : Nat))), 0)
  | .min => ruleV f.fd f.sat (min a b)
  | .max => ruleV f.fd f.sat (max a b)
  | .minu => ruleV f.fd f.sat (min (unsignedOf f.fa a) (unsignedOf f.fb b) : Nat)
  | .maxu => ruleV f.fd f.sat (max (unsignedOf f.fa a) (unsignedOf f.fb b) : Nat)

/-- A vector-vector integer form (R148, R149). -/
def State.intVV (s : State) (op : IntOp) (d a b : BitVec 5) (pm : BitVec 4) (fdw : BitVec 3) : Out :=
  s.word fun s => guard (s.groups [d, a, b]) (s.intFormats fdw fun f =>
    let h := s.hart
    .ok (s.putElems h.sew d.toNat pm fun i =>
      intResult op f h.sew (decInt f.fa (h.elem h.sew a.toNat i)) (decInt f.fb (h.elem h.sew b.toNat i))))

/-- A vector-scalar integer form: the left operand is vs2, the right one rs1[SEW−1:0] (R148, R149). -/
def State.intVX (s : State) (op : IntOp) (d a b : BitVec 5) (pm : BitVec 4) (fdw : BitVec 3) : Out :=
  s.word fun s => guard (s.groups [d, b]) (s.intFormats fdw fun f =>
    let h := s.hart
    let y := decInt f.fb ((s.x a).toNat % 2 ^ h.sew)
    .ok (s.putElems h.sew d.toNat pm fun i => intResult op f h.sew (decInt f.fa (h.elem h.sew b.toNat i)) y))

/-- The formats of MAJ 15: the signed integer format of width SEW (R150). -/
def Hart.immFormats (h : Hart) : Formats :=
  let f := Fmt.nativeInt h.sew
  ⟨f, f, f, .rne, false⟩

/-- An immediate form of an operation of Table 3 (R150). -/
def State.intVI (s : State) (op : IntOp) (d b : BitVec 5) (pm : BitVec 4) (i : Int) : Out :=
  s.word fun s => guard (s.groups [d, b]) (
    let h := s.hart
    let f := h.immFormats
    .ok (s.putElems h.sew d.toNat pm fun e => intResult op f h.sew (decInt f.fa (h.elem h.sew b.toNat e)) i))

/-! ### MAJ 13 -/

/-- a + b (R149). -/
def execVaddVV (d a b : BitVec 5) (p : BitVec 4) (f : BitVec 3) (s : State) : Out := s.intVV .add d a b p f

/-- a − b (R149). -/
def execVsubVV (d a b : BitVec 5) (p : BitVec 4) (f : BitVec 3) (s : State) : Out := s.intVV .sub d a b p f

/-- a + b clamped (R149). -/
def execVsaddVV (d a b : BitVec 5) (p : BitVec 4) (f : BitVec 3) (s : State) : Out := s.intVV .sadd d a b p f

/-- a − b clamped (R149). -/
def execVssubVV (d a b : BitVec 5) (p : BitVec 4) (f : BitVec 3) (s : State) : Out := s.intVV .ssub d a b p f

/-- a × b (R149). -/
def execVmulVV (d a b : BitVec 5) (p : BitVec 4) (f : BitVec 3) (s : State) : Out := s.intVV .mul d a b p f

/-- The high half of the product (R149). -/
def execVmulhVV (d a b : BitVec 5) (p : BitVec 4) (f : BitVec 3) (s : State) : Out := s.intVV .mulh d a b p f

/-- Bitwise and (R149). -/
def execVandVV (d a b : BitVec 5) (p : BitVec 4) (f : BitVec 3) (s : State) : Out := s.intVV .and d a b p f

/-- Bitwise or (R149). -/
def execVorVV (d a b : BitVec 5) (p : BitVec 4) (f : BitVec 3) (s : State) : Out := s.intVV .or d a b p f

/-- Bitwise exclusive or (R149). -/
def execVxorVV (d a b : BitVec 5) (p : BitVec 4) (f : BitVec 3) (s : State) : Out := s.intVV .xor d a b p f

/-- Shift left (R149). -/
def execVsllVV (d a b : BitVec 5) (p : BitVec 4) (f : BitVec 3) (s : State) : Out := s.intVV .sll d a b p f

/-- Logical shift right (R149). -/
def execVsrlVV (d a b : BitVec 5) (p : BitVec 4) (f : BitVec 3) (s : State) : Out := s.intVV .srl d a b p f

/-- Arithmetic shift right (R149). -/
def execVsraVV (d a b : BitVec 5) (p : BitVec 4) (f : BitVec 3) (s : State) : Out := s.intVV .sra d a b p f

/-- The smaller (R149). -/
def execVminVV (d a b : BitVec 5) (p : BitVec 4) (f : BitVec 3) (s : State) : Out := s.intVV .min d a b p f

/-- The larger (R149). -/
def execVmaxVV (d a b : BitVec 5) (p : BitVec 4) (f : BitVec 3) (s : State) : Out := s.intVV .max d a b p f

/-- The smaller of the unsigned patterns (R149). -/
def execVminuVV (d a b : BitVec 5) (p : BitVec 4) (f : BitVec 3) (s : State) : Out := s.intVV .minu d a b p f

/-- The larger of the unsigned patterns (R149). -/
def execVmaxuVV (d a b : BitVec 5) (p : BitVec 4) (f : BitVec 3) (s : State) : Out := s.intVV .maxu d a b p f

/-! ### MAJ 14 -/

/-- a + b, with a scalar right operand (R149). -/
def execVaddVX (d a b : BitVec 5) (p : BitVec 4) (f : BitVec 3) (s : State) : Out := s.intVX .add d a b p f

/-- a − b, with a scalar right operand (R149). -/
def execVsubVX (d a b : BitVec 5) (p : BitVec 4) (f : BitVec 3) (s : State) : Out := s.intVX .sub d a b p f

/-- a + b clamped, with a scalar right operand (R149). -/
def execVsaddVX (d a b : BitVec 5) (p : BitVec 4) (f : BitVec 3) (s : State) : Out := s.intVX .sadd d a b p f

/-- a − b clamped, with a scalar right operand (R149). -/
def execVssubVX (d a b : BitVec 5) (p : BitVec 4) (f : BitVec 3) (s : State) : Out := s.intVX .ssub d a b p f

/-- a × b, with a scalar right operand (R149). -/
def execVmulVX (d a b : BitVec 5) (p : BitVec 4) (f : BitVec 3) (s : State) : Out := s.intVX .mul d a b p f

/-- The high half of the product, with a scalar right operand (R149). -/
def execVmulhVX (d a b : BitVec 5) (p : BitVec 4) (f : BitVec 3) (s : State) : Out := s.intVX .mulh d a b p f

/-- Bitwise and, with a scalar right operand (R149). -/
def execVandVX (d a b : BitVec 5) (p : BitVec 4) (f : BitVec 3) (s : State) : Out := s.intVX .and d a b p f

/-- Bitwise or, with a scalar right operand (R149). -/
def execVorVX (d a b : BitVec 5) (p : BitVec 4) (f : BitVec 3) (s : State) : Out := s.intVX .or d a b p f

/-- Bitwise exclusive or, with a scalar right operand (R149). -/
def execVxorVX (d a b : BitVec 5) (p : BitVec 4) (f : BitVec 3) (s : State) : Out := s.intVX .xor d a b p f

/-- Shift left, with a scalar right operand (R149). -/
def execVsllVX (d a b : BitVec 5) (p : BitVec 4) (f : BitVec 3) (s : State) : Out := s.intVX .sll d a b p f

/-- Logical shift right, with a scalar right operand (R149). -/
def execVsrlVX (d a b : BitVec 5) (p : BitVec 4) (f : BitVec 3) (s : State) : Out := s.intVX .srl d a b p f

/-- Arithmetic shift right, with a scalar right operand (R149). -/
def execVsraVX (d a b : BitVec 5) (p : BitVec 4) (f : BitVec 3) (s : State) : Out := s.intVX .sra d a b p f

/-- The smaller, with a scalar right operand (R149). -/
def execVminVX (d a b : BitVec 5) (p : BitVec 4) (f : BitVec 3) (s : State) : Out := s.intVX .min d a b p f

/-- The larger, with a scalar right operand (R149). -/
def execVmaxVX (d a b : BitVec 5) (p : BitVec 4) (f : BitVec 3) (s : State) : Out := s.intVX .max d a b p f

/-- The smaller of the unsigned patterns, with a scalar right operand (R149). -/
def execVminuVX (d a b : BitVec 5) (p : BitVec 4) (f : BitVec 3) (s : State) : Out := s.intVX .minu d a b p f

/-- The larger of the unsigned patterns, with a scalar right operand (R149). -/
def execVmaxuVX (d a b : BitVec 5) (p : BitVec 4) (f : BitVec 3) (s : State) : Out := s.intVX .maxu d a b p f

/-! ### MAJ 15 -/

/-- a + b with a signed immediate (R150). -/
def execVaddi (d b : BitVec 5) (p : BitVec 4) (i : BitVec 8) (s : State) : Out := s.intVI .add d b p i.toInt

/-- Bitwise and with a signed immediate (R150). -/
def execVandi (d b : BitVec 5) (p : BitVec 4) (i : BitVec 8) (s : State) : Out := s.intVI .and d b p i.toInt

/-- Bitwise or with a unsigned immediate (R150). -/
def execVori (d b : BitVec 5) (p : BitVec 4) (i : BitVec 8) (s : State) : Out := s.intVI .or d b p i.toNat

/-- Bitwise exclusive or with a signed immediate (R150). -/
def execVxori (d b : BitVec 5) (p : BitVec 4) (i : BitVec 8) (s : State) : Out := s.intVI .xor d b p i.toInt

/-- Shift left with a unsigned immediate (R150). -/
def execVslli (d b : BitVec 5) (p : BitVec 4) (i : BitVec 8) (s : State) : Out := s.intVI .sll d b p i.toNat

/-- Logical shift right with a unsigned immediate (R150). -/
def execVsrli (d b : BitVec 5) (p : BitVec 4) (i : BitVec 8) (s : State) : Out := s.intVI .srl d b p i.toNat

/-- Arithmetic shift right with a unsigned immediate (R150). -/
def execVsrai (d b : BitVec 5) (p : BitVec 4) (i : BitVec 8) (s : State) : Out := s.intVI .sra d b p i.toNat

/-- i − a, by rule V (R150). -/
def execVrsubi (d b : BitVec 5) (p : BitVec 4) (i : BitVec 8) (s : State) : Out :=
  s.word fun s => guard (s.groups [d, b]) (
    let h := s.hart
    let f := h.immFormats
    .ok (s.putElems h.sew d.toNat p fun e => ruleV f.fd false (i.toInt - decInt f.fa (h.elem h.sew b.toNat e))))

/-- The smaller of a and a signed immediate (R150). -/
def execVmini (d b : BitVec 5) (p : BitVec 4) (i : BitVec 8) (s : State) : Out := s.intVI .min d b p i.toInt

/-- The larger of a and a signed immediate (R150). -/
def execVmaxi (d b : BitVec 5) (p : BitVec 4) (i : BitVec 8) (s : State) : Out := s.intVI .max d b p i.toInt

/-- A signed immediate, by rule V (R150). -/
def execVmvi (d : BitVec 5) (p : BitVec 4) (i : BitVec 8) (s : State) : Out :=
  s.word fun s => guard (s.groups [d]) (
    let h := s.hart
    .ok (s.putElems h.sew d.toNat p fun _ => ruleV h.immFormats.fd false i.toInt))

/-- MIX of a and a key, at SEW 32 alone (R150). -/
def execVmixi (d b : BitVec 5) (p : BitVec 4) (i : BitVec 8) (s : State) : Out :=
  s.word fun s => guard (s.groups [d, b]) (
    let h := s.hart
    if h.sew ≠ 32 then .trap (formatFault 0)
    else .ok (s.putElems 32 d.toNat p fun e => ((mix (BitVec.ofNat 32 (h.elem 32 b.toNat e)) (i.setWidth 32)).toNat, 0)))

end Sys2Proof.Machine
end

