-- ==== Sys2Proof/Machine/VectorFloat.lean ====
section
/-! DEFINITION. Vector floating point: MAJ 16 and 17 (R151 to R154). -/

namespace Sys2Proof.Machine

/-- An operation's exact result with the flags it raises. -/
abbrev Op1 := Exact × BitVec 7

/-- NV where an operation is invalid or an operand is a signalling NaN (R54). -/
def invalid (r : Inv) : Op1 := (r.1, flagIf r.2 fNV)

/-- A NaN among the operands answers the operation: the default NaN, NV if one of them is signalling (R54, R152). -/
def nanFirst (xs : List Exact) (k : Op1) : Op1 :=
  if xs.any fun x => x.isNan then (.nan false, flagIf (xs.any fun x => x.isSig) fNV) else k

/-- a + b (R152, R55). -/
def opAdd (rm : Rm) (a b : Exact) : Op1 := nanFirst [a, b] (invalid (Exact.add (rm == .rdn) a b))

/-- a − b (R152, R55). -/
def opSub (rm : Rm) (a b : Exact) : Op1 := nanFirst [a, b] (invalid (Exact.sub (rm == .rdn) a b))

/-- a × b. -/
def opMul (a b : Exact) : Op1 := nanFirst [a, b] (invalid (Exact.mul a b))

/-- a / b: a finite nonzero value by zero gives an infinity and DZ (R152). -/
def opDiv (a b : Exact) : Op1 :=
  nanFirst [a, b] (let r := Exact.div a b; (r.1, flagIf r.2.1 fNV ||| flagIf r.2.2 fDZ))

/-- d ± a × b, fused: 0 × ∞ is invalid even when d is a NaN (R152). -/
def opFma (rm : Rm) (minus : Bool) (a b d : Exact) : Op1 :=
  let p := Exact.mul a b
  if !a.isNan && !b.isNan && p.2 then (.nan false, fNV)
  else nanFirst [a, b, d] (invalid (if minus then Exact.sub (rm == .rdn) d p.1 else Exact.add (rm == .rdn) d p.1))

/-- The root of a (R152). -/
def opSqrt (a : Exact) : Op1 := nanFirst [a] (invalid a.sqrt)

/-- x precedes y, with −0 below +0 (R153). -/
def belowFp (x y : Exact) : Bool :=
  match x.cmp y with
  | .lt => true
  | .gt => false
  | .eq => x.isZero && y.isZero && x.neg && !y.neg

/-- vfmin and vfmax: one NaN gives the other operand, two give a NaN (R153). -/
def opMinMax (isMax : Bool) (a b : Exact) : Op1 :=
  let fx := flagIf (a.isSig || b.isSig) fNV
  if a.isNan && b.isNan then (.nan false, fx)
  else if a.isNan then (b, fx)
  else if b.isNan then (a, fx)
  else (if isMax then (if belowFp a b then b else a) else (if belowFp b a then b else a), fx)

/-- The class code of an element (R153): `c` is the container of a format other than BX. -/
def classOf (f : Fmt) (x : Exact) : Nat :=
  match x with
  | .nan sig => if sig then 8 else 9
  | .inf n => if n then 0 else 7
  | .fin n m _ _ =>
    if m = 0 then (if n then 3 else 4)
    else if !f.isBx && !f.isInt && m < 2 ^ f.fbits then (if n then 2 else 5)
    else if n then 1 else 6

/-- Whether results of an integer source wrap or clamp as integers do (R64). -/
def asVal (fromInt : Bool) (r : Op1) : Val := ⟨r.1, r.2, fromInt⟩

/-- A floating form of two vector sources; `op` takes the rounding mode, a, b and the accumulator d (R151, R152). -/
def State.fpVV (s : State) (op : Rm → Exact → Exact → Exact → Op1) (d a b : BitVec 5) (pm : BitVec 4) (fdw : BitVec 3) : Out :=
  s.word fun s => guard (s.groups [d, a, b]) (s.fpFormats .two fdw fun f =>
    let h := s.hart
    .ok (s.putVals f.fd f.rm f.sat d.toNat pm fun i =>
      asVal false (op f.rm (h.value f.fa a.toNat i) (h.value f.fb b.toNat i) (h.value f.fd d.toNat i))))

/-- A floating form with a scalar right operand (R151). -/
def State.fpVX (s : State) (op : Rm → Exact → Exact → Exact → Op1) (d a b : BitVec 5) (pm : BitVec 4) (fdw : BitVec 3) : Out :=
  s.word fun s => guard (s.groups [d, b]) (s.fpFormats .twoScalar fdw fun f =>
    let h := s.hart
    let y := decode1 f.fb ((s.x a).toNat % 2 ^ h.sew)
    .ok (s.putVals f.fd f.rm f.sat d.toNat pm fun i =>
      asVal false (op f.rm (h.value f.fa b.toNat i) y (h.value f.fd d.toNat i))))

/-- A floating form of one source, vs2 (R151). -/
def State.fp1 (s : State) (u : FpUse) (op : Exact → Op1) (d b : BitVec 5) (pm : BitVec 4) (fdw : BitVec 3) : Out :=
  s.word fun s => guard (s.groups [d, b]) (s.fpFormats u fdw fun f =>
    let h := s.hart
    .ok (s.putVals f.fd f.rm f.sat d.toNat pm fun i => asVal f.fa.isInt (op (h.value f.fa b.toNat i))))

/-! ### MAJ 16 -/

/-- a + b (R152). -/
def execVfadd (d a b : BitVec 5) (p : BitVec 4) (f : BitVec 3) (s : State) : Out :=
  s.fpVV (fun rm a b _ => opAdd rm a b) d a b p f

/-- a − b (R152). -/
def execVfsub (d a b : BitVec 5) (p : BitVec 4) (f : BitVec 3) (s : State) : Out :=
  s.fpVV (fun rm a b _ => opSub rm a b) d a b p f

/-- a × b (R152). -/
def execVfmul (d a b : BitVec 5) (p : BitVec 4) (f : BitVec 3) (s : State) : Out :=
  s.fpVV (fun _ a b _ => opMul a b) d a b p f

/-- a / b (R152). -/
def execVfdiv (d a b : BitVec 5) (p : BitVec 4) (f : BitVec 3) (s : State) : Out :=
  s.fpVV (fun _ a b _ => opDiv a b) d a b p f

/-- d + a × b, rounded once (R152). -/
def execVfmac (d a b : BitVec 5) (p : BitVec 4) (f : BitVec 3) (s : State) : Out :=
  s.fpVV (fun rm a b d => opFma rm false a b d) d a b p f

/-- d − a × b, rounded once (R152). -/
def execVfnmac (d a b : BitVec 5) (p : BitVec 4) (f : BitVec 3) (s : State) : Out :=
  s.fpVV (fun rm a b d => opFma rm true a b d) d a b p f

/-- The smaller, −0 below +0 (R153). -/
def execVfmin (d a b : BitVec 5) (p : BitVec 4) (f : BitVec 3) (s : State) : Out :=
  s.fpVV (fun _ a b _ => opMinMax false a b) d a b p f

/-- The larger, −0 below +0 (R153). -/
def execVfmax (d a b : BitVec 5) (p : BitVec 4) (f : BitVec 3) (s : State) : Out :=
  s.fpVV (fun _ a b _ => opMinMax true a b) d a b p f

/-- The square root (R152). -/
def execVfsqrt (d b : BitVec 5) (p : BitVec 4) (f : BitVec 3) (s : State) : Out :=
  s.fp1 .one opSqrt d b p f

/-- Conversion from FA into FD (R154): CVT itself raises NV for a signalling NaN. -/
def execVfcvt (d b : BitVec 5) (p : BitVec 4) (f : BitVec 3) (s : State) : Out :=
  s.fp1 .convert (fun a => (a, 0)) d b p f

/-- |a| (R152). -/
def execVfabs (d b : BitVec 5) (p : BitVec 4) (f : BitVec 3) (s : State) : Out :=
  s.fp1 .one (fun a => nanFirst [a] (a.withSign false, 0)) d b p f

/-- −a (R152). -/
def execVfneg (d b : BitVec 5) (p : BitVec 4) (f : BitVec 3) (s : State) : Out :=
  s.fp1 .one (fun a => nanFirst [a] (a.negate, 0)) d b p f

/-- The sign of an element under a format: of a NaN, its sign bit (R152). -/
def Hart.signOf (h : Hart) (f : Fmt) (v e : Nat) : Bool :=
  let c := h.elem h.sew v e
  if f.isBx then c / 128 % 2 == 1 else c / 2 ^ (f.ebits + f.fbits) % 2 == 1

/-- |a| with the sign of b: a NaN b gives its sign bit and raises nothing (R152). -/
def execVfsgnj (d a b : BitVec 5) (p : BitVec 4) (f : BitVec 3) (s : State) : Out :=
  s.word fun s => guard (s.groups [d, a, b]) (s.fpFormats .two f fun k =>
    let h := s.hart
    .ok (s.putVals k.fd k.rm k.sat d.toNat p fun i =>
      let x := h.value k.fa a.toNat i
      asVal false (nanFirst [x] (x.withSign (h.signOf k.fb b.toNat i), 0))))

/-- The class code of a, written by rule B; no flag (R153). -/
def execVfclass (d b : BitVec 5) (p : BitVec 4) (f : BitVec 3) (s : State) : Out :=
  s.word fun s => guard (s.groups [d, b]) (s.fpFormats .classify f fun k =>
    let h := s.hart
    .ok (s.putElems h.sew d.toNat p fun i => (ruleB k.fd (classOf k.fa (h.value k.fa b.toNat i)), 0)))

/-! ### MAJ 17 -/

/-- a + b (R152). -/
def execVfaddVX (d a b : BitVec 5) (p : BitVec 4) (f : BitVec 3) (s : State) : Out :=
  s.fpVX (fun rm a b _ => opAdd rm a b) d a b p f

/-- a − b (R152). -/
def execVfsubVX (d a b : BitVec 5) (p : BitVec 4) (f : BitVec 3) (s : State) : Out :=
  s.fpVX (fun rm a b _ => opSub rm a b) d a b p f

/-- a × b (R152). -/
def execVfmulVX (d a b : BitVec 5) (p : BitVec 4) (f : BitVec 3) (s : State) : Out :=
  s.fpVX (fun _ a b _ => opMul a b) d a b p f

/-- d + a × b, rounded once (R152). -/
def execVfmacVX (d a b : BitVec 5) (p : BitVec 4) (f : BitVec 3) (s : State) : Out :=
  s.fpVX (fun rm a b d => opFma rm false a b d) d a b p f

/-- The smaller (R153). -/
def execVfminVX (d a b : BitVec 5) (p : BitVec 4) (f : BitVec 3) (s : State) : Out :=
  s.fpVX (fun _ a b _ => opMinMax false a b) d a b p f

/-- The larger (R153). -/
def execVfmaxVX (d a b : BitVec 5) (p : BitVec 4) (f : BitVec 3) (s : State) : Out :=
  s.fpVX (fun _ a b _ => opMinMax true a b) d a b p f

/-- b − a (R152). -/
def execVfrsubVX (d a b : BitVec 5) (p : BitVec 4) (f : BitVec 3) (s : State) : Out :=
  s.fpVX (fun rm a b _ => opSub rm b a) d a b p f

/-- b / a (R152). -/
def execVfrdivVX (d a b : BitVec 5) (p : BitVec 4) (f : BitVec 3) (s : State) : Out :=
  s.fpVX (fun _ a b _ => opDiv b a) d a b p f

end Sys2Proof.Machine
end

