-- ==== Sys2Proof/Machine/Access.lean ====
section
/-! DEFINITION. Memory accesses of a hart: the enumeration of pages, copy-on-write, the waits and the faults that an access meets,
its reads and its writes (R122 to R124, R164 to R170, R198, R226, R235 to R239, R289 to R291, R328, R333, R357, R358). -/

namespace Sys2Proof.Machine

/-! ### The free list and the page counts -/

/-- A field of a free-list descriptor (R290). -/
def State.fpWord (s : State) (desc off : Nat) : Word := BitVec.ofNat 64 (Memory.value s.mem (desc + off) 8)

/-- POP (R290): none when the list is empty. -/
def State.fpPop (s : State) (desc : Nat) : Option (Word × State) :=
  let head := s.fpWord desc 0
  if head = s.fpWord desc 8 then none
  else
    let at_ := (s.fpWord desc 24).toNat + 8 * (head &&& s.fpWord desc 16).toNat
    some (BitVec.ofNat 64 (Memory.value s.mem at_ 8), s.poke desc (leBytes 8 (head + 1).toNat) 8)

/-- PUSH (R290): a full list counts the page as lost. -/
def State.fpPush (s : State) (desc : Nat) (page : Word) : State :=
  let tail := s.fpWord desc 8
  let mask := s.fpWord desc 16
  if (tail - s.fpWord desc 0).toNat ≤ mask.toNat then
    let at_ := (s.fpWord desc 24).toNat + 8 * (tail &&& mask).toNat
    (s.poke at_ (leBytes 8 page.toNat) 8).poke (desc + 8) (leBytes 8 (tail + 1).toNat) 8
  else s.poke (desc + 32) (leBytes 8 (s.fpWord desc 32 + 1).toNat) 8

/-- The address of a page's count (R289). -/
def countAt (prt pa : Nat) : Nat := prt + 4 * pageIndex pa

/-- A page's count. -/
def State.pageCount (s : State) (prt pa : Nat) : Nat := Memory.value s.mem (countAt prt pa) 4

/-- The state with a page's count written. -/
def State.setCount (s : State) (prt pa n : Nat) : State := s.poke (countAt prt pa) (leBytes 4 n) 4

/-- The unit in which the memory that holds a page keeps poison (R356, Table 1). -/
def poisonUnit (pa : Nat) : Nat := if regionOf pa = .cxl then 64 else 32

/-- Units of poison of n bytes carried to another place, in the units of the memory there (R356, R357). -/
def movePoison (ps : List (Nat × Nat × PoisonAt)) (src dst n : Nat) : List (Nat × Nat × PoisonAt) :=
  let k := poisonUnit dst
  let moved := (ps.filter fun u => u.2.2 == .home && overlaps u.1 u.2.1 src n).flatMap fun u =>
    ((List.range ((u.2.1 + k - 1) / k)).map fun j => (dst + ((u.1 - src) / k + j) * k, k, PoisonAt.home))
  (ps.filter fun u => !overlaps u.1 u.2.1 dst n) ++ moved.eraseDups

/-- Sequence counters of lines advanced for every 8-byte unit of n bytes written (R248). -/
def State.stampRange (s : State) (pa n : Nat) : State :=
  if (regionOf pa).hasTags then
    { s with tags := (List.range ((n + 127) / 128)).foldl (fun t k =>
        tableSet t (pa + 128 * k) (s.tag (pa + 128 * k) + BitVec.ofNat 16 (min 16 ((n - 128 * k) / 8)))) s.tags }
  else s

/-- A 64 KiB page copied, its poison carried; the caches hold nothing of the destination after it (R124, R248, R291, R294, R357). -/
def State.copyPage (s : State) (src dst : Nat) : State :=
  let t := s.finishParts dst 65536
  (({ t with mem := Memory.copy t.mem src dst 65536, poison := movePoison t.poison src dst 65536 } : State).dropCopies none dst 65536).stampRange
    dst 65536

/-- A leaf with W set and COW clear. -/
def pteOwn (e : Word) : Word := (e ||| 4) &&& ~~~(0x20#64)

/-- The entry of a resolved copy-on-write leaf: a packet whose record waits for the page that the leaf named follows it to the page that
the resolution gave (R306). -/
def State.ownPage (s : State) (at_ : Nat) (e : Word) : State :=
  let f := fun (c : Option (Word × Nat)) => c.map fun k => if k.2 = at_ then (e, at_) else k
  let t := s.writePte at_ e
  { t with
    offers := t.offers.map fun o => { o with crecCow := f o.crecCow }
    gangs := t.gangs.map fun g => { g with crecCow := f g.crecCow } }

/-- The resolution of a write that met a copy-on-write leaf, with a free-list descriptor and a page count table (R291): none is
the copy-on-write fault. -/
def State.resolveWith (s : State) (desc prt : Nat) (e : Word) (at_ : Nat) : Option State :=
  if !pteSh e then some (s.ownPage at_ (pteOwn e))
  else if desc = 0 then none
  else
    match s.fpPop desc with
    | none => none
    | some (page, t) =>
      let old := ptePa e
      let n := s.pageCount prt old
      let own := fun (e : Word) => pteOwn e &&& ~~~(0x40#64)
      let copied := fun (t : State) =>
        (t.copyPage old page.toNat).ownPage at_
          (own ((e &&& ~~~(0xFFFFFFFFF0000#64)) ||| (page &&& 0xFFFFFFFFF0000)))
      if n = 0xFFFFFFFF then some (copied t)
      else if 2 ≤ n then some (copied (t.setCount prt old (n - 1)))
      else some ((t.fpPush desc page).ownPage at_ (pteOwn e))

/-- The resolution of a write of the current hart that met a copy-on-write leaf (R291). -/
def State.resolveCow (s : State) (e : Word) (at_ : Nat) : Option State :=
  s.resolveWith s.hart.fplist.toNat s.hart.prtbase.toNat e at_

/-! ### Pages of an access -/

/-- One element's access: its number, its address and its bytes. -/
structure Touch where
  el : Nat
  va : Word
  n : Nat
  deriving DecidableEq, Repr

/-- The pages that n bytes at an address touch. -/
def pagesAt (va : Word) (n : Nat) : List Word :=
  (List.range ((va.toNat % 65536 + (n - 1)) / 65536 + 1)).map fun k => pageOf va + BitVec.ofNat 64 (65536 * k)

/-- An address put into an ascending list. -/
def insertWord (w : Word) : List Word → List Word
  | [] => [w]
  | q :: r => if w.toNat < q.toNat then w :: q :: r else if w = q then q :: r else q :: insertWord w r

/-- The distinct pages of an access in ascending order. -/
def touchPages (ts : List Touch) : List Word :=
  ts.foldl (fun a t => (pagesAt t.va t.n).foldl (fun a p => if a.contains p then a else insertWord p a) a) []

/-- A touch has a byte on a page. -/
def Touch.on (t : Touch) (p : Word) : Bool := (pagesAt t.va t.n).contains p

/-- The lowest byte of some touches on a page. -/
def lowestByte (ts : List Touch) (p : Word) : Word :=
  (ts.filter fun t => t.on p).foldl (fun a t =>
    let b := if pageOf t.va = p then t.va else p
    if b.toNat < a.toNat then b else a) (p + 65535)

/-- How an access reaches memory: the space, its kind, and whether it is a scalar load or store. -/
structure Mode where
  space : BitVec 61
  acc : Acc
  scalar : Bool
  /-- Rows of a permuted set, which lie in tier H or a private drawer partition (R252). -/
  rows : Bool
  deriving DecidableEq, Repr

/-- A page translated: its virtual address, its physical address and its leaf. -/
abbrev PageMap := List (Word × Nat × Word)

/-- What the enumeration of an access found so far. -/
structure Found where
  s : State
  map : PageMap
  faults : List (Word × BitVec 8 × BitVec 4)
  poison : Option Nat
  /-- An entry of a walk that waits for its trunk (R287). -/
  blocked : Option Nat
  held : Option Word
  /-- Pages that this access made its own: what the resolution did stands only with the access (R291). -/
  owned : List Word

/-- The translation of a page that the convoy made before its present pass (R199, R205). -/
def State.pinAt (s : State) (m : Mode) (p : Word) : Option Pin :=
  match s.conv.pins with
  | none => none
  | some ps => ps.find? fun k => k.space == m.space && k.write == (m.acc == .write) && k.page == p

/-- The state whose convoy keeps the translations it has made, where a pass of it may be followed by another, but for those of some
pages. -/
def State.pin (s : State) (m : Mode) (map : PageMap) (but : List Word) : State :=
  match s.conv.pins with
  | none => s
  | some ps =>
    let new := map.filter fun e => (s.pinAt m e.1).isNone && !but.contains e.1
    let entry := fun (p : Word) => match s.leafOf s.hart.core m.space m.acc p with
      | (.leaf _ lg a, _) => (lg, a)
      | (.bad, _) | (.denied, _) | (.poisoned _, _) | (.blocked _, _) => (16, 0)
    { s with conv := { s.conv with pins := some (ps ++ new.map fun e =>
        ⟨m.space, m.acc == .write, e.1, e.2.1, e.2.2, (entry e.1).1, (entry e.1).2⟩) } }

/-- One page of an access is translated; a copy-on-write leaf is resolved (R198, R291). -/
def Found.page (f : Found) (m : Mode) (p : Word) : Found :=
  let look := fun (s : State) =>
    match s.pinAt m p with
    | some k => Trans.pa k.pa k.leaf
    | none => s.translate s.hart.core m.space s.hart.priv m.acc m.scalar p
  match look f.s with
  | .pa a e =>
    if m.rows && !f.s.privatePage a then { f with faults := f.faults ++ [(p, 0x07, 4)] }
    else { f with map := f.map ++ [(p, a, e)] }
  | .fault c k => { f with faults := f.faults ++ [(p, c, if m.rows && c == 0x07 && k == 5 then 4 else k)] }
  | .poison u => { f with poison := some (f.poison.getD u) }
  | .blocked a => { f with blocked := some (f.blocked.getD a) }
  | .held => { f with held := some (f.held.getD p) }
  | .cow e at_ =>
    match f.s.resolveCow e at_ with
    | none => { f with faults := f.faults ++ [(p, 0x08, 6)] }
    | some t =>
      match look t with
      | .pa a e => { f with s := t, map := f.map ++ [(p, a, e)], owned := f.owned ++ [p] }
      | .fault c k => { f with faults := f.faults ++ [(p, c, k)] }
      | .poison _ | .blocked _ | .held | .cow _ _ => { f with faults := f.faults ++ [(p, 0x08, 6)] }

/-- Elements that touch one of some pages, as a mask (R328). -/
def touchMask (ts : List Touch) (ps : List Word) : Pred :=
  (ts.filter fun t => ps.any fun p => t.on p).foldl (fun a t => a ||| (1#8192 <<< t.el)) 0

/-- The trap of the pages of an access that faulted (R324, R328); `more` are the pages that other words of its convoy list. -/
def pageTrap (scalar : Bool) (ts : List Touch) (more : List Word) (faults : List (Word × BitVec 8 × BitVec 4)) : Option Trap :=
  match faults with
  | [] => none
  | (p, c, _) :: _ =>
    some ⟨c, lowestByte ts p, faults.map fun f => ⟨f.1, f.2.2⟩,
      if scalar then 0 else touchMask ts ((more.foldl (fun a p => insertWord p a) (faults.map fun f => f.1)).take 64), false, false⟩

/-- An uncorrectable-data trap at a physical address (R358). -/
def consumed (pa : Nat) : Trap := Trap.plain 0x10 (BitVec.ofNat 64 (lineOf pa))

/-- A stall-fault trap at a physical address (R333). -/
def stalledAt (pa : Nat) : Trap := Trap.plain 0x11 (BitVec.ofNat 64 (lineOf pa))

/-- A migration fault of an access that was held too long (R295). -/
def migrationTrap (scalar : Bool) (ts : List Touch) (p : Word) : Trap :=
  ⟨0x09, lowestByte ts p, [⟨p, 7⟩], if scalar then 0 else touchMask ts [p], false, false⟩

/-- The stall fault of a request that has waited at its trunk too long, or the wait for some lines (R333). -/
def State.readStall (s : State) (lines : List Nat) (write : Bool) : Res :=
  let late := match s.conv.expired with
    | some (.trunk ls w) => if w = write then ls.find? fun l => lines.contains l else none
    | _ => none
  match late with
  | some l => .trap (stalledAt l)
  | none => .wait (.trunk lines write)

/-- The pages of an access are enumerated and translated before any part of it is performed (R198). While a page of it is held or a walk
waits, which may yet end in a fault, poison that another walk met is not reported (R339). -/
def State.prepare (s : State) (m : Mode) (ts : List Touch) (k : State → PageMap → Res) : Res :=
  let f := (touchPages ts).foldl (fun f p => Found.page f m p) ⟨s, [], [], none, none, none, []⟩
  match pageTrap m.scalar ts s.conv.pages f.faults with
  | some t => .trap t
  | none =>
    match f.held with
    | some p => if s.conv.expired = some (.migration p) then .trap (migrationTrap m.scalar ts p) else .wait (.migration p)
    | none =>
      match f.blocked with
      | some a => s.readStall [lineOf a] false
      | none =>
        match f.poison with
        | some u => .trap (consumed u)
        | none => k (f.s.pin m f.map f.owned) f.map

/-- The first page of a trap's list, or the end of the address space. -/
def Trap.firstPage (t : Trap) : Nat := t.pages.foldl (fun a p => min a p.va.toNat) (2 ^ 64)

/-- The faults that the Outrider finds for two accesses are one trap, of the lowest faulting page (R324, R328). -/
def Trap.merge (a b : Trap) : Trap :=
  let low := if b.firstPage < a.firstPage then b else a
  { low with pages := a.pages ++ b.pages }

/-- The element mask of a trap of the Outrider, over every byte that an instruction's accesses touch (R328). -/
def Trap.over (t : Trap) (ts : List Touch) (more : List Word) : Trap :=
  { t with mask := touchMask ts (((t.pages.map fun p => p.va).foldl (fun a p => insertWord p a)
      (more.foldl (fun a p => insertWord p a) [])).take 64) }

/-- Two accesses of one instruction are translated before any part of it is performed, and what the Outrider finds in either goes
before the causes that execution finds (R198, R324, R328, R339). -/
def State.prepareBoth (s : State) (m : Mode) (ts : List Touch) (n : Mode) (us : List Touch)
    (k : State → PageMap → PageMap → Res) : Res :=
  let pages := fun (r : Res) => match r with
    | .trap t => if t.pages.isEmpty then none else some t
    | .ok _ | .wait _ | .replay _ | .hold _ _ | .susp _ _ _ | .pause _ _ _ | .keep _ _ => none
  match pages (s.prepare m ts fun s _ => .ok s), pages (s.prepare n us fun s _ => .ok s) with
  | some a, some b => .trap ((a.merge b).over (ts ++ us) s.conv.pages)
  | some a, none => .trap (a.over (ts ++ us) s.conv.pages)
  | none, some b => .trap (b.over (ts ++ us) s.conv.pages)
  | none, none => s.prepare m ts fun s map => s.prepare n us fun s map2 => k s map map2

/-- The mode of a hart's vector accesses to its own space. -/
def State.vecMode (s : State) (acc : Acc) : Mode := ⟨s.hart.ptbase, acc, false, false⟩

/-- The mode of a hart's scalar accesses. -/
def State.scaMode (s : State) (acc : Acc) : Mode := ⟨s.hart.ptbase, acc, true, false⟩

/-- The physical address of a byte whose page is translated. -/
def physOf (map : PageMap) (va : Word) : Nat :=
  match map.find? fun e => e.1 == pageOf va with
  | some e => e.2.1 + va.toNat % 65536
  | none => 0

/-- n bytes at an address as pieces that lie in one line each. -/
def pieces : Nat → Word → Nat → List (Word × Nat)
  | 0, _, _ => []
  | fuel + 1, va, n =>
    if n = 0 then []
    else
      let k := min n (128 - va.toNat % 128)
      (va, k) :: pieces fuel (va + BitVec.ofNat 64 k) (n - k)

/-- The physical pieces of some bytes. -/
def physPieces (map : PageMap) (va : Word) (n : Nat) : List (Nat × Nat) :=
  (pieces (n / 128 + 2) va n).map fun p => (physOf map p.1, p.2)

/-! ### Reads -/

/-- The lines of the drawer among some pieces that the hart's convoy has no copy of (R226, R369). -/
def State.unservedOf (s : State) (write : Bool) (ps : List (Nat × Nat)) : List Nat :=
  if ps.all fun p => !s.unserved write p.1 then []
  else ((ps.filter fun p => s.unserved write p.1).map fun p => lineOf p.1).eraseDups

/-- The L2 of the hart's die holds the line of a byte (R219). -/
def State.inL2 (s : State) (pa : Nat) : Bool := s.l2.contains (dieOf s.hart.core, lineOf pa)

/-- A unit of poison strikes a read by the hart: at its home, or, unless the read is made there, where the L2 of the hart's die holds the
line, in that copy (R219, R357). -/
def State.struck (s : State) (atHome : Bool) (u : Nat × Nat × PoisonAt) : Bool :=
  match u.2.2 with
  | .home => atHome || !s.inL2 u.1
  | .below => false
  | .l2 d => !atHome && d == dieOf s.hart.core

/-- A read of n bytes at a physical address consumes the poison of a unit, unless a write of the core that is still on its way
covers the whole unit (R230, R357, R359). `atHome` says that no cache serves the read (R126, R127). -/
def State.consumes (s : State) (cls : Cls) (atHome : Bool) (pa n : Nat) : Option Nat :=
  (s.poison.find? fun u => overlaps u.1 u.2.1 pa n && s.struck atHome u &&
    !((s.ahead cls).any fun w => overlaps w.pa w.bytes.length u.1 u.2.1 && w.lo ≤ u.1 && u.1 + u.2.1 ≤ w.hi)).map fun u => u.1

/-- The first poison that some pieces consume. -/
def State.consumedBy (s : State) (cls : Cls) (atHome : Bool) (ps : List (Nat × Nat)) : Option Nat :=
  if s.poison.isEmpty then none else ps.findSome? fun p => s.consumes cls atHome p.1 p.2

/-- The L2 of the hart's die allocates the lines of some pieces that missed in it, where they may be cached and hold no poison, unless a
hint prevents it (R169, R219). -/
def State.fillL2 (s : State) (na : Bool) (ps : List (Nat × Nat)) : State :=
  if na then s
  else ps.foldl (fun (t : State) p =>
    if t.cacheable p.1 && !t.inL2 p.1 && (t.poisonAt (lineOf p.1) 128).isNone then
      { t with l2 := t.l2 ++ [(dieOf t.hart.core, lineOf p.1)] } else t) s

/-- Some bytes as they stand before writes of the convoy, for the reads of its later words (R171, R190). -/
def State.recall (s : State) (w : Write) : List Undo :=
  [.scalar, .vector].map fun c => ⟨c, w.pa, s.readBytes c w.pa w.bytes.length⟩

/-- Writes of the convoy's earlier words join the retired ones, for a word that waits for them (R234). Its later words read memory as
it stood before them (R171, R190). -/
def State.flushPend (s : State) : State :=
  { s with
    hart := { s.hart with held := s.hart.held ++ s.conv.pend }
    conv := { s.conv with pend := [], undo := s.conv.undo ++ s.conv.pend.flatMap s.recall } }

/-- The convoy's own writes that a predicate names are flushed first: the state, and whether there were any. -/
def State.flushed (s : State) (p : Write → Bool) : State × Bool :=
  if s.conv.pend.any p then (s.flushPend, true) else (s, false)

/-- A queued write has waited at its trunk for longer than the stall threshold (R333). -/
def State.stalledWrite (s : State) (w : Write) : Bool :=
  ((s.downTrunk w.pa).isSome || s.needsSlot w) && s.stallthr.toNat < s.cycle - w.since

/-- A word waits for earlier writes of its hart: where the convoy made some of them, the words before it are complete; and where the
word reports it, a write that a trunk has held up too long is its stall fault (R131, R344). -/
def State.waitWrites (t : State) (own report : Bool) (ws : List Write) : Res :=
  match ws.find? fun w => report && t.conv.expired == some .writes && t.stalledWrite w with
  | some w => .trap (stalledAt w.pa)
  | none => if own then .hold t .writes else .wait .writes

/-- Writes of the hart that overlap some pieces, in a class. -/
def Write.meets (w : Write) (cls : Cls) (ps : List (Nat × Nat)) : Bool :=
  w.cls == cls && ps.any fun p => overlaps p.1 p.2 w.pa w.bytes.length

/-- What an access of the hart in a class must follow: the hart's overlapping writes of the class are performed at CORE scope, and those
that its orders name at the scope of the order; one that a trunk has held up too long is the access's stall fault (R130, R235 to R238,
R344). The writes of its own convoy come after its reads (R190). -/
def State.readFirst (s : State) (cls : Cls) (os : List Order) (ps : List (Nat × Nat)) (k : State → Res) : Res :=
  let wide := os.filter fun o => o.wide
  let sys := wide.filter fun o => o.sys
  let p := fun (w : Write) => w.meets cls ps || Order.names os s.hart w
  let far := fun (w : Write) => Order.names wide s.hart w || (w.mine s.hart && w.core != s.hart.core && w.meets cls ps)
  let t := (s.release p).drain far
  match t.hart.held.filter p ++ t.wq.filter far ++ t.unacked.filter (Order.names sys t.hart) with
  | [] => k t
  | ws => t.waitWrites false true ws

/-- Reads of some physical pieces return their data once what precedes them is performed, or consume poison (R190, R235, R358). -/
def State.readPieces (s : State) (cls : Cls) (ps : List (Nat × Nat)) (k : State → Res) : Res :=
  s.readFirst cls (s.hart.orders.filter fun o => o.reads && o.after == cls) ps fun s =>
    match s.consumedBy cls false ps with
    | some u => .trap (consumed u)
    | none => k s

/-- The reads of translated touches return their data, or wait, or consume poison (R190, R333, R358). `na` prevents allocation in L2
(R169). -/
def State.whenRead (s : State) (cls : Cls) (na : Bool) (map : PageMap) (ts : List Touch) (k : State → Res) : Res :=
  let ps := ts.flatMap fun t => physPieces map t.va t.n
  match s.unservedOf false ps with
  | [] => s.readPieces cls ps fun s => k (s.fillL2 na ps)
  | ls => s.readStall ls false

/-- The bytes of a translated range, as a read of a class finds them. -/
def State.loadBytes (s : State) (cls : Cls) (map : PageMap) (va : Word) (n : Nat) : List Byte :=
  (physPieces map va n).flatMap fun p => s.readBytes cls p.1 p.2

/-- Their little-endian value. -/
def State.loadNat (s : State) (cls : Cls) (map : PageMap) (va : Word) (n : Nat) : Nat := leNat (s.loadBytes cls map va n)

/-! ### Writes -/

/-- A write of the current hart: scalar writes, and all writes of a deterministic hart, keep program order (R48, R125). -/
def State.mkWrite (s : State) (cls : Cls) (pa : Nat) (bs : List WByte) (unit lo hi : Nat) (tr : Option (BitVec 9 × Word × Nat)) :
    Write :=
  ⟨s.hart.id, BitVec.zeroExtend 64 s.hart.gangid, s.hart.hartix, cls, s.hart.seq, cls == .scalar || s.hart.det, pa, bs, unit, lo, hi,
    s.hart.route, false, false, tr, 0, none⟩

/-- Whole bytes. -/
def wholeBytes (bs : List Byte) : List WByte := bs.map fun b => ⟨b, 0xFF⟩

/-- The translation that a write at an address of a space uses: the ASID, the address, and log2 of the size of its page (R288). -/
def State.transOf (s : State) (space : BitVec 61) (va : Word) : Option (BitVec 9 × Word × Nat) :=
  match s.leafOf s.hart.core space .write va with
  | (.leaf _ lg _, _) => some (space.extractLsb' 52 9, va, lg)
  | (.bad, _) | (.poisoned _, _) | (.denied, _) | (.blocked _, _) => none

/-- The writes of a run of consecutive bytes, one for each line; `lo` and `hi` bound the run within each page. -/
def State.runWrites (s : State) (cls : Cls) (map : PageMap) (unit : Nat) (va : Word) (bs : List WByte) : List Write :=
  ((pieces (bs.length / 128 + 2) va bs.length).foldl (fun (a : Nat × List Write) p =>
    let pa := physOf map p.1
    let page := pa / 65536 * 65536
    let lo := max page (pa - a.1)
    let hi := min (page + 65536) (pa + (bs.length - a.1))
    (a.1 + p.2, s.mkWrite cls pa ((bs.drop a.1).take p.2) unit lo hi (s.transOf s.hart.ptbase p.1) :: a.2)) (0, [])).2.reverse

/-- A row of bytes cut into runs: whole bytes together, a byte of which only some bits are written alone, other bytes left out. -/
def runsOf (off : Nat) : List WByte → List (Nat × List WByte)
  | [] => []
  | b :: r =>
    let rest := runsOf (off + 1) r
    if b.mask = 0 then rest
    else if b.mask = 0xFF then
      match rest with
      | (o, bs) :: t =>
        if o = off + 1 ∧ bs.all (fun k => k.mask == 0xFF) then (off, b :: bs) :: t else (off, [b]) :: rest
      | [] => [(off, [b])]
    else (off, [b]) :: rest

/-- The state whose convoy has the writes of one of its words added to its write phase, which take the next place in the hart's program
order (R190, R234). -/
def State.addWrites (s : State) (ws : List Write) : State :=
  { s with
    conv := { s.conv with pend := s.conv.pend ++ ws.map fun w => { w with seq := s.hart.seq } }
    hart := { s.hart with seq := s.hart.seq + 1 } }

/-- Elements from i on, as a mask. -/
def maskFrom (els : List Nat) (i : Nat) : Pred := (els.filter fun j => i ≤ j).foldl (fun (a : Pred) j => a ||| (1#8192 <<< j)) 0

/-- The pieces of some writes. -/
def piecesOf (ws : List Write) : List (Nat × Nat) := ws.map fun w => (w.pa, w.bytes.length)

/-- The drawer lines that the element group g of a writing instruction waits for: those of the first group may have returned already
(R226, R330). -/
def State.groupLines (s : State) (first g : Nat) (ws : List Write) : List Nat :=
  (if g = first then s else { s with hart := { s.hart with got := [] } }).unservedOf true (piecesOf ws)

/-- The element with which an element is performed: the elements of one stored block of 16, from `skip` elements before element 0 on, are
performed together with the first of them, so that no block is packed twice (R60, R166, R167; log entry 24). -/
def unitAt (block : Bool) (skip i : Nat) : Nat := if block then 16 * ((skip + i) / 16) - skip else i

/-- A vector instruction that writes memory element by element: `mk` gives the writes and the flags of the elements that a predicate
names, and `unit` the element with which each is performed, whose element group (R32) is its own. A group whose drawer lines have not
returned makes the convoy wait with the groups before it performed; once it has waited too long, the convoy is suspended with the rest
(R226, R330, R333). `hit` is what stops the word at an element: the elements before it are performed. -/
def State.writeElems (s : State) (els : List Nat) (unit : Nat → Nat) (mk : (Nat → Bool) → List Write × BitVec 7)
    (hit : Nat → Option (State → Pred → Res)) (k : State → Res) : Res :=
  let add := fun (r : List Write × BitVec 7) =>
    (s.addWrites (r.1.map fun w => { w with now := w.now || s.needsSlot w })).flag r.2
  let part := fun (p : Nat → Bool) => add (mk fun j => els.contains j && p j)
  let grp := fun (j : Nat) => unit j / max 1 s.hart.lanes
  let stop := els.find? fun i => (hit i).isSome
  let all := mk fun j => els.contains j && stop.all fun i => unit j < i
  let lines := fun (g : Nat) => s.groupLines (grp (els.headD 0)) g (mk fun j => els.contains j && grp j == g).1
  let late := if all.1.all fun w => regionOf w.pa != .drawer then none
    else els.find? fun i => (stop.all fun k => i < k) && lines (grp i) != []
  match late with
  | some i =>
    let done := part fun j => grp j < grp i
    let rest := maskFrom (els.filter fun j => grp i ≤ grp j) 0
    match s.readStall (lines (grp i)) true with
    | .trap t => .susp done t rest
    | .wait w => .pause done w rest
    | r => r
  | none =>
    match stop.bind fun i => (hit i).map fun f => f (part fun j => unit j < i) (maskFrom (els.filter fun j => i ≤ unit j) 0) with
    | some r => r
    | none => k (add all)

/-! ### Earlier accesses of the hart -/

/-- The hart's earlier writes that a predicate names are performed first; while one of them cannot be, the word waits (R128, R131,
R185, R344). `core` takes in the writes in the queues of the cores that the hart has stood on, which it may have read: a cumulative
release waits for them too (R239); `sys` asks for SYSTEM scope, where a cumulative release waits for every write of tier X, by
whatever agent, that the hart may have observed; and with `report` a write that a trunk has held up too long is the word's stall
fault. -/
def State.afterWrites (s : State) (p : Write → Bool) (core sys report : Bool) (k : State → Res) : Res :=
  let h := s.hart
  let q := fun (w : Write) => (w.mine h && p w) || (core && h.cores.contains w.core)
  let f := s.flushed p
  let t := (f.1.release p).drain q
  match t.hart.held.filter p ++ t.wq.filter q ++ t.unacked.filter (fun w => sys && (core || q w)) with
  | [] => k t
  | ws => t.waitWrites f.2 report ws

/-- The hart's earlier writes that a predicate names are performed at CORE scope first (R128, R230, R323). -/
def State.afterAccepted (s : State) (p : Write → Bool) (report : Bool) (k : State → Res) : Res :=
  let f := s.flushed p
  let t := f.1.release p
  match t.hart.held.filter p with
  | [] => k t
  | ws => t.waitWrites f.2 report ws

/-- The writes that a publication releases, as far as they can be performed, and whether that is all of them: the earlier writes of its
hart, and those in the queues of the cores the hart may have read (R143, R239). -/
def State.readyPub (s : State) (p : Pub) : State × Bool :=
  let mine := fun (w : Write) => w.gang == p.gang && w.hartix == p.hartix && w.seq < p.seq
  let t := (s.hart :: s.others).foldl (fun (t : State) h =>
    if p.mine h && h.held.any mine then
      let r := t.acceptOf h mine
      r.2.onHart h.id fun k => { k with held := r.1 }
    else t) s
  let q := fun (w : Write) => mine w || p.cores.contains w.core
  let t := (t.releaseEnded mine).drain q
  (t, !(t.hart :: t.others ++ t.ended).any (fun h => p.mine h && h.held.any mine) && !t.wq.any q)

/-- A publication at its ordering point: a watermark in a poisoned unit is not written, and the consumption is logged; the publication
stays to be reported while its hart has not exited (R143, R402). -/
def State.performPub (s : State) (p : Pub) : State :=
  if (s.poisonAt p.pa 8).isSome then
    let stays := s.harts.any p.mine || s.swapped.any fun k => p.mine k.keep
    { s with pubs := if stays then s.pubs.map fun q => if q = p then { q with poisoned := true } else q
      else s.pubs.erase p }.logConsumption p.hart (p.gang.extractLsb' 0 48) (BitVec.ofNat 64 (lineOf p.pa))
  else
    { s.pokeAs { engineWrite p.pa (leBytes 8 ((Memory.value s.mem p.pa 8 + p.amount.toNat) % 2 ^ 64)) 8 with
        hart := p.hart, gang := p.gang, hartix := p.hartix, seq := p.seq } with pubs := s.pubs.erase p }

/-- Nothing keeps a publication from its ordering point but the writes it releases (R263, R295, R369). -/
def State.reachesPub (s : State) (p : Pub) : Bool :=
  (s.downTrunk p.pa).isNone && !s.pageMoves.any fun m => overlaps m.old 65536 p.pa 8

/-- A publication is performed without a place of a trunk, or the line it needs is there (R214, R226). -/
def State.servesPub (s : State) (p : Pub) : Bool := s.reachesPub p && !s.overTrunk p.pa

/-- Publications of one hart are performed in order, as far as they can be (R143, R402). -/
def State.performPubs : List Pub → State → State
  | [], s => s
  | p :: r, s =>
    if p.poisoned then State.performPubs r s
    else
      let t := s.readyPub p
      if t.2 && t.1.servesPub p then State.performPubs r (t.1.performPub p) else t.1

/-- A publication has waited at its trunk for longer than the stall threshold (R333, R402). -/
def State.stalledPub (s : State) (p : Pub) : Bool :=
  ((s.downTrunk p.pa).isSome || s.overTrunk p.pa) && s.stallthr.toNat < s.cycle - p.since

/-- A word waits for the publications of the hart that a predicate names, and so for the earlier ones (R131, R402): one that met poison
is its trap, and one that a trunk has held up too long is its stall fault (R344). -/
def State.afterPubs (s : State) (p : Pub → Bool) (k : State → Res) : Res :=
  if !s.ownPubs.any p then k s
  else
    let t := State.performPubs s.ownPubs s
    match t.ownPubs.find? p with
    | none => k t
    | some q =>
      if q.poisoned then .trap { consumed q.pa with pub := true }
      else
        match t.ownPubs.find? fun q => t.conv.expired == some .writes && t.stalledPub q with
        | some q => .trap (stalledAt q.pa)
        | none => .wait .writes

/-- What an access at the ordering point must follow, by whether it reads and writes: the writes of the core, and the hart's own ones of its
class, that overlap it are performed, the convoy's other atomics on its lines among them, and every earlier one of its class where it
writes and its writes keep program order (R125, R126, R129, R130, R180, R235, R280). -/
def State.settlePieces (s : State) (cls : Cls) (ps : List (Nat × Nat)) (reads writes report : Bool) (k : State → Res) : Res :=
  let os := s.hart.orders.filter fun o => o.after == cls && (reads && o.reads || writes && o.writes)
  let inOrder := fun (w : Write) => writes && (cls == .scalar || s.hart.det) && w.cls == cls
  let wide := os.filter fun o => o.wide
  let hit := fun (w : Write) => ps.any fun p => overlaps p.1 p.2 w.pa w.bytes.length
  let near := fun (w : Write) => w.now && ps.any fun p => overlaps (lineOf p.1) 128 w.pa w.bytes.length
  let p := fun (w : Write) => w.meets cls ps || near w || inOrder w || Order.names os s.hart w
  let q := fun (w : Write) => ((w.core == s.hart.core || w.mine s.hart && w.cls == cls) && hit w) ||
    (w.mine s.hart && (near w || inOrder w)) || Order.names wide s.hart w
  let f := s.flushed fun w => p w || hit w
  let t := (f.1.release p).drain q
  match t.hart.held.filter p ++ t.wq.filter q ++ t.unacked.filter (Order.names (wide.filter fun o => o.sys) t.hart) with
  | [] => k t
  | ws => t.waitWrites f.2 report ws

/-- n bytes as they stand once the earlier writes of the convoy, and some more, are performed. -/
def State.bytesAfter (s : State) (cls : Cls) (more : List Write) (pa n : Nat) : List Byte :=
  let ws := (s.ahead cls ++ s.conv.pend ++ more).filter fun w => overlaps w.pa w.bytes.length pa n
  (List.range n).map fun k => overlay ws (pa + k) (Memory.get s.mem (pa + k))

/-! ### Hotness -/

/-- Additions to the hotness table for the active elements of a retired vector instruction (R292). -/
def State.addHot (s : State) (counter : Nat) (map : PageMap) (ts : List Touch) : State :=
  if s.hart.hotbase = 0 then s
  else
    let hs := map.filterMap fun e =>
      if pteHot e.2.2 && s.privatePage e.2.1 then
        let n := (ts.filter fun t => t.on e.1).foldl (fun (a : Nat × Option Nat) t => if a.2 = some t.el then a else (a.1 + 1, some t.el))
          (0, none) |>.1
        if n = 0 then none else some (⟨BitVec.zeroExtend 64 s.hart.gangid, s.hart.hotbase.toNat + 16 * pageIndex e.2.1, counter, n⟩ : Hot)
      else none
    { s with conv := { s.conv with hot := s.conv.hot ++ hs } }

/-- The hotness additions of the elements that a suspended word has performed (R292, R330). -/
def Res.hotPart (r : Res) (counter : Nat) (map : PageMap) (ts : List Touch) : Res :=
  match r with
  | .susp s t rest => .susp (s.addHot counter map (ts.filter fun x => !rest.getLsbD x.el)) t rest
  | .pause s w rest => .pause (s.addHot counter map (ts.filter fun x => !rest.getLsbD x.el)) w rest
  | .ok s => .ok s
  | .trap t => .trap t
  | .wait w => .wait w
  | .replay p => .replay p
  | .hold s w => .hold s w
  | .keep g w => .keep g w

end Sys2Proof.Machine
end

