-- ==== Sys2Proof/Machine/VectorPermute.lean ====
section
/-! DEFINITION. Compares, reductions, permutes and moves: MAJ 18 (R155 to R159). -/

namespace Sys2Proof.Machine

/-- The signed value of a container of a width. -/
def signedOf (w c : Nat) : Int := (BitVec.ofNat w c).toInt

/-- An integer compare into a predicate (R155). -/
def State.compare (s : State) (op : Nat → Nat → Nat → Bool) (d a b : BitVec 5) (pm : BitVec 4) : Out :=
  s.word fun s => guard (s.groups [a, b]) (
    let h := s.hart
    .ok (s.putMask d.toNat pm fun i => op h.sew (h.elem h.sew a.toNat i) (h.elem h.sew b.toNat i)))

/-- The floating format native to SEW of a MAJ 18 form; none at SEW 8 is a format fault (R95, R163). -/
def State.native (s : State) (k : Fmt → Res) : Res :=
  match Fmt.nativeFloat s.hart.sew with
  | none => .trap (formatFault 0)
  | some f => k f

/-- A floating compare: its truth and whether it is invalid (R155). -/
def State.fcompare (s : State) (op : Exact → Exact → Bool × Bool) (d a b : BitVec 5) (pm : BitVec 4) : Out :=
  s.word fun s => guard (s.groups [a, b]) (s.native fun f =>
    let h := s.hart
    let r := fun i => op (h.value f a.toNat i) (h.value f b.toNat i)
    let nv := (s.actives pm).any fun i => (r i).2
    .ok ((s.putMask d.toNat pm fun i => (r i).1).flag (flagIf nv fNV)))

/-- A compare of two values that are no NaN, invalid for a signalling NaN, or for any NaN where `loud` (R155). -/
def fpTest (loud : Bool) (p : Ordering → Bool) (x y : Exact) : Bool × Bool :=
  if x.isNan || y.isNan then (false, loud || x.isSig || y.isSig) else (p (x.cmp y), false)

/-- One halving of the reduction order (R75): t[i] := OP(t[i], t[i+P]). -/
def halve {α : Type} (op : α → α → α × BitVec 7) (p : Nat) (ts : List α) : List α × BitVec 7 :=
  ((ts.take p).zip (ts.drop p)).foldr (fun t a =>
    let r := op t.1 t.2
    (r.1 :: a.1, r.2 ||| a.2)) ([], 0)

/-- The halvings from 2^k elements down to one (R75). -/
def halvings {α : Type} (op : α → α → α × BitVec 7) : Nat → List α → List α × BitVec 7
  | 0, ts => (ts, 0)
  | k + 1, ts =>
    let r := halve op (2 ^ k) ts
    let q := halvings op k r.1
    (q.1, r.2 ||| q.2)

/-- log2 of the least power of two that is at least n, for n up to 8,192 (R75). -/
def log2Up (n : Nat) : Nat := ((List.range 14).find? fun k => n ≤ 2 ^ k).getD 13

/-- A reduction over VL elements in the order of R75: `at_` gives element i or the identity. -/
def reduceOver {α : Type} (op : α → α → α × BitVec 7) (vl : Nat) (start dflt : α) (at_ : Nat → α) : α × BitVec 7 :=
  let k := log2Up vl
  let r := halvings op k ((List.range (2 ^ k)).map fun i => if i < vl then at_ i else dflt)
  let q := op start (r.1.headD dflt)
  (q.1, r.2 ||| q.2)

/-- An integer reduction (R75, R156): `op` on containers, with its identity. The vs1 field names one register. -/
def State.reduce (s : State) (op : Nat → Nat → Nat → Nat) (ident : Nat → Nat) (d a b : BitVec 5) (pm : BitVec 4) : Out :=
  s.word fun s => guard (s.groups [d, b]) (
    let h := s.hart
    let w := h.sew
    if h.mvl = 0 then .ok s
    else
      let r := reduceOver (fun x y => (op w x y, 0)) h.vln (h.elem w a.toNat 0) (ident w)
        fun i => if s.active pm i then h.elem w b.toNat i else ident w
      .ok { s with hart := h.setElem w d.toNat 0 r.1 })

/-- A floating reduction, each step rounded into the native format (R75, R156). -/
def State.freduce (s : State) (op : Rm → Exact → Exact → Op1) (ident : Fmt → Nat) (d a b : BitVec 5) (pm : BitVec 4) : Out :=
  s.word fun s => guard (s.groups [d, b]) (s.native fun f =>
    let h := s.hart
    let w := h.sew
    if h.mvl = 0 then .ok s
    else
      let step := fun (x y : Nat) =>
        let r := op h.frm (decFloat f x) (decFloat f y)
        let c := cvtFloat f h.frm false r.1
        (c.1, r.2 ||| c.2)
      let r := reduceOver step h.vln (h.elem w a.toNat 0) (ident f)
        fun i => if s.active pm i then h.elem w b.toNat i else ident f
      .ok (({ s with hart := h.setElem w d.toNat 0 r.1 } : State).flag r.2))

/-- A form that writes containers of vd from a function (R157, R158). -/
def State.permute (s : State) (d : BitVec 5) (groups : List (BitVec 5)) (pm : BitVec 4) (f : State → Nat → Nat) : Out :=
  s.word fun s => guard (s.groups (d :: groups)) (.ok (s.putElems s.hart.sew d.toNat pm fun i => (f s i, 0)))

/-! ### Compares -/

/-- Equal (R155). -/
def execVcmpeq (d a b : BitVec 5) (p : BitVec 4) (s : State) : Out := s.compare (fun _ x y => x == y) d a b p

/-- Not equal (R155). -/
def execVcmpne (d a b : BitVec 5) (p : BitVec 4) (s : State) : Out := s.compare (fun _ x y => x != y) d a b p

/-- Less, signed (R155). -/
def execVcmplt (d a b : BitVec 5) (p : BitVec 4) (s : State) : Out := s.compare (fun w x y => signedOf w x < signedOf w y) d a b p

/-- Less, unsigned (R155). -/
def execVcmpltu (d a b : BitVec 5) (p : BitVec 4) (s : State) : Out := s.compare (fun _ x y => x < y) d a b p

/-- Less or equal, signed (R155). -/
def execVcmple (d a b : BitVec 5) (p : BitVec 4) (s : State) : Out := s.compare (fun w x y => signedOf w x ≤ signedOf w y) d a b p

/-- Less or equal, unsigned (R155). -/
def execVcmpleu (d a b : BitVec 5) (p : BitVec 4) (s : State) : Out := s.compare (fun _ x y => x ≤ y) d a b p

/-- Equal: false for a NaN, −0 equal to +0 (R155). -/
def execVfcmpeq (d a b : BitVec 5) (p : BitVec 4) (s : State) : Out := s.fcompare (fpTest false fun o => o == .eq) d a b p

/-- Less: false and invalid for a NaN (R155). -/
def execVfcmplt (d a b : BitVec 5) (p : BitVec 4) (s : State) : Out := s.fcompare (fpTest true fun o => o == .lt) d a b p

/-- Less or equal: false and invalid for a NaN (R155). -/
def execVfcmple (d a b : BitVec 5) (p : BitVec 4) (s : State) : Out := s.fcompare (fpTest true fun o => o != .gt) d a b p

/-- Unordered: true exactly where an operand is a NaN (R155). -/
def execVfcmpun (d a b : BitVec 5) (p : BitVec 4) (s : State) : Out :=
  s.fcompare (fun x y => (x.isNan || y.isNan, x.isSig || y.isSig)) d a b p

/-! ### Reductions -/

/-- Sum modulo 2^SEW (R156). -/
def execVredsum (d a b : BitVec 5) (p : BitVec 4) (s : State) : Out :=
  s.reduce (fun w x y => (x + y) % 2 ^ w) (fun _ => 0) d a b p

/-- Signed minimum (R156). -/
def execVredmin (d a b : BitVec 5) (p : BitVec 4) (s : State) : Out :=
  s.reduce (fun w x y => if signedOf w y < signedOf w x then y else x) (fun w => 2 ^ (w - 1) - 1) d a b p

/-- Signed maximum (R156). -/
def execVredmax (d a b : BitVec 5) (p : BitVec 4) (s : State) : Out :=
  s.reduce (fun w x y => if signedOf w x < signedOf w y then y else x) (fun w => 2 ^ (w - 1)) d a b p

/-- Unsigned minimum (R156). -/
def execVredminu (d a b : BitVec 5) (p : BitVec 4) (s : State) : Out :=
  s.reduce (fun _ x y => min x y) (fun w => 2 ^ w - 1) d a b p

/-- Unsigned maximum (R156). -/
def execVredmaxu (d a b : BitVec 5) (p : BitVec 4) (s : State) : Out :=
  s.reduce (fun _ x y => max x y) (fun _ => 0) d a b p

/-- Bitwise and (R156). -/
def execVredand (d a b : BitVec 5) (p : BitVec 4) (s : State) : Out :=
  s.reduce (fun _ x y => x &&& y) (fun w => 2 ^ w - 1) d a b p

/-- Bitwise or (R156). -/
def execVredor (d a b : BitVec 5) (p : BitVec 4) (s : State) : Out :=
  s.reduce (fun _ x y => x ||| y) (fun _ => 0) d a b p

/-- Bitwise exclusive or (R156). -/
def execVredxor (d a b : BitVec 5) (p : BitVec 4) (s : State) : Out :=
  s.reduce (fun _ x y => x ^^^ y) (fun _ => 0) d a b p

/-- Sum; the identity is −0 (R156). -/
def execVfredsum (d a b : BitVec 5) (p : BitVec 4) (s : State) : Out :=
  s.freduce (opAdd) (fun f => f.signBit true) d a b p

/-- Minimum; the identity is +∞ (R156). -/
def execVfredmin (d a b : BitVec 5) (p : BitVec 4) (s : State) : Out :=
  s.freduce (fun _ x y => opMinMax false x y) (fun f => f.maxFinite + 1) d a b p

/-- Maximum; the identity is −∞ (R156). -/
def execVfredmax (d a b : BitVec 5) (p : BitVec 4) (s : State) : Out :=
  s.freduce (fun _ x y => opMinMax true x y) (fun f => f.maxFinite + 1 + f.signBit true) d a b p

/-! ### Permutes and moves -/

/-- vs2 indexed by vs1, 0 at or beyond VL (R157). -/
def execVperm (d a b : BitVec 5) (p : BitVec 4) (s : State) : Out :=
  s.permute d [a, b] p fun s i =>
    let h := s.hart
    let k := h.elem h.sew a.toNat i
    if k < h.vln then h.elem h.sew b.toNat k else 0

/-- Elements moved up by rs1; elements below it are unchanged, whether active or not (R157). -/
def execVslideup (d a b : BitVec 5) (p : BitVec 4) (s : State) : Out :=
  s.word fun s => guard (s.groups [d, b]) (
    let h := s.hart
    let k := (s.x a).toNat
    let moved := (List.range h.vln).foldl (fun (t : Hart) i =>
      if i < k then t
      else if s.active p i then t.setElem h.sew d.toNat i (h.elem h.sew b.toNat (i - k))
      else if s.masksOut i then t.setElem h.sew d.toNat i 0
      else t) h
    .ok { s with hart := moved })

/-- Elements moved down by rs1, 0 from VL on (R157). -/
def execVslidedown (d a b : BitVec 5) (p : BitVec 4) (s : State) : Out :=
  s.permute d [b] p fun s i =>
    let h := s.hart
    let k := i + (s.x a).toNat
    if k < h.vln then h.elem h.sew b.toNat k else 0

/-- The elements that pm selects, packed to the bottom (R157). -/
def execVcompress (d b : BitVec 5) (p : BitVec 4) (s : State) : Out :=
  s.word fun s => guard (s.groups [d, b]) (
    let h := s.hart
    let sel := (List.range h.vln).filter fun i => h.pbit p.toNat i
    let packed := (List.range h.vln).foldl (fun (t : Hart) j =>
      if !s.allowed j then t
      else
        match sel[j]? with
        | some i => t.setElem h.sew d.toNat j (h.elem h.sew b.toNat i)
        | none => if maOf h.vtype then t.setElem h.sew d.toNat j 0 else t) h
    .ok { s with hart := packed })

/-- The bottom elements spread to the places that pm selects (R157). -/
def execVexpand (d b : BitVec 5) (p : BitVec 4) (s : State) : Out :=
  s.word fun s => guard (s.groups [d, b]) (
    let h := s.hart
    let spread := (List.range h.vln).foldl (fun (t : Hart × Nat) i =>
      if h.pbit p.toNat i then
        (if s.allowed i then t.1.setElem h.sew d.toNat i (h.elem h.sew b.toNat t.2) else t.1, t.2 + 1)
      else (if s.masksOut i then t.1.setElem h.sew d.toNat i 0 else t.1, t.2)) (h, 0)
    .ok { s with hart := spread.1 })

/-- The element number modulo 2^SEW (R158). -/
def execVid (d : BitVec 5) (p : BitVec 4) (s : State) : Out := s.permute d [] p fun _ i => i

/-- A scalar in every active element (R158). -/
def execVsplat (d a : BitVec 5) (p : BitVec 4) (s : State) : Out := s.permute d [] p fun s _ => (s.x a).toNat

/-- SEXT of the element that rs1 names, 0 at MVL and above; no mask (R159). -/
def execVext (d a b : BitVec 5) (s : State) : Out :=
  s.word fun s => guard (s.groups [b]) (
    let h := s.hart
    let k := (s.x a).toNat
    .ok (s.setX d (if k < h.mvl.toNat then BitVec.ofInt 64 (signedOf h.sew (h.elem h.sew b.toNat k)) else 0)))

/-- rs1 into the element that rs2 names; nothing at MVL and above; no mask (R159). -/
def execVins (d a b : BitVec 5) (s : State) : Out :=
  s.word fun s => guard (s.groups [d]) (
    let h := s.hart
    let k := (s.x b).toNat
    .ok (if k < h.mvl.toNat then { s with hart := h.setElem h.sew d.toNat k (s.x a).toNat } else s))

/-- vs2, with the side-array entries of every block below VL under BLK 1, whatever the mask (R158). -/
def execVmv (d b : BitVec 5) (p : BitVec 4) (s : State) : Out :=
  s.word fun s => guard (s.groups [d, b]) (
    let h := s.hart
    let t := s.putElems h.sew d.toNat p fun i => (h.elem h.sew b.toNat i, 0)
    .ok (if blkOf h.vtype then
      { t with hart := (List.range (h.vln / 16)).foldl (fun k e => k.setEntry h.sew d.toNat e (h.entry h.sew b.toNat e)) t.hart }
      else t))

/-- MIX of vs2 under the key rs1[31:0], at SEW 32 alone (R77, R158). -/
def execVmix (d a b : BitVec 5) (p : BitVec 4) (s : State) : Out :=
  s.word fun s => guard (s.groups [d, b]) (
    let h := s.hart
    if h.sew ≠ 32 then .trap (formatFault 0)
    else
      let key := (s.x a).setWidth 32
      .ok (s.putElems 32 d.toNat p fun i => ((mix (BitVec.ofNat 32 (h.elem 32 b.toNat i)) key).toNat, 0)))

end Sys2Proof.Machine
end

