-- ==== Sys2Proof/Machine/Predicate.lean ====
section
/-! DEFINITION. Predicate instructions: MAJ 19 (R160 to R162). -/

namespace Sys2Proof.Machine

/-- Bits 0 to VL − 1 of a predicate from a function; bits at VL and above are unchanged (R160). -/
def State.putBitsBelow (s : State) (pd : BitVec 6) (f : Nat → Bool) : State :=
  let old := s.hart.p[pd.toNat]?.getD 0
  { s with hart := s.hart.setPred pd.toNat (putPred old s.hart.vln fun i =>
      if s.reached i then f i else old.getLsbD i) }

/-- A form of two predicates (R160). -/
def State.predOp (s : State) (pd p q : BitVec 6) (op : Bool → Bool → Bool) : Out :=
  s.word fun s => .ok (s.putBitsBelow pd fun i => op (s.hart.pbit p.toNat i) (s.hart.pbit q.toNat i))

/-- ps1 and ps2 (R160). -/
def execPand (p q r : BitVec 6) (s : State) : Out := s.predOp p q r fun a b => a && b

/-- ps1 or ps2 (R160). -/
def execPor (p q r : BitVec 6) (s : State) : Out := s.predOp p q r fun a b => a || b

/-- ps1 exclusive or ps2 (R160). -/
def execPxor (p q r : BitVec 6) (s : State) : Out := s.predOp p q r fun a b => xor a b

/-- ps1 and not ps2 (R160). -/
def execPandn (p q r : BitVec 6) (s : State) : Out := s.predOp p q r fun a b => a && !b

/-- Not ps1 (R160). -/
def execPnot (p q : BitVec 6) (s : State) : Out := s.predOp p q q fun a _ => !a

/-- All ones (R160). -/
def execPset (p : BitVec 6) (s : State) : Out := s.predOp p p p fun _ _ => true

/-- All zeros (R160). -/
def execPclr (p : BitVec 6) (s : State) : Out := s.predOp p p p fun _ _ => false

/-- ps1 (R160). -/
def execPmv (p q : BitVec 6) (s : State) : Out := s.predOp p q q fun a _ => a

/-- Bit i is 1 where i is below rs1 (R160). -/
def execPsetx (p : BitVec 6) (a : BitVec 5) (s : State) : Out :=
  s.word fun s => .ok (s.putBitsBelow p fun i => i < (s.x a).toNat)

/-- The index of the lowest set bit, or −1 (R161). -/
def execPfirst (d : BitVec 5) (q : BitVec 6) (s : State) : Out :=
  s.word fun s => .ok (s.setX d
    (match (List.range s.hart.vln).find? fun i => s.hart.pbit q.toNat i with
      | some i => BitVec.ofNat 64 i
      | none => BitVec.allOnes 64))

/-- The number of set bits (R161). -/
def execPcount (d : BitVec 5) (q : BitVec 6) (s : State) : Out :=
  s.word fun s => .ok (s.setX d (BitVec.ofNat 64 ((List.range s.hart.vln).countP fun i => s.hart.pbit q.toNat i)))

/-- The byte at which bit i of a predicate stands in memory (R162). -/
def predTouches (base : Word) (els : List Nat) : List Touch := els.map fun i => ⟨i, base + BitVec.ofNat 64 (i / 8), 1⟩

/-- Bits 0 to VL − 1 from memory (R162). -/
def execPld (p : BitVec 6) (a : BitVec 5) (s : State) : Out :=
  s.word fun s =>
    let base := s.x a
    let ts := predTouches base ((List.range s.hart.vln).filter fun i => s.reached i)
    s.prepare (s.vecMode .read) ts fun s map => s.whenRead .vector false map ts fun s =>
      .ok ((s.putBitsBelow p fun i =>
        (s.loadNat .vector map (base + BitVec.ofNat 64 (i / 8)) 1).testBit (i % 8)).addHot 0 map ts)

/-- The bytes of a predicate: bits at VL and above are 0 (R162). -/
def predByte (h : Hart) (q k : Nat) : Byte :=
  BitVec.ofNat 8 ((List.range 8).foldl (fun a j => if 8 * k + j < h.vln && h.pbit q (8 * k + j) then a + 2 ^ j else a) 0)

/-- Bits 0 to VL − 1 into memory, byte by byte (R162, R330). -/
def execPst (a : BitVec 5) (r : BitVec 6) (s : State) : Out :=
  s.word fun s =>
    let base := s.x a
    let els := (List.range s.hart.vln).filter fun i => s.reached i
    let ts := predTouches base els
    s.prepare (s.vecMode .write) ts fun s map =>
      let row := fun (want : Nat → Bool) => (List.range ((s.hart.vln + 7) / 8)).map fun k =>
        if (List.range 8).any fun j => want (8 * k + j) then (⟨predByte s.hart r.toNat k, 0xFF⟩ : WByte) else ⟨0, 0⟩
      let mk := fun (want : Nat → Bool) => ((runsOf 0 (row want)).flatMap fun p =>
        s.runWrites .vector map 4 (base + BitVec.ofNat 64 p.1) p.2, (0 : BitVec 7))
      (s.writeElems els (fun i => i / 8 * 8) mk (fun _ => none) fun s => .ok (s.addHot 0 map ts)).hotPart 0 map ts

end Sys2Proof.Machine
end

