-- ==== Sys2Proof/Machine/VectorMem.lean ====
section
/-! DEFINITION. Vector loads and stores, strided, fault-only-first and compressed forms, gathers and scatters: MAJ 20 to 23
(R164 to R179). -/

namespace Sys2Proof.Machine

/-! ### Stored positions -/

/-- The address of element i of a unit-stride access, and where it lies: the byte of an INT4 element, the block of a BX one
(R164). DESIGN CHOICE: a sum that passes 2^64 wraps before the canonical check, as R171 and R176 say of the other forms; R164 states no
modulo (log entry 76). -/
def MemFmt.unitAddr (m : MemFmt) (sew : Nat) (base : Word) (i : Nat) : Word :=
  match m.stored with
  | none => base + BitVec.ofNat 64 (i * (sew / 8))
  | some f =>
    let q := m.skip + i
    if f = .int4 then base + BitVec.ofNat 64 (q / 2)
    else if f.isBx then base + BitVec.ofNat 64 (q / 16 * f.blockBytes)
    else base + BitVec.ofNat 64 (i * (f.cw / 8))

/-- Bytes that element i of a unit-stride access takes there: a whole block for BX. -/
def MemFmt.unitSize (m : MemFmt) (sew : Nat) : Nat :=
  match m.stored with
  | none => sew / 8
  | some f => if f = .int4 then 1 else if f.isBx then f.blockBytes else f.cw / 8

/-- The bytes that a unit-stride access reads for an element: of a BX element, the two bytes of its block's head and the bytes of
its field (R56, R164). -/
def MemFmt.unitTouch (m : MemFmt) (sew : Nat) (base : Word) (i : Nat) : List Touch :=
  let a := m.unitAddr sew base i
  match m.stored with
  | none => [⟨i, a, sew / 8⟩]
  | some f =>
    if f.isBx then
      let w := f.bxM + 1
      let j := (m.skip + i) % 16
      let lo := w * j / 8
      let hi := (w * j + w - 1) / 8
      [⟨i, a, 2⟩, ⟨i, a + BitVec.ofNat 64 (2 + lo), hi - lo + 1⟩]
    else [⟨i, a, m.unitSize sew⟩]

/-- The stored bits of element i from the bytes at its place: a nibble, a container, or its block (R164). -/
def MemFmt.rawOf (m : MemFmt) (i v : Nat) : Nat :=
  match m.stored with
  | some .int4 => if (m.skip + i) % 2 = 0 then v % 16 else v / 16
  | _ => v

/-- The exact value of stored bits (R72). -/
def MemFmt.exact (m : MemFmt) (i raw : Nat) : Exact :=
  match m.stored with
  | none => .zero false
  | some f => if f.isBx then decStoredBx f raw ((m.skip + i) % 16) else decode1 f raw

/-! ### Loads -/

/-- A stored block copied into the containers and the side-array entry of its register block (R166). -/
def Hart.copyBlock (h : Hart) (f : Fmt) (vd b block : Nat) : Hart :=
  let w := f.bxM + 1
  let k := (List.range 16).foldl (fun (k : Hart) j =>
    let field := block / 65536 / 2 ^ (w * j) % 2 ^ w
    k.setElem 8 vd (16 * b + j) (field / 2 ^ f.bxM * 128 + field % 2 ^ f.bxM)) h
  k.setEntry 8 vd b (block % 65536)

/-- Stored elements converted and written into vd (R72, R145, R166, R60): `raw` gives the stored bits of an element. -/
def State.putLoad (s : State) (m : MemFmt) (vd : Nat) (pm : BitVec 4) (raw : Nat → Nat) : State :=
  match m.reg, m.stored with
  | some rf, some sf =>
    let val := fun i => (⟨(m.exact i (raw i)).scale m.power, 0, sf.isInt⟩ : Val)
    if rf.isBx then
      (List.range (s.hart.vln / 16)).foldl (fun t b =>
        if m.copies && m.skip == 0 && (List.range 16).all fun j => s.active pm (16 * b + j) then
          { t with hart := t.hart.copyBlock rf vd b (raw (16 * b)) }
        else s.putBlock rf s.hart.frm vd pm val t b) s
    else if m.copies then
      s.putElems s.hart.sew vd pm fun i => (if sf = .int4 then intContainer .int4 (decInt .int4 (raw i)) else raw i, 0)
    else s.putVals rf s.hart.frm m.sat vd pm val
  | _, _ => s.putElems s.hart.sew vd pm fun i => (raw i, 0)

/-- A unit-stride load of the active elements (R171); `na` prevents allocation in L2 (R169). -/
def State.loadUnit (s : State) (m : MemFmt) (na : Bool) (vd : Nat) (pm : BitVec 4) (base : Word) : Res :=
  let sew := s.hart.sew
  let ts := (s.actives pm).flatMap fun i => m.unitTouch sew base i
  s.prepare (s.vecMode .read) ts fun s map => s.whenRead .vector na map ts fun s =>
    .ok ((s.putLoad m vd pm fun i =>
      m.rawOf i (s.loadNat .vector map (m.unitAddr sew base i) (m.unitSize sew))).addHot 0 map ts)

/-- A vector memory form: at VL 0 it accesses nothing and raises nothing beyond the illegal-instruction trap (R165, R340). -/
def State.vecMem (s : State) (groups : List (BitVec 5)) (f : State → Res) : Out :=
  s.word fun s => guard (s.groups groups) (if s.hart.vl = 0 then .ok s else f s)

/-- Unit-stride load (R171). -/
def execVld (d a : BitVec 5) (p : BitVec 4) (f : BitVec 2) (n : BitVec 1) (_t : BitVec 2) (s : State) : Out :=
  s.vecMem [d] fun s => s.memFmt f false fun m => s.loadUnit m (n == 1) d.toNat p (s.x a)

/-- The address of element i of a strided access: the byte stride is signed (R171). -/
def strideAddr (base stride : Word) (i : Nat) : Word := base + BitVec.ofNat 64 i * stride

/-- Strided load (R171). -/
def execVlds (d a b : BitVec 5) (p : BitVec 4) (f : BitVec 2) (na : BitVec 1) (_t : BitVec 2) (s : State) : Out :=
  s.vecMem [d] fun s => s.memFmt f true fun m =>
    let n := m.size s.hart.sew
    let addr := strideAddr (s.x a) (s.x b)
    let ts := (s.actives p).map fun i => (⟨i, addr i, n⟩ : Touch)
    s.prepare (s.vecMode .read) ts fun s map => s.whenRead .vector (na == 1) map ts fun s =>
      .ok ((s.putLoad m d.toNat p fun i => s.loadNat .vector map (addr i) n).addHot 1 map ts)

/-- What the translations of the pages of a touch answer for a read. -/
def State.touchTrans (s : State) (t : Touch) : List (Word × Trans) :=
  (pagesAt t.va t.n).map fun p => (p, s.translate s.hart.core s.hart.ptbase s.hart.priv .read false p)

/-- A page at which a fault-only-first load trims (R172). -/
def State.trimsAt (s : State) : Word × Trans → Bool
  | (_, .fault _ _) => true
  | (p, .held) => s.conv.expired == some (.migration p)
  | (_, .pa _ _) | (_, .poison _) | (_, .blocked _) | (_, .cow _ _) => false

/-- A touch lies on a page that a fault-only-first load trims at (R172). -/
def State.trims (s : State) (t : Touch) : Bool := (s.touchTrans t).any s.trimsAt

/-- The walks of some touches meet no poison, which is never trimmed, and none of them waits (R172, R287). -/
def State.walked (s : State) (ts : List Touch) (k : Res) : Res :=
  let rs := ts.flatMap fun t => (s.touchTrans t).map fun r => r.2
  match rs.findSome? fun r => match r with
    | .poison u => some u
    | .pa _ _ | .fault _ _ | .blocked _ | .held | .cow _ _ => none with
  | some u => .trap (consumed u)
  | none =>
    match rs.findSome? fun r => match r with
      | .blocked a => some a
      | .pa _ _ | .fault _ _ | .poison _ | .held | .cow _ _ => none with
    | some a => s.readStall [lineOf a] false
    | none => k

/-- Fault-only-first load (R172): a fault above the first active element trims VL. -/
def execVldff (d a : BitVec 5) (p : BitVec 4) (f : BitVec 2) (n : BitVec 1) (_t : BitVec 2) (s : State) : Out :=
  s.vecMem [d] fun s => s.memFmt f false fun m =>
    let touch := fun i => m.unitTouch s.hart.sew (s.x a) i
    let els := s.actives p
    match s.lowestActive p, els.find? fun i => (touch i).any s.trims with
    | some first, some k =>
      let k := if blkOf s.hart.vtype then k - k % 16 else k
      if k ≤ first then s.loadUnit m (n == 1) d.toNat p (s.x a)
      else s.walked (els.flatMap touch)
        ({ s with hart := { s.hart with vl := BitVec.ofNat 14 k } }.loadUnit m (n == 1) d.toNat p (s.x a))
    | _, _ => s.loadUnit m (n == 1) d.toNat p (s.x a)

/-! ### Compressed streams -/

/-- The groups of a compressed stream (R174): `read` gives the value of n bytes at an offset. For each group taken, its mask and
the offset of its elements; and the bytes used. -/
def streamGroups (read : Nat → Nat → Nat) (size budget : Nat) : Nat → Nat → List (Nat × Nat) × Nat
  | 0, used => ([], used)
  | fuel + 1, used =>
    if budget < used + 2 then ([], used)
    else
      let mask := read used 2
      let c := (List.range 16).countP fun j => mask.testBit j
      let after := used + 2 + c * size
      if budget < after then ([], used)
      else
        let r := streamGroups read size budget fuel after
        ((mask, used + 2) :: r.1, r.2)

/-- Element j of a group: its stored bits, 0 where absent (R174). -/
def groupElem (read : Nat → Nat → Nat) (size : Nat) (g : Nat × Nat) (j : Nat) : Nat :=
  if g.1.testBit j then read (g.2 + size * ((List.range j).countP fun k => g.1.testBit k)) size else 0

/-- Expansion of a compressed stream (R174). Its enumerated range carries no element of the Waybill's mask (log entry 24). -/
def execVldz (d a b : BitVec 5) (p : BitVec 4) (f : BitVec 2) (na : BitVec 1) (_t : BitVec 2) (s : State) : Out :=
  s.word fun s => guard (s.groups [d]) (s.memFmt f true fun m =>
    let n := m.size s.hart.sew
    let base := s.x a
    let budget := (s.x b).toNat
    let groups := s.hart.mvl.toNat / 16
    let range := min budget (groups * (2 + 16 * n))
    if budget < 2 ∨ groups = 0 then .ok { s with hart := { s.hart with vl := 0 } }
    else
      s.prepare (s.vecMode .read) [⟨8192, base, range⟩] fun s map =>
        let take := fun (s : State) => streamGroups (fun off k => s.loadNat .vector map (base + BitVec.ofNat 64 off) k) n budget groups 0
        let r := take s
        let bytes := if r.1.length < groups ∧ r.2 + 2 ≤ budget then r.2 + 2 else r.2
        s.whenRead .vector (na == 1) map [⟨8192, base, bytes⟩] fun s =>
          let read := fun (off k : Nat) => s.loadNat .vector map (base + BitVec.ofNat 64 off) k
          let r := take s
          let t := { s with hart := { s.hart with vl := BitVec.ofNat 14 (16 * r.1.length) } }
          let t := t.putLoad m d.toNat p fun i => groupElem read n (r.1[i / 16]?.getD (0, 0)) (i % 16)
          let hot := (t.actives p).filter fun i => (r.1[i / 16]?.getD (0, 0)).1.testBit (i % 16)
          let hts := hot.map fun i =>
            let g := r.1[i / 16]?.getD (0, 0)
            (⟨i, base + BitVec.ofNat 64 (g.2 + n * ((List.range (i % 16)).countP fun k => g.1.testBit k)), n⟩ : Touch)
          .ok ((t.setX a (base + BitVec.ofNat 64 r.2)).addHot 0 map hts))

/-! ### Stores -/

/-- The stored bits of a register element for a stored format that is not BX, with its flags (R72, R166). -/
def State.storeBits (s : State) (m : MemFmt) (vs i : Nat) : Nat × BitVec 7 :=
  let c := s.hart.elem s.hart.sew vs i
  match m.stored, m.reg with
  | some sf, some rf =>
    if m.copies then (if sf = .int4 then c % 16 else c, 0)
    else
      let r := cvt sf s.hart.frm m.sat rf.isInt ((s.hart.value rf vs i).scale (-m.power))
      (if sf = .int4 then r.1 % 16 else r.1, r.2)
  | _, _ => (c, 0)

/-- The image of a stored BX block that a store writes, with its flags (R60, R166, R167): `want` names the elements written,
`old` is the block as it stands. Elements of the block that the store does not write keep their decoded values. -/
def State.storeBlock (s : State) (m : MemFmt) (sf : Fmt) (vs k : Nat) (want : Nat → Bool) (old : Nat) : List Byte × BitVec 7 :=
  let el := fun j => 16 * k + j - m.skip
  let wants := fun j => m.skip ≤ 16 * k + j && want (el j)
  if m.copies && m.skip == 0 && (List.range 16).all wants then
    let w := sf.bxM + 1
    let fields := (List.range 16).foldl (fun a j =>
      let c := s.hart.elem 8 vs (el j)
      a + ((if c / 128 % 2 = 1 then 2 ^ sf.bxM else 0) + c % 2 ^ sf.bxM) * 2 ^ (w * j)) 0
    (leBytes 2 (s.hart.entry 8 vs k) ++ leBytes (2 * w) fields, 0)
  else
    let xs := (List.range 16).map fun j =>
      if wants j then
        (match m.reg with
          | some rf => (s.hart.value rf vs (el j)).scale (-m.power)
          | none => .zero false)
      else decStoredBx sf old j
    let b := packBx sf s.hart.frm xs
    let fx := (List.range 16).foldl (fun a j => if wants j then a ||| ((b.els[j]?.map fun x => x.fx).getD 0) else a) (0 : BitVec 7)
    (b.bytes sf, fx)

/-- The row of bytes of a unit-stride store from its base on, with its flags (R164, R167). -/
def State.storeRow (s : State) (m : MemFmt) (vs : Nat) (want : Nat → Bool) (old : Nat → Nat) : List WByte × BitVec 7 :=
  let vl := s.hart.vln
  let idx := (List.range vl).filter want
  match m.stored with
  | some sf =>
    if sf.isBx then
      let blocks := (List.range ((m.skip + vl + 15) / 16)).map fun k =>
        if idx.any fun i => (m.skip + i) / 16 == k then
          let r := s.storeBlock m sf vs k want (old k)
          (wholeBytes r.1, r.2)
        else (List.replicate sf.blockBytes ⟨0, 0⟩, 0)
      (blocks.flatMap fun b => b.1, blocks.foldl (fun a b => a ||| b.2) 0)
    else
      let r := idx.map fun i => (i, s.storeBits m vs i)
      let fx := r.foldl (fun a x => a ||| x.2.2) (0 : BitVec 7)
      if sf = .int4 then
        ((List.range ((m.skip + vl + 1) / 2)).map fun k =>
          r.foldl (fun (b : WByte) x =>
            let q := m.skip + x.1
            if q / 2 = k then
              let sh := 4 * (q % 2)
              ⟨b.val ||| BitVec.ofNat 8 (x.2.1 * 2 ^ sh), b.mask ||| BitVec.ofNat 8 (15 * 2 ^ sh)⟩
            else b) ⟨0, 0⟩, fx)
      else (rowOf (sf.cw / 8) vl want (fun i => (s.storeBits m vs i).1), fx)
  | none => (rowOf (s.hart.sew / 8) vl want (fun i => (s.storeBits m vs i).1), 0)
where
  /-- Elements of n whole bytes. -/
  rowOf (n vl : Nat) (want : Nat → Bool) (bits : Nat → Nat) : List WByte :=
    (List.range vl).flatMap fun i => if want i then wholeBytes (leBytes n (bits i)) else List.replicate n ⟨0, 0⟩

/-- The unit of single-copy atomicity that an at field asks for (R97, R168). -/
def unitOfAt (t : BitVec 2) : Nat := if t = 0 then 4 else if t = 1 then 8 else 16

/-- The elements of a stored BX block that the store does not write: some active element of the block is written and some position
is not (R167). -/
def MemFmt.partialBlock (m : MemFmt) (vl : Nat) (act : Nat → Bool) (k : Nat) : Bool :=
  !((List.range 16).all fun j => m.skip ≤ 16 * k + j && 16 * k + j - m.skip < vl && act (16 * k + j - m.skip))

/-- Unit-stride store (R171, R167). -/
def execVst (d a : BitVec 5) (p : BitVec 4) (f : BitVec 2) (_n : BitVec 1) (t : BitVec 2) (s : State) : Out :=
  s.vecMem [d] fun s => s.memFmt f false fun m =>
    let sew := s.hart.sew
    let base := s.x a
    let els := s.actives p
    let size := m.unitSize sew
    let ts := els.map fun i => (⟨i, m.unitAddr sew base i, size⟩ : Touch)
    let isBx := m.stored.any fun k => k.isBx
    s.prepare (s.vecMode .write) ts fun s map =>
      let old := fun k => leNat ((physPieces map (base + BitVec.ofNat 64 (k * size)) size).flatMap fun x => s.bytesAfter .vector [] x.1 x.2)
      let mk := fun (want : Nat → Bool) =>
        let r := s.storeRow m d.toNat want old
        ((runsOf 0 r.1).flatMap fun x => s.runWrites .vector map (unitOfAt t) (base + BitVec.ofNat 64 x.1) x.2, r.2)
      let hit := fun i =>
        if isBx && m.partialBlock s.hart.vln (s.active p) ((m.skip + i) / 16) then
          (s.consumedBy .vector false (physPieces map (m.unitAddr sew base i) size)).map fun u s rest => .susp s (consumed u) rest
        else none
      (s.writeElems els (unitAt isBx m.skip) mk hit fun s => .ok (s.addHot 0 map ts)).hotPart 0 map ts

/-- Strided store: the higher element wins where two cover a byte (R171). -/
def execVsts (d a b : BitVec 5) (p : BitVec 4) (f : BitVec 2) (_n : BitVec 1) (t : BitVec 2) (s : State) : Out :=
  s.vecMem [d] fun s => s.memFmt f true fun m =>
    let n := m.size s.hart.sew
    let addr := strideAddr (s.x a) (s.x b)
    let els := s.actives p
    let ts := els.map fun i => (⟨i, addr i, n⟩ : Touch)
    s.prepare (s.vecMode .write) ts fun s map =>
      let mk := fun (want : Nat → Bool) =>
        let r := (els.filter want).map fun i => (i, s.storeBits m d.toNat i)
        (r.flatMap fun x => s.runWrites .vector map (unitOfAt t) (addr x.1) (wholeBytes (leBytes n x.2.1)),
          r.foldl (fun k x => k ||| x.2.2) (0 : BitVec 7))
      (s.writeElems els (unitAt false 0) mk (fun _ => none) fun s => .ok (s.addHot 1 map ts)).hotPart 1 map ts

/-- The groups that a compressing store writes (R175): for each, its elements' bytes, the elements below its end, and the bytes
used after it. -/
def compressGroups (present : Nat → Bool) (bits : Nat → Nat) (size vl budget : Nat) : Nat → Nat → Nat → List (Nat × List Byte)
  | 0, _, _ => []
  | fuel + 1, g, used =>
    if vl ≤ 16 * g then []
    else
      let js := (List.range 16).filter fun j => 16 * g + j < vl && present (16 * g + j)
      let after := used + 2 + js.length * size
      if budget < after then []
      else
        let mask := js.foldl (fun a j => a + 2 ^ j) 0
        (used, leBytes 2 mask ++ js.flatMap fun j => leBytes size (bits (16 * g + j))) ::
          compressGroups present bits size vl budget fuel (g + 1) after

/-- ACTIVE(i) of a compressing store, whose groups take in the elements performed before a suspension: VSTART bounds it where the store
runs afresh (R145, R165, R175, R330). -/
def State.packs (s : State) (pm : BitVec 4) (i : Nat) : Bool :=
  (s.conv.only.isSome || s.hart.vstart.toNat ≤ i) && i < s.hart.vln && s.hart.pbit pm.toNat i

/-- Compressing store (R175): rs1 and VL are written at completion. A resumed store takes up at the first group left. -/
def execVstz (d a b : BitVec 5) (p : BitVec 4) (f : BitVec 2) (_n : BitVec 1) (t : BitVec 2) (s : State) : Out :=
  s.word fun s => guard (s.groups [d]) (s.memFmt f true fun m =>
    let n := m.size s.hart.sew
    let base := s.x a
    let budget := (s.x b).toNat
    let vl := s.hart.vln
    if vl = 0 then .ok s
    else
      let act := s.packs p
      let bits := fun i => s.storeBits m d.toNat i
      let gs := compressGroups (fun i => act i && (bits i).1 != 0) (fun i => (bits i).1) n vl budget ((vl + 15) / 16) 0 0
      let range := min budget ((vl + 15) / 16 * (2 + 16 * n))
      let used := gs.foldl (fun k g => k + g.2.length) 0
      s.prepare (s.vecMode .write) (if range = 0 then [] else [⟨8192, base, range⟩]) fun s map =>
        let els := (List.range (min vl (16 * gs.length))).filter fun i => s.conv.only.isNone || s.reached i
        let fx := fun (want : Nat → Bool) => (List.range vl).foldl (fun k i => if act i && want i then k ||| (bits i).2 else k) (0 : BitVec 7)
        let mk := fun (want : Nat → Bool) =>
          ((List.range gs.length).flatMap fun g =>
            if (List.range 16).any fun j => want (16 * g + j) then
              let x := gs[g]?.getD (0, [])
              s.runWrites .vector map (unitOfAt t) (base + BitVec.ofNat 64 x.1) (wholeBytes x.2)
            else [], fx want)
        let place := fun (i : Nat) => (gs[i / 16]?.getD (0, [])).1 + 2 +
          n * ((List.range (i % 16)).countP fun j => act (16 * (i / 16) + j) && (bits (16 * (i / 16) + j)).1 != 0)
        let hts := (els.filter fun i => act i && (bits i).1 != 0).map fun i =>
          (⟨i, base + BitVec.ofNat 64 (place i), n⟩ : Touch)
        let last := fun (s : State) =>
          let k := { s with hart := { s.hart with vl := BitVec.ofNat 14 (min vl (16 * gs.length)) } }
          .ok ((k.setX a (base + BitVec.ofNat 64 used)).addHot 0 map hts)
        let late := { s with conv := { s.conv with lateVl := some (BitVec.ofNat 14 (min vl (16 * gs.length))) } }
        (late.writeElems els (unitAt true 0) mk (fun _ => none) last).hotPart 0 map hts)

/-! ### Gathers and scatters -/

/-- An element of an indexed access: its bytes, and for a permuted one the set, the logical row, the physical row, the offset
in it and its version (R176, R177, R268). -/
structure Item where
  t : Touch
  perm : Option (Nat × Nat × Nat × Nat)
  ver : Option Word
  /-- Its row is locked for a commit: the element waits for it (R263, R271). -/
  locked : Bool
  deriving DecidableEq, Repr

/-- The row-range fault (R177, R252, R324). -/
def rowRange (l : Nat) : Trap := Trap.plain 0x0E (BitVec.ofNat 64 l)

/-- The unbound-set fault (R177, R272, R324). -/
def unboundSet (slot : BitVec 2) : Trap := Trap.plain 0x0D (BitVec.zeroExtend 64 slot)

/-- The set that a slot of the hart binds. -/
def State.boundSet (s : State) (slot : BitVec 2) : Option PSet :=
  ((s.hart.slots[slot.toNat]'(by have := slot.isLt; omega)).psd).bind fun d => s.setOf d

/-- The forward entry of a row: from the core's translation cache, or from FWD (R255). -/
def State.ptcFind (s : State) (psd l : Nat) : Option Nat :=
  (s.ptc.find? fun e => e.core == s.hart.core && e.psd == psd && e.row == l).map fun e => e.phys

/-- Where an element of logical row l that is translated to physical row q is performed, past the commits that forward it, and whether
its row is locked there (R263, R266, R271). The first number bounds the commits. -/
def PSet.rowFrom (k : PSet) (l : Nat) : Nat → Nat → Nat × Bool
  | 0, q => (q, false)
  | n + 1, q =>
    match k.moves.find? fun m => m.row == l && m.src == q with
    | none => (q, false)
    | some m =>
      match m.st with
      | .locked => (q, true)
      | .forwarding => k.rowFrom l n m.dst
      | .copying | .recopy _ => (q, false)

/-- The row where an element translated to physical row q is performed, and whether it waits for a commit there. -/
def PSet.rowNow (k : PSet) (l q : Nat) : Nat × Bool := k.rowFrom l (k.moves.length + 1) q

/-- The physical rows of elements, each given with its logical row, as FWD has them now (R252, R255). -/
def State.permRows (s : State) (set : PSet) (els : List (Nat × Nat)) (k : State → List ((Nat × Nat) × Nat) → Res) : Res :=
  let ts := (els.filter fun e => (s.ptcFind set.psd e.2).isNone).map fun e =>
    (⟨e.1, set.fwd + BitVec.ofNat 64 (4 * e.2), 4⟩ : Touch)
  s.prepare ⟨set.space, .read, false, false⟩ ts fun s map => s.whenRead .vector false map ts fun s =>
    let rows := els.map fun e =>
      (e, (s.ptcFind set.psd e.2).getD (s.loadNat .vector map (set.fwd + BitVec.ofNat 64 (4 * e.2)) 4))
    match rows.find? fun r => set.n + set.staging ≤ r.2 with
    | some r => .trap (rowRange r.1.2)
    | none => k s rows

/-- The rows of a permuted access (R177, R252, R255): `els` gives each element with its logical index. An element carries the version in
force as it is translated, which is the current one also where it is forwarded (R268, R269, R271). -/
def State.permItems (s : State) (slot : BitVec 2) (els : List (Nat × Nat)) (off : Word) (n : Nat)
    (k : State → BitVec 61 → List Item → Res) : Res :=
  match s.boundSet slot with
  | none => .trap (unboundSet slot)
  | some set =>
    match els.find? fun e => set.n ≤ e.2 || set.pitch < off.toNat + n with
    | some e => .trap (rowRange e.2)
    | none =>
      s.permRows set els fun s rows =>
        k s set.space (rows.map fun r =>
          let w := set.rowNow r.1.2 r.2
          ⟨⟨r.1.1, set.rowVa w.1 off.toNat, n⟩, some (set.psd, r.1.2, w.1, off.toNat), some set.ver, w.2⟩)

/-- The address of the lowest element of a permuted atomic that is misaligned, before any row-range fault (R180, R324): rows are
64-byte aligned, so the offset decides. -/
def State.permAligned (s : State) (slot : BitVec 2) (els : List (Nat × Nat)) (off : Word) (n : Nat) (k : Res) : Res :=
  match s.boundSet slot with
  | none => k
  | some set =>
    match (if off.toNat % n = 0 then none else els.find? fun e => e.2 < set.n) with
    | none => k
    | some e =>
      s.permRows set [e] fun _ rows =>
        let q := (rows.map fun r => (set.rowNow r.1.2 r.2).1).headD 0
        .trap (Trap.plain 0x03 (set.rowVa q off.toNat))

/-- The elements of an indexed access: the index scaled, or a logical row of the slot's set (R176, R177). -/
def State.indexed (s : State) (slot : BitVec 2) (els : List (Nat × Nat)) (base : Word) (n : Nat)
    (k : State → BitVec 61 → List Item → Res) : Res :=
  if slot = 0 then
    k s s.hart.ptbase (els.map fun e => ⟨⟨e.1, base + BitVec.ofNat 64 (e.2 * n), n⟩, none, none, false⟩)
  else s.permItems slot els base n k

/-- The versions of permuted elements join those of the convoy, which is then a commit point (R268, R383). -/
def State.joinVersions (s : State) (items : List Item) : State :=
  let vs := items.filterMap fun x => x.ver
  if vs.isEmpty then s else { s with conv := { s.conv with vers := s.conv.vers ++ vs, commit := true } }

/-- A word that names a permuted-set slot is a commit point (R383). -/
def Res.permCommit (slot : BitVec 2) (r : Res) : Res := if slot = 0 then r else r.committing

/-- The distinct logical indices of a recorded gather in order of first appearance, up to 64 (R257). -/
def distinctRows (ls : List Nat) : List Nat :=
  (ls.foldl (fun a l => if a.contains l then a else a ++ [l]) []).take 64

/-- The touch of an element. -/
def touchOf (items : List Item) (i : Nat) : Touch := ((items.find? fun x => x.t.el == i).map fun x => x.t).getD ⟨i, 0, 1⟩

/-- The indices of the active elements, read from the group at v (R176). -/
def State.indices (s : State) (v : BitVec 5) (pm : BitVec 4) : List (Nat × Nat) :=
  (s.actives pm).map fun i => (i, s.hart.elem s.hart.sew v.toNat i)

/-- The key of an element of the word in execution among those that its waiting convoy has read (R271). -/
def State.gatherKey (s : State) (el : Nat) : Nat := 8192 * s.conv.idx + el

/-- What the waiting convoy has read already of an element of the word in execution: its bits and its version. -/
def State.gatheredAt (s : State) (el : Nat) : Option (Nat × Word) :=
  if s.hart.gathered.isEmpty then none else (s.hart.gathered.find? fun e => e.1 == s.gatherKey el).map fun e => e.2

/-- The state whose convoy keeps what a word has read of some elements. -/
def State.keepRead (s : State) (es : List (Nat × Nat × Word)) : State :=
  { s with hart := { s.hart with gathered := s.hart.gathered ++ es.map fun e => (s.gatherKey e.1, e.2) } }

/-- Gather (R176 to R179). Elements whose rows are locked for a commit are read after it: the others are read at once (R271). -/
def execVgat (d a b : BitVec 5) (p : BitVec 4) (f sl : BitVec 2) (c na _t : BitVec 1) (s : State) : Out :=
  s.vecMem [d, b] fun s => Res.permCommit sl (s.memFmt f true fun m =>
    let n := m.size s.hart.sew
    let idx := s.indices b p
    s.indexed sl idx (s.x a) n fun s space items =>
      let ts := items.map fun x => x.t
      s.prepare ⟨space, .read, false, sl != 0⟩ ts fun s map =>
        let todo := items.filter fun x => !x.locked && (s.gatheredAt x.t.el).isNone
        s.whenRead .vector (na == 1) map (todo.map fun x => x.t) fun s =>
          let t := s.keepRead (todo.map fun x => (x.t.el, s.loadNat .vector map x.t.va n, x.ver.getD 0))
          if items.any fun x => (t.gatheredAt x.t.el).isNone then .keep t.hart.gathered .row
          else
            let items := items.map fun x => { x with ver := x.ver.bind fun _ => (t.gatheredAt x.t.el).map fun e => e.2 }
            let t := t.putLoad m d.toNat p fun i => ((t.gatheredAt i).map fun e => e.1).getD 0
            let t := (t.joinVersions items).addHot 2 map ts
            .ok (if c = 1 ∧ sl ≠ 0 ∧ !idx.isEmpty then
              { t with conv := { t.conv with samples := t.conv.samples ++ [(sl.toNat, distinctRows (idx.map fun e => e.2))] } }
              else t))

/-- The writes of one element of an indexed store to a space. A permuted element is performed as its convoy retires, on the copy that is
current then (R266, log entry 11). -/
def State.itemWrites (s : State) (space : BitVec 61) (map : PageMap) (unit : Nat) (x : Item) (bs : List Byte) : List Write :=
  ((s.runWrites .vector map unit x.t.va (wholeBytes bs)).foldl (fun (a : Nat × List Write) w =>
    (a.1 + w.bytes.length,
      (match x.perm with
        | none => w
        | some k => { w with
            now := true
            perm := some (k.1, k.2.1, k.2.2.1, k.2.2.2 + a.1)
            tr := s.transOf space (x.t.va + BitVec.ofNat 64 a.1) }) :: a.2)) (0, [])).2.reverse

/-- The physical pieces of the elements of an access. -/
def itemPieces (map : PageMap) (items : List Item) : List (Nat × Nat) :=
  items.flatMap fun x => physPieces map x.t.va x.t.n

/-- The writes can be performed as their convoy retires: no queued write comes before one of them (R271, R280). -/
def State.performable (s : State) (ws : List Write) : Bool :=
  let parts := s.wq.filter fun w => w.part
  ws.all fun w => !w.now || s.canPerform s.wq parts w

/-- The versions of the permuted elements that a suspended word has performed (R268, R330). -/
def Res.versionPart (r : Res) (items : List Item) : Res :=
  match r with
  | .susp s t rest => .susp (s.joinVersions (items.filter fun x => !rest.getLsbD x.t.el)) t rest
  | .pause s w rest => .pause (s.joinVersions (items.filter fun x => !rest.getLsbD x.t.el)) w rest
  | .ok s => .ok s
  | .trap t => .trap t
  | .wait w => .wait w
  | .replay p => .replay p
  | .hold s w => .hold s w
  | .keep g w => .keep g w

/-- Scatter: the higher element wins where two cover a byte (R176, R177, R179). A permuted one follows the hart's earlier accesses to
the same rows (R235, R280), and waits before the first element whose row is locked for a commit (R271). -/
def execVsca (d a b : BitVec 5) (p : BitVec 4) (f sl : BitVec 2) (_n t : BitVec 1) (s : State) : Out :=
  s.vecMem [d, b] fun s => Res.permCommit sl (s.memFmt f true fun m =>
    let n := m.size s.hart.sew
    s.indexed sl (s.indices b p) (s.x a) n fun s space items =>
      let ts := items.map fun x => x.t
      let els := ts.map fun x => x.el
      let locked := fun (i : Nat) => items.any fun x => x.t.el == i && x.locked
      let hit := fun (i : Nat) => if sl ≠ 0 ∧ locked i then some fun (s : State) rest => Res.pause s .row rest else none
      s.prepare ⟨space, .write, false, sl != 0⟩ ts fun s map =>
        let mk := fun (s : State) (want : Nat → Bool) =>
          let r := (items.filter fun x => want x.t.el).map fun x => (x, s.storeBits m d.toNat x.t.el)
          (r.flatMap fun x => s.itemWrites space map (if t = 1 then 8 else 4) x.1 (leBytes n x.2.1),
            r.foldl (fun k x => k ||| x.2.2) (0 : BitVec 7))
        let write := fun (s : State) =>
          ((s.writeElems els (unitAt false 0) (mk s) hit fun s => .ok ((s.joinVersions items).addHot 2 map ts)).versionPart items).hotPart 2 map ts
        if sl = 0 then write s
        else s.settlePieces .vector (itemPieces map items) false true true fun s =>
          if s.performable (mk s fun i => !locked i).1 then write s else .wait .writes)

end Sys2Proof.Machine
end

