-- ==== Sys2Proof/Machine/Matrix.lean ====
section
/-! DEFINITION. Matrix tiles and narrow-first replay: MAJ 26 (R76, R192 to R209, R212, R385 to R387). -/

namespace Sys2Proof.Machine

/-! ### Formats and levels -/

/-- L(f) (R201). -/
def Fmt.level : Fmt → Nat
  | .bx4 => 0
  | .bx6 => 1
  | .bx9 | .fp8e4 | .fp8e5 => 2
  | .fp16 | .bf16 => 3
  | _ => 4

/-- The format of a level (Table 8 of the number formats). -/
def levelFmt : Nat → Fmt
  | 0 => .bx4
  | 1 => .bx6
  | 2 => .bx9
  | 3 => .bf16
  | _ => .fp32

/-- OF(f, ℓ) (R201). -/
def usedFmt (f : Fmt) (l : Nat) : Fmt := if f.level ≤ l then f else levelFmt l

/-- The level after ℓ on a descriptor's ladder, if there is one (R202). -/
def Desc.nextLevel (d : Desc) (l : Nat) : Option Nat :=
  (List.range (d.ceil + 1)).find? fun k =>
    l < k && (usedFmt d.fa k != usedFmt d.fa l || usedFmt d.fb k != usedFmt d.fb l)

/-- The descriptor of a matrix word: without one, the native format of SEW and FP32 or INT32 (R194). -/
def State.tileDesc (s : State) (fdw : BitVec 3) (int : Bool) (k : Desc → Word → Res) : Res :=
  if fdw = 0 then
    match (if int then some (Fmt.nativeInt s.hart.sew) else Fmt.nativeFloat s.hart.sew) with
    | none => .trap (formatFault 0)
    | some f => k ⟨f, f, if int then .int32 else .fp32, .rne, false, 0, 0, 0, false, false⟩ 0
  else
    let w := s.x (descReg fdw)
    match Desc.read w with
    | none => .trap (illegalFormat w)
    | some d => k d w

/-- An operand format that a matrix form accepts under the type state (R194, R60, R66). -/
def Hart.tileFmt (h : Hart) (int : Bool) (f : Fmt) : Bool :=
  h.fits f && (if int then [Fmt.int4, .int8, .uint8, .int16].contains f
    else [Fmt.bx4, .bx6, .bx9, .fp8e4, .fp8e5, .fp16, .bf16, .fp32].contains f)

/-- A descriptor fits a matrix form with its layout bits (R194, R196, R209, R212). -/
def Hart.tileOk (h : Hart) (int : Bool) (ta tb : BitVec 1) (d : Desc) : Bool :=
  let rows := [d.fa, d.fb].any (fun f => f.isBx || f == .int4) || (!int && d.nff && d.try_ ≤ 2)
  d.fd == (if int then .int32 else .fp32) && h.tileFmt int d.fa && h.tileFmt int d.fb && !(int && d.chk) &&
    (!rows || (ta == 0 && tb == 1 && blkOf h.vtype))

/-! ### Operands -/

/-- An operand as stored along a row, from element 0 (R196). -/
def rowFmt (f : Fmt) : MemFmt := ⟨some f, some f, false, 0, false, 0⟩

/-- The base of the stored row that holds an operand element, and its position in the row: K runs along a row, or across rows
(R196, Table 3). -/
def rowOf (base stride : Word) (along : Bool) (line k : Nat) : Word × Nat :=
  if along then (base + BitVec.ofNat 64 line * stride, k) else (base + BitVec.ofNat 64 k * stride, line)

/-- One operand: format, base, stride, whether K runs along its rows, and its rows of A or columns of B. -/
structure Side2 where
  f : Fmt
  base : Word
  stride : Word
  along : Bool
  lines : List Nat
  deriving DecidableEq, Repr

/-- The bytes read for element k of a line. -/
def Side2.touch (o : Side2) (line k : Nat) : List Touch :=
  let r := rowOf o.base o.stride o.along line k
  ((rowFmt o.f).unitTouch 8 r.1 r.2).map fun t => { t with el := k }

/-- The bytes read for an operand (R198). -/
def Side2.touches (o : Side2) (n : Nat) : List Touch :=
  o.lines.flatMap fun l => (List.range n).flatMap fun k => o.touch l k

/-- The stored bits of element k of a line. -/
def State.tileRaw (s : State) (map : PageMap) (o : Side2) (line k : Nat) : Nat :=
  let r := rowOf o.base o.stride o.along line k
  let m := rowFmt o.f
  m.rawOf r.2 (s.loadNat .vector map (m.unitAddr 8 r.1 r.2) (m.unitSize 8))

/-- The exact values of a line. -/
def State.tileLine (s : State) (map : PageMap) (o : Side2) (n line : Nat) : List Exact :=
  (List.range n).map fun k => (rowFmt o.f).exact (rowOf o.base o.stride o.along line k).2 (s.tileRaw map o line k)

/-- A line narrowed, with the elements that saturated and those that became zero (R202, R203). -/
structure Line where
  xs : List Exact
  sat : Nat
  und : Nat
  deriving DecidableEq, Repr

/-- A list cut into blocks of 16. -/
def blocksOf {α : Type} (xs : List α) : List (List α) :=
  (List.range ((xs.length + 15) / 16)).map fun b => (xs.drop (16 * b)).take 16

/-- A block of 16 values narrowed into BX (R58, R202). -/
def narrowBlock (f : Fmt) (rm : Rm) (xs : List Exact) : Line :=
  let b := packBx f rm xs
  ⟨(List.range b.els.length).map fun i =>
      match b.els[i]? with
      | some x => decBx f.bxM x.sign x.mag b.e (b.q[i / 4]?.getD 0)
      | none => .zero false,
    b.els.countP fun x => x.sat, b.els.countP fun x => x.und⟩

/-- A line narrowed to a format (R202, R203). -/
def narrow (f : Fmt) (rm : Rm) (xs : List Exact) : Line :=
  if f.isBx then
    (blocksOf xs).foldl (fun a b => let n := narrowBlock f rm b; ⟨a.xs ++ n.xs, a.sat + n.sat, a.und + n.und⟩) ⟨[], 0, 0⟩
  else
    let rs := xs.map fun x => (x, cvtFloat f rm true x)
    ⟨rs.map fun r => decFloat f r.2.1,
      rs.countP fun r => r.1.isFin && r.2.2 &&& fOF != 0,
      rs.countP fun r => r.1.isFin && !r.1.isZero && (decFloat f r.2.1).isZero⟩

/-- A line at a level; none: as stored (R201, R202). -/
def lineAt (f : Fmt) (rm : Rm) (level : Option Nat) (xs : List Exact) : Line :=
  match level with
  | none => ⟨xs, 0, 0⟩
  | some l => if f.level ≤ l then ⟨xs, 0, 0⟩ else narrow (levelFmt l) rm xs

/-! ### Sums -/

/-- An FP32 value and the flags raised on the way to it. -/
abbrev Sum32 := Nat × BitVec 7

/-- An exact result rounded to FP32 under RNE (R76). -/
def toFp32 (r : Op1) : Sum32 := let c := cvtFloat .fp32 .rne false r.1; (c.1, r.2 ||| c.2)

/-- The sum of two FP32 values under RNE. -/
def addFp32 (a b : Nat) : Sum32 := toFp32 (opAdd .rne (decFloat .fp32 a) (decFloat .fp32 b))

/-- The difference of two FP32 values under RNE. -/
def subFp32 (a b : Nat) : Sum32 := toFp32 (opSub .rne (decFloat .fp32 a) (decFloat .fp32 b))

/-- Exact products of two blocks, and whether one is a NaN or invalid (R76). -/
def products (a b : List Exact) : List Inv :=
  (a.zip b).map fun p => Exact.mul p.1 p.2

/-- The exact sum of a value and some more; none when it is invalid or a value is a NaN. -/
def sumFrom (x : Exact) : List Exact → Option Exact
  | [] => if x.isNan then none else some x
  | y :: r =>
    let t := Exact.add false x y
    if x.isNan || y.isNan || t.2 then none else sumFrom t.1 r

/-- The exact sum of some values; none when it is invalid or a value is a NaN. -/
def exactSum : List Exact → Option Exact
  | [] => some (.zero false)
  | x :: r => sumFrom x r

/-- A block sum: the exact sum of the products rounded once to FP32 under RNE (R76). -/
def blockSum (a b : List Exact) : Sum32 :=
  match exactSum ((products a b).map fun p => p.1) with
  | none => (Fmt.fp32.nan, fNV)
  | some x => toFp32 (x, 0)

/-- The FP32 partial of a K-sum (R76). -/
def kSum (a b : List Exact) : Sum32 :=
  ((blocksOf a).zip (blocksOf b)).foldl (fun (p : Sum32) k =>
    let t := blockSum k.1 k.2
    let u := addFp32 p.1 t.1
    (u.1, p.2 ||| t.2 ||| u.2)) (0, 0)

/-- The magnitude of a value. -/
def Exact.abs (x : Exact) : Exact := x.withSign false

/-- A block's products cancel: all are finite, T is above zero and |S| is below 2^−c × T (R203). -/
def cancels (c : Nat) (a b : List Exact) : Bool :=
  let ps := (products a b).map fun p => p.1
  ps.all (fun x => x.isFin) &&
    (match exactSum ps, exactSum (ps.map Exact.abs) with
      | some x, some t => !t.isZero && Exact.cmp x.abs (t.scale (-(c : Int))) == .lt
      | _, _ => false)

/-! ### A pass -/

/-- The operands of a pass: rows of A, and the active columns of B with their numbers. -/
structure Tile where
  a : List (List Exact)
  b : List (Nat × List Exact)
  deriving DecidableEq, Repr

/-- MONITOR(pass) is within the budget of an MB register (R203, R204). -/
def within (mb : BitVec 53) (a b : List Line) (t : Tile) : Bool :=
  let sat := (a ++ b).foldl (fun n l => n + l.sat) 0
  let und := (a ++ b).foldl (fun n l => n + l.und) 0
  let c := (mb.extractLsb' 48 5).toNat
  let can := (t.a.flatMap fun r => t.b.flatMap fun k => (blocksOf r).zip (blocksOf k.2)).countP fun p => cancels c p.1 p.2
  sat ≤ (mb.extractLsb' 0 16).toNat && und ≤ (mb.extractLsb' 16 16).toNat && can ≤ (mb.extractLsb' 32 16).toNat

/-- The partials of a pass, by row and active column. -/
def Tile.partials (t : Tile) : List (List Sum32) := t.a.map fun r => t.b.map fun k => kSum r k.2

/-- A check fails: |ref − chk| > 2^−T × W, all three finite (R386). -/
def checkFails (tol : Nat) (ref chk w : Nat) : Bool :=
  let r := decFloat .fp32 ref
  let c := decFloat .fp32 chk
  let x := decFloat .fp32 w
  r.isFin && c.isFin && x.isFin &&
    Exact.cmp (Exact.add false r c.negate).1.abs (x.scale (-(tol : Int))) == .gt

/-- The sum of values added in order to +0, each addition rounded (R386). -/
def foldFp32 (xs : List Nat) : Nat := xs.foldl (fun a x => (addFp32 a x).1) 0

/-- W: the exact sum of the magnitudes of some products, rounded up to FP32 (R386). -/
def weight (ps : List Exact) : Nat :=
  match exactSum (ps.map Exact.abs) with
  | none => Fmt.fp32.nan
  | some x => (cvtFloat .fp32 .rup false x).1

/-- The exact sums, element by element, of some lines of n elements (R386). -/
def lineSum (n : Nat) (ls : List (List Exact)) : List Exact :=
  (List.range n).map fun k => (exactSum (ls.map fun l => l[k]?.getD (.zero false))).getD (.nan false)

/-- The first failing check of a pass, as TVAL's bits [16:0]: row checks of the columns first, then column checks of the rows (R386,
R387). -/
def Tile.firstFailure (t : Tile) (n tol : Nat) (ps : List (List Sum32)) : Option Nat :=
  let asum := lineSum n t.a
  let bsum := lineSum n (t.b.map fun k => k.2)
  let row := (List.range t.b.length).findSome? fun c =>
    match t.b[c]? with
    | none => none
    | some k =>
      let ref := foldFp32 (ps.map fun r => (r[c]?.map fun x => x.1).getD 0)
      let w := weight (t.a.flatMap fun r => (products r k.2).map fun p => p.1)
      if checkFails tol ref (kSum asum k.2).1 w then some k.1 else none
  match row with
  | some j => some j
  | none =>
    (List.range t.a.length).findSome? fun i =>
      let r := t.a[i]?.getD []
      let ref := foldFp32 ((ps[i]?.getD []).map fun x => x.1)
      let w := weight (t.b.flatMap fun k => (products r k.2).map fun p => p.1)
      if checkFails tol ref (kSum r bsum).1 w then some (65536 + i) else none

/-- How the result of a pass meets C (R194). -/
inductive TileOp where
  | add
  | set
  | sub
  deriving DecidableEq, Repr

/-- Containers of a tile written at once to its active columns (R206). -/
def Hart.putTile (h : Hart) (vacc : Nat) (cols : List Nat) (rows : List (List Nat)) : Hart :=
  (List.range rows.length).foldl (fun (h : Hart) i =>
    (cols.zip (rows[i]?.getD [])).foldl (fun (h : Hart) p => h.setElem 32 (vacc + i) p.1 p.2) h) h

/-- A container of C and the flags of its last rounding (R194, R207). -/
def TileOp.result (op : TileOp) (c : Nat) (p : Sum32) : Sum32 :=
  match op with
  | .set => p
  | .add => let r := addFp32 c p.1; (r.1, p.2 ||| r.2)
  | .sub => let r := subFp32 c p.1; (r.1, p.2 ||| r.2)

/-- Acceptance of a pass (R206 to R208). -/
def State.acceptPass (s : State) (op : TileOp) (vacc : Nat) (t : Tile) (ps : List (List Sum32)) (count : Option (Nat × Bool)) :
    State :=
  let cols := t.b.map fun k => k.1
  let out : List (List Sum32) := (List.range ps.length).map fun i =>
    (cols.zip (ps[i]?.getD [])).map fun p => op.result (s.hart.elem 32 (vacc + i) p.1) p.2
  let fx := out.foldl (fun (a : BitVec 7) (r : List Sum32) => r.foldl (fun a x => a ||| x.2) a) 0
  let t := { s with
    hart := s.hart.putTile vacc cols (out.map fun (r : List Sum32) => r.map fun (x : Sum32) => x.1)
    conv := { s.conv with tiles := s.conv.tiles ++ count.toList } }
  t.flag fx

/-- The lines of a pass and its tile. -/
def passAt (d : Desc) (level : Option Nat) (a : List (List Exact)) (b : List (Nat × List Exact)) : List Line × List Line × Tile :=
  let la := a.map fun r => lineAt d.fa d.rm level r
  let lb := b.map fun k => (k.1, lineAt d.fb d.rm level k.2)
  (la, lb.map fun k => k.2, ⟨la.map fun l => l.xs, lb.map fun k => (k.1, k.2.xs)⟩)

/-- One pass and what follows it (R195, R205, R387): acceptance, a trap, or the next pass. -/
def State.onePass (s : State) (op : TileOp) (d : Desc) (w : Word) (vacc n : Nat) (a : List (List Exact)) (b : List (Nat × List Exact))
    (p : Pass) : Res :=
  let next := fun (level : Option Nat) (rerun : Bool) => Res.replay ⟨level, rerun, p.words, s.conv.pins.getD []⟩
  let level := if d.nff then some (p.level.getD d.try_) else none
  let r := passAt d level a b
  let t := r.2.2
  let ps := t.partials
  let bad := if d.chk then t.firstFailure n (s.hart.mck.extractLsb' 0 5).toNat ps else none
  match bad with
  | some k =>
    if !s.hart.mck.getLsbD 5 && !p.rerun then next level true
    else
      let l := match level with | some l => BitVec.ofNat 3 l | none => Config.plainLevel w
      .trap (Trap.plain 0x15 (BitVec.ofNat 64 (k + 131072 * l.toNat)))
  | none =>
    match level with
    | none => .ok (s.acceptPass op vacc t ps none)
    | some l =>
      if within (s.hart.mb[d.mbi]?.getD 0) r.1 r.2.1 t then .ok (s.acceptPass op vacc t ps (some (l, false)))
      else
        match d.nextLevel l with
        | some l => next (some l) false
        | none => .ok (s.acceptPass op vacc t ps (some (l, true)))

/-- Passes until one is accepted; where each pass is a step of its own, only one (R205). -/
def passes (single : Bool) (one : Pass → Res) : Nat → Pass → Res
  | 0, p => .replay p
  | fuel + 1, p =>
    match one p with
    | .replay q => if single then .replay q else passes single one fuel q
    | .ok t => .ok t
    | .trap t => .trap t
    | .wait w => .wait w
    | .hold t w => .hold t w
    | .susp t k m => .susp t k m
    | .pause t w m => .pause t w m
    | .keep g w => .keep g w

/-- Columns of the tile (R192). -/
def Hart.tileCols (h : Hart) : Nat := 8 * h.plane

/-- Additions to the hotness table for the K indices that touched each page (R292, R328). -/
def kTouches (map : PageMap) (ts : List Touch) (n : Nat) : List Touch :=
  map.flatMap fun e => ((List.range n).filter fun k => ts.any fun t => t.el == k && t.on e.1).map fun k => ⟨k, e.1, 1⟩

/-- The state whose convoy keeps the translations it makes, for its later passes (R205). -/
def State.keepPins (s : State) : State := { s with conv := { s.conv with pins := some (s.conv.pins.getD []) } }

/-- What a matrix instruction answers whose reads wait: its first pass keeps the translations it has made, and waits with them from then on
(R199, R205). -/
def State.firstPins (s : State) : Res → Res
  | .wait w => if s.hart.pass.isNone then .replay ⟨none, false, [], s.conv.pins.getD []⟩ else .wait w
  | .ok t => .ok t
  | .trap t => .trap t
  | .replay p => .replay p
  | .hold t w => .hold t w
  | .susp t k m => .susp t k m
  | .pause t w m => .pause t w m
  | .keep g w => .keep g w

/-- A matrix instruction (R192 to R212): `run` makes the result from the operands, told whether it must read them anew for each pass, as
lines that modules share (R198). A pass that follows another uses the translations of the first (R205). -/
def State.tile (s : State) (int zero : Bool) (d a b : BitVec 5) (ts : BitVec 2) (ta tb : BitVec 1) (fdw : BitVec 3)
    (run : Desc → Word → Bool → State → List (List Exact) → List (Nat × List Exact) → Res) : Out :=
  s.word fun s =>
    let s := s.keepPins
    let h := s.hart
    let tr := trOf h.vtype
    if 32 < d.toNat + tr then .trap s.illegal
    else s.tileDesc fdw int fun desc w =>
      if !h.tileOk int ta tb desc then .trap (formatFault w)
      else
        let n := h.vln
        let cols := (List.range h.tileCols).filter fun j => h.pbit ts.toNat j
        if n = 0 then
          .ok (if zero then { s with hart := h.putTile d.toNat cols (List.replicate tr (cols.map fun _ => 0)) } else s)
        else
          let st := h.ts[ts.toNat]'(by have := ts.isLt; omega)
          let oa : Side2 := ⟨desc.fa, s.x a, (st.extractLsb' 0 32).signExtend 64, ta == 0, List.range tr⟩
          let ob : Side2 := ⟨desc.fb, s.x b, (st.extractLsb' 32 32).signExtend 64, tb == 1, cols⟩
          let ts := oa.touches n ++ ob.touches n
          s.prepare (s.vecMode .read) ts fun s map => s.firstPins (s.whenRead .vector false map ts fun s =>
            (run desc w (map.any fun e => s.sharedPa e.2.1) s (oa.lines.map fun i => s.tileLine map oa n i) (cols.map fun j => (j, s.tileLine map ob n j))).andThen
              fun s => .ok (s.addHot 1 map (kTouches map ts n)))

/-- A floating form. -/
def State.floatTile (s : State) (op : TileOp) (d a b : BitVec 5) (ts : BitVec 2) (ta tb : BitVec 1) (fdw : BitVec 3) : Out :=
  s.tile false (op == .set) d a b ts ta tb fdw fun desc w shared s xa xb =>
    passes (s.conv.onePass || shared) (s.onePass op desc w d.toNat s.hart.vln xa xb) 16 (s.hart.pass.getD ⟨none, false, [], []⟩)

/-- The integer of an exact integer value. -/
def Exact.toInt : Exact → Int
  | .fin n m _ _ => if n then -(m : Int) else (m : Int)
  | .nan _ | .inf _ => 0

/-- An integer form: exact products and sums, modulo 2^32 (R76, R209). -/
def State.intTile (s : State) (zero : Bool) (d a b : BitVec 5) (ts : BitVec 2) (ta tb : BitVec 1) (fdw : BitVec 3) : Out :=
  s.tile true zero d a b ts ta tb fdw fun _ _ _ s xa xb =>
    let cols := xb.map fun k => k.1
    let out := (List.range xa.length).map fun i => xb.map fun k =>
      let sum := ((xa[i]?.getD []).zip k.2).foldl (fun (t : Int) p => t + p.1.toInt * p.2.toInt) 0
      let c : Int := if zero then 0 else (s.hart.elem 32 (d.toNat + i) k.1 : Nat)
      ((c + sum) % (2 ^ 32 : Nat)).toNat
    .ok { s with hart := s.hart.putTile d.toNat cols out }

/-- C + P (R194). -/
def execMma (d a b : BitVec 5) (ts : BitVec 2) (t u : BitVec 1) (f : BitVec 3) (s : State) : Out :=
  s.floatTile .add d a b ts t u f

/-- P (R194). -/
def execMmaz (d a b : BitVec 5) (ts : BitVec 2) (t u : BitVec 1) (f : BitVec 3) (s : State) : Out :=
  s.floatTile .set d a b ts t u f

/-- C − P (R194). -/
def execMms (d a b : BitVec 5) (ts : BitVec 2) (t u : BitVec 1) (f : BitVec 3) (s : State) : Out :=
  s.floatTile .sub d a b ts t u f

/-- C + S modulo 2^32 (R194). -/
def execMmai (d a b : BitVec 5) (ts : BitVec 2) (t u : BitVec 1) (f : BitVec 3) (s : State) : Out :=
  s.intTile false d a b ts t u f

/-- S modulo 2^32 (R194). -/
def execMmaiz (d a b : BitVec 5) (ts : BitVec 2) (t u : BitVec 1) (f : BitVec 3) (s : State) : Out :=
  s.intTile true d a b ts t u f

end Sys2Proof.Machine
end

