-- ==== Sys2Proof/Machine/Copy.lean ====
section
/-! DEFINITION. Copies: MAJ 27 (R164, R186 to R190, R330, R332). -/

namespace Sys2Proof.Machine

/-! ### The shape record -/

/-- A shape record as it is read (R186, Table 5). -/
structure Shape where
  sbase : Word
  dbase : Word
  cursor : Nat
  fmt : BitVec 32
  ctrl : BitVec 32
  size : List Nat
  sstr : List Int
  dstr : List Int
  /-- Bytes 0x74 to 0x7F are zero. -/
  clean : Bool
  deriving DecidableEq, Repr

/-- A field of some bytes. -/
def fieldOf (bs : List Byte) (off n : Nat) : Nat := leNat ((bs.drop off).take n)

/-- A signed 32-bit field. -/
def signedField (bs : List Byte) (off : Nat) : Int := (BitVec.ofNat 32 (fieldOf bs off 4)).toInt

/-- The record in its 128 bytes. -/
def Shape.read (bs : List Byte) : Shape where
  sbase := BitVec.ofNat 64 (fieldOf bs 0 8)
  dbase := BitVec.ofNat 64 (fieldOf bs 8 8)
  cursor := fieldOf bs 0x10 8
  fmt := BitVec.ofNat 32 (fieldOf bs 0x18 4)
  ctrl := BitVec.ofNat 32 (fieldOf bs 0x1C 4)
  size := (List.range 7).map fun d => fieldOf bs (0x20 + 4 * d) 4
  sstr := (List.range 7).map fun d => signedField bs (0x3C + 4 * d)
  dstr := (List.range 7).map fun d => signedField bs (0x58 + 4 * d)
  clean := fieldOf bs 0x74 12 == 0

/-- NDIM. -/
def Shape.ndim (r : Shape) : Nat := (r.ctrl.extractLsb' 21 3).toNat

/-- PERM_j. -/
def Shape.perm (r : Shape) (j : Nat) : Nat := (r.ctrl.extractLsb' (3 * j) 3).toNat

/-- T, the product of the sizes. -/
def Shape.total (r : Shape) : Nat := (r.size.take r.ndim).foldl (fun a n => a * n) 1

/-- The strides of one side come to whole bytes (R187). -/
def wholeStrides (f : Option Fmt) (strides : List Int) : Bool :=
  let unit : Int := match f with | some k => if k = .int4 then 2 else if k.isBx then 16 else 1 | none => 1
  (List.range strides.length).all fun d =>
    let x := strides[d]?.getD 0
    x % unit == 0 || (d == 0 && (x == 1 || x == -1))

/-- R187: the record, its strides apart, under a VL. -/
def Shape.ok (r : Shape) (vl : Nat) : Bool :=
  let n := r.ndim
  n != 0 && (List.range 7).all (fun j => if j < n then r.perm j < n && (List.range n).all (fun k => k == j || r.perm k != r.perm j)
    else r.perm j == j) &&
    (r.size.take n).all (fun x => x != 0) && (r.size.drop n).all (fun x => x == 0) &&
    (r.sstr.drop n).all (fun x => x == 0) && (r.dstr.drop n).all (fun x => x == 0) &&
    r.clean && !r.fmt.getLsbD 31 && r.ctrl.extractLsb' 26 6 == 0 && r.total < 2 ^ 63 && vl ≤ 1024

/-- The two stored formats, where their codes are defined (R71, R187). -/
def Shape.codes (r : Shape) : Option (Option Fmt × Option Fmt) :=
  match memCode (r.fmt.extractLsb' 0 6), memCode (r.fmt.extractLsb' 6 6) with
  | some sf, some df => some (sf, df)
  | _, _ => none

/-- The formats of a copy, or none where R71 finds them illegal: source, destination, scale, saturation and skips. -/
structure CopyFmt where
  sf : Option Fmt
  df : Option Fmt
  power : Int
  scl : Bool
  sat : Bool
  sskip : Nat
  dskip : Nat
  deriving DecidableEq, Repr

/-- The format word of a record (R186, R187). -/
def Shape.formats (r : Shape) : Option CopyFmt :=
  match r.codes with
  | none => none
  | some (sf, df) =>
    let scl := r.fmt.extractLsb' 12 2
    let sskip := (r.fmt.extractLsb' 23 4).toNat
    let dskip := (r.fmt.extractLsb' 27 4).toNat
    if sf.isNone != df.isNone ∨ 2 ≤ scl.toNat ∨ !skipOk sf sskip ∨ !skipOk df dskip then none
    else some ⟨sf, df, if scl = 1 then (r.fmt.extractLsb' 14 8).toInt else 0, scl == 1, r.fmt.getLsbD 22, sskip, dskip⟩

/-- Coordinates of element e by source dimension (R188). -/
def Shape.coords (r : Shape) (e : Nat) : List (Nat × Nat) :=
  ((List.range r.ndim).foldl (fun (a : Nat × List (Nat × Nat)) j =>
    let d := r.perm j
    let n := r.size[d]?.getD 1
    (a.1 / n, a.2 ++ [(d, a.1 % n)])) (e, [])).2

/-- The source position of an element (R188). -/
def Shape.srcPos (r : Shape) (e : Nat) : Int :=
  (r.coords e).foldl (fun (a : Int) c => a + (c.2 : Int) * (r.sstr[c.1]?.getD 0)) 0

/-- The destination position of an element (R188): coordinates come in destination order. -/
def Shape.dstPos (r : Shape) (e : Nat) : Int :=
  let cs := r.coords e
  (List.range cs.length).foldl (fun (a : Int) j => a + ((cs[j]?.map fun c => c.2).getD 0 : Nat) * (r.dstr[j]?.getD 0)) 0

/-! ### Places of elements -/

/-- Where an element lies: the address of its bytes or of its block, and its nibble or its place in the block (R164, R188). -/
structure Place where
  va : Word
  sub : Nat
  deriving DecidableEq, Repr

/-- The place of a position that may be negative (R188): INT4 and BX positions use floor division. -/
def placeAt (f : Option Fmt) (sew skip : Nat) (base : Word) (pos : Int) : Place :=
  match f with
  | none => ⟨base + BitVec.ofInt 64 (pos * (sew / 8 : Nat)), 0⟩
  | some k =>
    let q := (skip : Int) + pos
    if k = .int4 then ⟨base + BitVec.ofInt 64 (Int.fdiv q 2), (Int.fmod q 2).toNat⟩
    else if k.isBx then ⟨base + BitVec.ofInt 64 (Int.fdiv q 16 * (k.blockBytes : Nat)), (Int.fmod q 16).toNat⟩
    else ⟨base + BitVec.ofInt 64 (pos * (k.cw / 8 : Nat)), 0⟩

/-- Bytes at a place. -/
def placeBytes (f : Option Fmt) (sew : Nat) : Nat :=
  match f with
  | none => sew / 8
  | some k => if k = .int4 then 1 else if k.isBx then k.blockBytes else k.cw / 8

/-- The bytes that reading an element takes (R164). -/
def Place.reads (p : Place) (f : Option Fmt) (sew i : Nat) : List Touch :=
  match f with
  | some k =>
    if k.isBx then
      let w := k.bxM + 1
      let lo := w * p.sub / 8
      let hi := (w * p.sub + w - 1) / 8
      [⟨i, p.va, 2⟩, ⟨i, p.va + BitVec.ofNat 64 (2 + lo), hi - lo + 1⟩]
    else [⟨i, p.va, placeBytes f sew⟩]
  | none => [⟨i, p.va, sew / 8⟩]

/-- The exact bits of a source element from the value of its bytes: of a BX element its field, and above it the block's E and its
quad shift. -/
def Place.bits (p : Place) (f : Option Fmt) (v : Nat) : Nat :=
  match f with
  | none => v
  | some k =>
    if k = .int4 then v / 16 ^ p.sub % 16
    else if k.isBx then
      let w := k.bxM + 1
      v / 65536 / 2 ^ (w * p.sub) % 2 ^ w + 65536 * (v % 256) + 2 ^ 24 * quadShift (v / 256 % 256) p.sub
    else v

/-- The exact value of the bits of a source element. -/
def bitsValue (f : Fmt) (b : Nat) : Exact :=
  if f.isBx then decBx f.bxM (b % 65536 / 2 ^ f.bxM == 1) (b % 65536 % 2 ^ f.bxM) (b / 65536 % 256) (b / 2 ^ 24)
  else decode1 f b

/-! ### The copy -/

/-- A copy under way: the record, its formats, the element width, and the first element and count of the strip. -/
structure Job where
  r : Shape
  m : CopyFmt
  sew : Nat
  first : Nat
  count : Nat
  deriving DecidableEq, Repr

/-- Place of source element i of the strip. -/
def Job.src (j : Job) (i : Nat) : Place := placeAt j.m.sf j.sew j.m.sskip j.r.sbase (j.r.srcPos (j.first + i))

/-- Place of destination element i of the strip. -/
def Job.dst (j : Job) (i : Nat) : Place := placeAt j.m.df j.sew j.m.dskip j.r.dbase (j.r.dstPos (j.first + i))

/-- Bit for bit (R188). -/
def Job.copies (j : Job) : Bool := j.m.sf == j.m.df && !j.m.scl

/-- The stored bits of a destination element that is not BX, with its flags. -/
def Job.out (j : Job) (frm : Rm) (bits : Nat) : Nat × BitVec 7 :=
  match j.m.sf, j.m.df with
  | some sf, some df =>
    if j.copies then (bits, 0)
    else
      let c := cvt df frm j.m.sat sf.isInt ((bitsValue sf bits).scale j.m.power)
      (if df = .int4 then c.1 % 16 else c.1, c.2)
  | _, _ => (bits, 0)

/-- The image of a destination BX block, with its flags (R58, R167, R188): `els` gives the bits of the elements written by their
places, `old` is the block as it stands. A block that takes 16 elements of one scale is copied bit for bit. -/
def Job.block (j : Job) (df : Fmt) (frm : Rm) (els : Nat → Option Nat) (old : Nat) : List Byte × BitVec 7 :=
  let all := (List.range 16).filterMap els
  let e := (all[0]?.getD 0) / 65536 % 256
  let q := (List.range 4).map fun t => (all[4 * t]?.getD 0) / 2 ^ 24
  if j.copies && all.length == 16 &&
      (List.range 16).all fun k => (all[k]?.getD 0) / 65536 == e + 256 * (q[k / 4]?.getD 0) then
    let w := df.bxM + 1
    (leBytes 2 (e + 256 * shiftByte q) ++
      leBytes (2 * w) ((List.range 16).foldl (fun a k => a + (all[k]?.getD 0) % 65536 * 2 ^ (w * k)) 0), 0)
  else
    let xs := (List.range 16).map fun k =>
      match els k, j.m.sf with
      | some b, some sf => (bitsValue sf b).scale j.m.power
      | _, _ => decStoredBx df old k
    let b := packBx df frm xs
    (b.bytes df, (List.range 16).foldl (fun a k => if (els k).isSome then a ||| ((b.els[k]?.map fun x => x.fx).getD 0) else a)
      (0 : BitVec 7))

/-- The distinct addresses of a list. -/
def distinctWords (ws : List Word) : List Word := ws.foldl (fun a w => if a.contains w then a else a ++ [w]) []

/-- The elements of a strip that a predicate names and that lie in a destination block. -/
def Job.inBlock (j : Job) (want : Nat → Bool) (va : Word) : List Nat :=
  (List.range j.count).filter fun i => want i && (j.dst i).va == va

/-- The writes of the destination elements that a predicate names, with their flags (R167, R188): in ascending order, so that the
higher element wins. -/
def State.copyWrites (s : State) (j : Job) (map : PageMap) (buf : Nat → Nat) (want : Nat → Bool) : List Write × BitVec 7 :=
  let frm := s.hart.frm
  let els := (List.range j.count).filter want
  let isBx := j.m.df.any fun f => f.isBx
  if isBx then
    let df := j.m.df.getD .bx4
    (distinctWords (els.map fun i => (j.dst i).va)).foldl (fun (a : List Write × BitVec 7) va =>
      let ks := j.inBlock want va
      let at_ := fun k => (ks.reverse.find? fun i => (j.dst i).sub == k).map buf
      let r := j.block df frm at_ (leNat ((physPieces map va df.blockBytes).flatMap fun x => s.bytesAfter .vector [] x.1 x.2))
      (a.1 ++ s.runWrites .vector map 4 va (wholeBytes r.1), a.2 ||| r.2)) ([], 0)
  else
    els.foldl (fun (a : List Write × BitVec 7) i =>
      let p := j.dst i
      let r := j.out frm (buf i)
      let bs := if j.m.df = some .int4 then
          [(⟨BitVec.ofNat 8 (r.1 * 16 ^ p.sub), BitVec.ofNat 8 (15 * 16 ^ p.sub)⟩ : WByte)]
        else wholeBytes (leBytes (placeBytes j.m.df j.sew) r.1)
      (a.1 ++ s.runWrites .vector map 4 p.va bs, a.2 ||| r.2)) ([], 0)

/-- Two touches share a byte. -/
def Touch.meets (a b : Touch) : Bool := overlaps a.va.toNat a.n b.va.toNat b.n

/-- The tile buffer of a copy (R189, R332): the held one of a suspended copy; else the source elements, those of a suspended copy
that overlap the destination being undefined. -/
def State.copyBuffer (s : State) (j : Job) (map : PageMap) : List (Nat × Word) :=
  let resumed := s.conv.begun && s.conv.only.any fun k => k.1 == s.conv.idx
  if resumed && !s.hart.copyBuf.isEmpty then s.hart.copyBuf
  else
    let ds := (List.range j.count).map fun i => (⟨i, (j.dst i).va, placeBytes j.m.df j.sew⟩ : Touch)
    (List.range j.count).map fun i =>
      let p := j.src i
      if resumed && (p.reads j.m.sf j.sew i).any fun t => ds.any fun d => t.meets d then
        (i, (Config.freeVec (s.fresh + i)).extractLsb' 0 64 &&& BitVec.ofNat 64 (2 ^ (8 * placeBytes j.m.sf j.sew) - 1))
      else (i, BitVec.ofNat 64 (p.bits j.m.sf (s.loadNat .vector map p.va (placeBytes j.m.sf j.sew))))

/-- The write-back of CURSOR, once the destination writes of the strip are performed at CORE scope (R188, R189). -/
def State.cursorBack (s : State) (map : PageMap) (va : Word) (n : Nat) : Res :=
  let ws := s.runWrites .vector map 8 va (wholeBytes (leBytes 8 n))
  let go := { s with hart := { s.hart with copyBuf := [] } }.order [⟨s.hart.seq, .vector, .vector, false, false, false, true, true⟩]
  match s.unservedOf true (piecesOf ws) with
  | [] => .ok (go.addWrites (ws.map fun w => { w with now := s.needsSlot w }))
  | ls =>
    match s.readStall ls true with
    | .trap t => .susp s t 0
    | .wait w => .pause s w 0
    | r => r

/-- Some elements leave one of the 16 places of a destination block out: the block is written in part (R167, R188). -/
def Job.partBlock (j : Job) (els : List Nat) (va : Word) : Bool :=
  ((j.inBlock (fun k => els.contains k) va).map fun i => (j.dst i).sub).eraseDups.length < 16

/-- The element with which an element of a strip is performed: those of one destination block with the first of them (R167, R188). -/
def Job.unit (j : Job) (els : List Nat) (isBx : Bool) (i : Nat) : Nat :=
  if isBx then (els.find? fun k => (j.dst k).va == (j.dst i).va).getD i else i

/-- The strip of a copy (R188 to R190). The reads of its source count for the hotness table as they are made, its writes as they are
performed (R292). -/
def State.copyStrip (s : State) (j : Job) (rec_ : Word) : Res :=
  let els := (List.range j.count).filter s.allowed
  let resumed := s.conv.begun && (s.conv.only.any fun k => k.1 == s.conv.idx)
  let buffered := resumed && !s.hart.copyBuf.isEmpty
  let reads := if buffered then [] else els.flatMap fun i => (j.src i).reads j.m.sf j.sew i
  let writes := els.map fun i => (⟨i, (j.dst i).va, placeBytes j.m.df j.sew⟩ : Touch)
  let cur : Touch := ⟨8192, rec_ + 0x10, 8⟩
  s.prepareBoth (s.vecMode .write) (writes ++ [cur]) (s.vecMode .read) reads fun s dmap smap =>
    s.whenRead .vector (j.r.ctrl.getLsbD 24) smap reads fun s =>
      let buf := s.copyBuffer j smap
      let bits := fun i => ((buf.find? fun e => e.1 == i).map fun e => e.2.toNat).getD 0
      let held : State := { s with hart := { s.hart with copyBuf := buf }, fresh := s.fresh + j.count }
      let sts := (kTouches smap reads j.count).filter fun t => !(writes.any fun w => w.el == t.el && w.on t.va)
      let held := if resumed then held else held.addHot 1 smap sts
      let isBx := j.m.df.any fun f => f.isBx
      let hit := fun i =>
        if isBx && j.partBlock els (j.dst i).va then
          (s.consumedBy .vector false (physPieces dmap (j.dst i).va (placeBytes j.m.df j.sew))).map fun u s rest => Res.susp s (consumed u) rest
        else none
      if s.conv.fillOnly then .ok held
      else
        let dts := kTouches dmap writes j.count
        (held.writeElems els (j.unit els isBx) (fun want => held.copyWrites j dmap bits want) hit fun s =>
          (if s.conv.partly then .ok s else s.cursorBack dmap (rec_ + 0x10) (j.first + j.count)).andThen fun s =>
            .ok (s.addHot 1 dmap dts)).hotPart 1 dmap dts

/-- vcp (R186 to R190). -/
def execVcp (a : BitVec 5) (s : State) : Out :=
  s.word fun s =>
    if s.hart.vl = 0 then .ok s
    else
      let va := s.x a
      if va.toNat % 64 ≠ 0 then .trap (Trap.plain 0x03 va)
      else
        let ts : List Touch := [⟨8192, va, 128⟩]
        s.prepare (s.vecMode .read) ts fun s map => s.whenRead .vector false map ts fun s =>
          let r := Shape.read (s.loadBytes .vector map va 128)
          let strides := match r.codes with
            | some (sf, df) => wholeStrides sf r.sstr && wholeStrides df r.dstr
            | none => true
          if !r.ok s.hart.vln || !strides then .trap (Trap.plain 0x0C va)
          else
            match r.formats with
            | none => .trap (illegalFormat (BitVec.zeroExtend 64 r.fmt))
            | some m =>
              let n := min s.hart.vln (r.total - r.cursor)
              s.copyStrip ⟨r, m, s.hart.sew, r.cursor, n⟩ va

end Sys2Proof.Machine
end

