-- ==== Sys2Proof/Machine/Lfe.lean ====
section
/-! DEFINITION. The launch front end: lane groups and reclaims, launch queues and packets, serving and placement, barriers,
completion records, the abort of a gang, and the full context switch (R19 to R26, R35 to R46, R297 to R317, R336). -/

namespace Sys2Proof.Machine

/-! ### Lane groups -/

/-- Some hart holds group k of a core. -/
def State.groupHeld (s : State) (core k : Nat) : Bool := s.harts.any fun h => h.core == core && h.gmask.getLsbD k

/-- Group k of a core is free, for the gang that named it or for anyone else (R36, R303). -/
def State.groupFree (s : State) (core k : Nat) (useNamed : Bool) : Bool :=
  (lprOwner (s.lprOf core) k).isNone && !s.groupHeld core k && (useNamed || !s.named.contains (4 * core + k))

/-- The free groups of a core, lowest first. -/
def State.freeOn (s : State) (core : Nat) (useNamed : Bool) : List Nat :=
  (List.range 4).filter fun k => s.groupFree core k useNamed

/-- Of two harts that wait for lanes on a core the one whose request goes first. Each request belongs to the cycle in which its hart is
granted a group, so to one cycle: descending priority, then the lower slot (R43; log entry 86). -/
def asksFirst (a b : Hart) : Bool :=
  match a.status, b.status with
  | .waiting (.lanes _) _, .waiting (.lanes _) _ => b.prio.toNat < a.prio.toNat || (a.prio == b.prio && a.slot < b.slot)
  | .waiting (.lanes _) _, _ => true
  | _, _ => false

/-- Free groups that a hart which waits for lanes on a core is still to take. -/
def State.awaited (s : State) (h : Hart) : Nat :=
  match h.status with
  | .waiting (.lanes req) _ => req - (List.range 4).countP fun k => lprOwner (s.lprOf h.core) k == some h.slot
  | _ => 0

/-- The free groups of a core for a gang, or a hart that returns, of a priority: one that the LFE serves for the first time in this cycle
leaves those that parked harts of its priority or above take first, and one that it has served before goes before them (R43; log entry
86). -/
def State.freeFor (s : State) (core : Nat) (useNamed : Bool) (prio : Option Nat) : List Nat :=
  (s.freeOn core useNamed).drop (match prio with
    | none => 0
    | some p => ((s.harts.filter fun h => h.core == core && p ≤ h.prio.toNat).map s.awaited).sum)

/-- Groups that a hart holds and LPR still gives it (R35, R41). -/
def State.keptGroups (s : State) (h : Hart) : List Nat :=
  (List.range 4).filter fun k => h.gmask.getLsbD k && lprOwner (s.lprOf h.core) k == some h.slot

/-- Of two harts on a core the one that the LFE names first as a victim: lower priority, then more groups held, then the higher slot
(R41). -/
def victimBefore (a b : Hart) : Bool :=
  if a.prio ≠ b.prio then a.prio.toNat < b.prio.toNat
  else if a.groups ≠ b.groups then b.groups < a.groups
  else b.slot < a.slot

/-- The victim the LFE names next on a core for a requester of a priority (R41, R48). -/
def State.nextVictim (s : State) (core prio : Nat) : Option Hart :=
  (s.harts.filter fun h => h.core == core && h.prio.toNat < prio && !h.det && !(s.keptGroups h).isEmpty).foldl
    (fun a h => match a with | none => some h | some b => if victimBefore h b then some h else a) none

/-- A group of a victim is named for reclaim: LPR gives it to the requester's slot, or to no slot for a gang that waits for
placement (R35, R41). -/
def State.nameVictim (s : State) (v : Hart) (give : Option Nat) : State :=
  match (s.keptGroups v).getLast? with
  | none => s
  | some k =>
    let l := s.lprOf v.core
    let t := s.setLpr v.core (match give with | some slot => lprGive l k slot | none => lprFree l k)
    let t := if give.isNone then { t with named := t.named ++ [4 * v.core + k] } else t
    t.onHart v.id fun h => { h with reclaimAt := some (h.reclaimAt.getD s.cycle) }

/-- Up to n groups of a core named for reclaim (R41). -/
def State.nameVictims (s : State) (core prio : Nat) (give : Option Nat) : Nat → State
  | 0 => s
  | n + 1 =>
    match s.nextVictim core prio with
    | none => s
    | some v => State.nameVictims (s.nameVictim v give) core prio give n

/-- Entries wait in the inbound exchange FIFOs of group k of a core (R311). -/
def State.inbound (s : State) (core k : Nat) : Bool :=
  s.fifos.any fun f => f.2.1 == core && f.2.2.1 / 8 == k && !f.2.2.2.isEmpty

/-- A group passes to a gang: the inbound entries of another gang's are cleared (R38, R311). -/
def State.takeGroup (s : State) (core k : Nat) (gang : BitVec 48) : State :=
  let key := 4 * core + k
  let same := tableGet s.laneGang key == some gang
  { s with
    laneGang := tableSet s.laneGang key gang
    relPend := s.relPend.filter fun n => n != key
    fifos := if same then s.fifos else s.fifos.filter fun f => !(f.2.1 == core && f.2.2.1 / 8 == k)
    named := s.named.filter fun n => n != key }

/-! ### Launch packets -/

/-- An argument of a packet (R20). -/
def pkArg (p : BitVec 512) (k : Nat) : Word := p.extractLsb' (64 * k) 64

/-- An address of a packet, from its bits [54:6] (R20). -/
def pkAddr (p : BitVec 512) (lo : Nat) : Word := ((p.extractLsb' lo 49 ++ 0#6) : BitVec 55).signExtend 64

/-- Fields of a packet (R20). -/
def pkEntry (p : BitVec 512) : Word := pkAddr p 256
def pkCrec (p : BitVec 512) : Word := pkAddr p 305
def pkWaddr (p : BitVec 512) : Word := pkAddr p 354
def pkN (p : BitVec 512) : BitVec 32 := p.extractLsb' 403 32
def pkBound (p : BitVec 512) : BitVec 32 := p.extractLsb' 435 32
def pkH (p : BitVec 512) : Nat := (p.extractLsb' 467 11).toNat
def pkLgmin (p : BitVec 512) : Nat := (p.extractLsb' 478 2).toNat
def pkLgmax (p : BitVec 512) : Nat := (p.extractLsb' 480 2).toNat
def pkPrio (p : BitVec 512) : BitVec 3 := p.extractLsb' 482 3
def pkRoute (p : BitVec 512) : BitVec 6 := p.extractLsb' 485 6
def pkDet (p : BitVec 512) : Bool := p.getLsbD 491
def pkProt (p : BitVec 512) : Bool := p.getLsbD 492
def pkCmsel (p : BitVec 512) : BitVec 6 := p.extractLsb' 493 6
def pkAs (p : BitVec 512) : BitVec 9 := p.extractLsb' 499 9

/-- A queue. -/
def State.queueAt (s : State) (q : BitVec 6) : Queue := s.queues[q.toNat]?.getD Queue.empty

/-- The state with a queue changed. -/
def State.onQueue (s : State) (q : BitVec 6) (f : Queue → Queue) : State :=
  { s with queues := s.queues.setIfInBounds q.toNat (f (s.queueAt q)) }

/-- The core mask that a selector names (R299). -/
def State.maskAt (s : State) (sel : BitVec 6) : BitVec 384 := s.masks[sel.toNat]?.getD 0

/-- The entry of the address-space table. -/
def State.spaceAt (s : State) (a : BitVec 9) : Space := s.spaces[a.toNat]?.getD Space.empty

/-- The PTBASE value that an entry gives the harts of a gang (R286, R299). -/
def spaceRoot (a : BitVec 9) (e : Space) : BitVec 61 :=
  BitVec.zeroExtend 61 (a ++ e.root.extractLsb' 16 36 ++ 0#16)

/-- C, the cores of an entry of the core-mask table. -/
def maskCount (m : BitVec 384) : Nat := (List.range 384).countP fun k => m.getLsbD k

/-- The AS conditions of R300. -/
def State.asBad (s : State) (q : Queue) (p : BitVec 512) : Bool :=
  (!q.sup && pkAs p != q.as) || !(s.spaceAt (pkAs p)).valid

/-- The conditions of R21 and the ROUTE and AS conditions of R300 in the order of Table 3, as REASON; 0 for a valid packet. -/
def State.packetReason (s : State) (q : Queue) (p : BitVec 512) : Nat :=
  let c := maskCount (s.maskAt (pkCmsel p))
  if pkH p = 0 ∨ 1536 < pkH p then 1
  else if pkLgmax p < pkLgmin p then 2
  else if !pkDet p ∧ 4 * c < pkH p * (pkLgmin p + 1) then 3
  else if pkDet p ∧ c < pkH p then 4
  else if pkPrio p = 7 ∧ !q.sup then 5
  else if p.extractLsb' 508 4 ≠ 0 then 6
  else if c = 0 then 7
  else if !q.rmask.getLsbD (pkRoute p).toNat then 8
  else if s.asBad q p then 9
  else 0

/-- What an address of a packet translates to for the LFE (R306). -/
inductive LfeAddr where
  /-- The physical address, and where the leaf is copy-on-write the leaf and its address. -/
  | at_ (pa : Nat) (cow : Option (Word × Nat))
  | bad
  /-- The page is being moved, or the walk waits for a trunk: the LFE asks again later. -/
  | held

/-- The translation of an address through an address-space entry, at privilege U (R306). The LFE is no core and has no translation
cache. -/
def State.lfeAddr (s : State) (a : BitVec 9) (acc : Acc) (va : Word) : LfeAddr :=
  match s.translate 384 (spaceRoot a (s.spaceAt a)) .u acc false va with
  | .pa pa _ => .at_ pa none
  | .cow e at_ => .at_ (ptePa e + va.toNat % 65536) (some (e, at_))
  | .fault _ _ | .poison _ => .bad
  | .held | .blocked _ => .held

/-- The state in which the head of a queue has been taken. -/
def State.advance (s : State) (q : BitVec 6) : State :=
  { s.onQueue q fun k => { k with head := k.head + 1 } with offers := s.offers.filter fun o => o.queue != q }

/-- GANGID of the head of a queue (R26). -/
def gangIdOf (q : BitVec 6) (head : BitVec 32) : BitVec 48 := head ++ 0#10 ++ q

/-- A completion record written: bytes 0x04 to 0x3F first, then STATUS (R305). -/
def State.writeRecord (s : State) (pa code reason harts : Nat) (id : BitVec 48) (tstart flags rpcx : Word) : State :=
  let body := leBytes 4 harts ++ leBytes 8 id.toNat ++ leBytes 8 tstart.toNat ++ leBytes 8 s.time.toNat ++
    leBytes 8 flags.toNat ++ leBytes 8 rpcx.toNat ++ List.replicate 16 0
  (s.poke (pa + 4) body 8).poke pa (leBytes 4 (code + 256 * reason)) 4

/-- A record of kind 0x0C: the completion record cannot be written (R306, R361). It names the host die (log entry 88). -/
def State.undeliverable (s : State) (q : BitVec 6) (head : BitVec 32) (at_ : Nat) (why : Word) : State :=
  s.log 0x0C 6 (BitVec.zeroExtend 16 q) head (BitVec.ofNat 64 at_) why

/-- Where a completion record goes when it is written (R306). -/
inductive Target where
  | at_ (pa : Nat) (s : State)
  /-- Its page moves, or its trunk carries nothing. -/
  | later
  /-- The free list is empty. -/
  | empty

/-- The place of a completion record: the page that the LFE found when it read the packet. A copy-on-write leaf that still stands is
resolved as a hart's write is, with the lists of an address-space entry, and the record goes to the page of the resolution (R291, R306). -/
def State.recordPlace (s : State) (e : Space) (pa : Nat) (cow : Option (Word × Nat)) : Target :=
  let go := fun (pa : Nat) (s : State) => match s.downTrunk pa with | some _ => Target.later | none => .at_ pa s
  match cow with
  | none => go pa s
  | some (l, at_) =>
    let now := BitVec.ofNat 64 (Memory.value s.mem at_ 8)
    if !pteCow l then go (ptePa l + pa % 65536) s
    else if now = l ||| 0x80 then .later
    else if now ≠ l then go pa s
    else
      match s.resolveWith (e.fplist.extractLsb' 0 52).toNat (e.prtbase.extractLsb' 0 52).toNat l at_ with
      | none => .empty
      | some t => go (ptePa (BitVec.ofNat 64 (Memory.value t.mem at_ 8)) + pa % 65536) t

/-- A packet rejected: its record is written and the head advances (R21, R305). -/
def State.reject (s : State) (q : BitVec 6) (a : BitVec 9) (pa : Nat) (cow : Option (Word × Nat)) (at_ reason : Nat) : State :=
  let head := (s.queueAt q).head
  match s.recordPlace (s.spaceAt a) pa cow with
  | .later => s
  | .empty => (s.undeliverable q head at_ 3).advance q
  | .at_ pa t => (t.writeRecord pa 2 reason 0 (gangIdOf q head) t.time 0 0).advance q

/-- The bytes of the packet at the head of a queue (R297, R298). -/
def State.headBytes (s : State) (k : Queue) : Nat × List Byte :=
  let at_ := k.base.toNat + 64 * (k.head.toNat % 2 ^ k.log2sz.toNat)
  (at_, if k.loc then (List.range 64).map fun j => Config.hostByte (at_ + j) s.cycle else Memory.bytes s.mem at_ 64)

/-- PACKET_OFFER (R302): the LFE reads the packet at the head of an enabled queue, translates its addresses and checks it. -/
def State.packetOffer (s : State) (q : BitVec 6) : State :=
  let k := s.queueAt q
  if !k.en || k.tail == k.head || s.offers.any fun o => o.queue == q then s
  else
    let r := s.headBytes k
    let p := BitVec.ofNat 512 (leNat r.2)
    let bad := fun (lo n : Nat) => !k.loc && (s.poisonAt (r.1 + lo) n).isSome
    let fail := fun (s : State) (why : Word) => (s.undeliverable q k.head r.1 why).advance q
    let a := if s.asBad k p then k.as else pkAs p
    if bad 38 7 then fail s 2
    else if !(s.spaceAt a).valid then fail s 1
    else
      match s.lfeAddr a .write (pkCrec p) with
      | .held => s
      | .bad => fail s 1
      | .at_ pa cow =>
        let no := fun (reason : Nat) => s.reject q a pa cow r.1 reason
        let reason := s.packetReason k p
        if bad 0 64 then no 10
        else if reason ≠ 0 then no reason
        else
          let offer := fun (w : Option Nat) =>
            ({ s with offers := s.offers ++ [⟨q, p, w, pa, cow, r.1, w.isNone, s.cycle, (pkPrio p).toNat⟩] } : State)
          if pkWaddr p = 0 then offer none
          else
            match s.lfeAddr a .read (pkWaddr p) with
            | .held => s
            | .bad => no 11
            | .at_ w _ => offer (some w)

/-- WATERMARK_READ (R22): the LFE reads the watermark of a held packet; poison rejects the packet, and a trunk that carries nothing
delays the read (R306). -/
def State.watermarkRead (s : State) (q : BitVec 6) : State :=
  match s.offers.find? fun o => o.queue == q && !o.offered with
  | none => s
  | some o =>
    match o.wpa with
    | none => s
    | some w =>
      if (s.downTrunk w).isSome then s
      else if (s.poisonAt w 8).isSome then
        s.reject q (pkAs o.packet) o.crec o.crecCow o.at_ 10
      else if (pkBound o.packet).toNat ≤ Memory.value s.mem w 8 then
        { s with offers := s.offers.map fun k => if k.queue = q then { k with offered := true, since := s.cycle } else k }
      else s

/-- LAUNCH_AGING (R45): an offered packet that has waited 65,536 cycles gains a priority level, up to 6. -/
def State.age (s : State) (q : BitVec 6) : State :=
  { s with offers := s.offers.map fun o =>
      if o.queue = q ∧ o.offered ∧ (s.queueAt q).en ∧ o.prio < 6 ∧ o.since + 65536 ≤ s.cycle then
        { o with prio := o.prio + 1, since := o.since + 65536 }
      else o }

/-! ### Serving and placing -/

/-- What the LFE may serve, with its effective priority (R302): no packet while 512 gangs are placed (R303; log entry 66). -/
def State.candidates (s : State) : List (Served × Nat) :=
  (s.swapped.map fun k => (Served.hart k.frame, k.prio.toNat)) ++
    (s.offers.filter fun o => o.offered && (s.queueAt o.queue).en && s.gangs.length < 512).map fun o => (Served.queue o.queue, o.prio)

/-- The first of two candidates: higher priority, a switched-out hart before a packet, then queues round-robin (R302). Of two switched-out
harts of one priority the one switched out first goes first (log entry 66). -/
def State.serveBefore (s : State) (a b : Served × Nat) : Bool :=
  if a.2 ≠ b.2 then b.2 < a.2
  else
    match a.1, b.1 with
    | .hart _, .queue _ => true
    | .queue _, .hart _ => false
    | .hart _, .hart _ => false
    | .queue x, .queue y =>
      let last := s.rr[a.2]?.getD 63
      (x - last - 1).toNat < (y - last - 1).toNat

/-- A list of candidates in serving order. -/
def State.insertServed (s : State) (a : Served × Nat) : List (Served × Nat) → List (Served × Nat)
  | [] => [a]
  | b :: r => if s.serveBefore a b then a :: b :: r else b :: s.insertServed a r

/-- The candidates in the order in which the LFE serves them (R302). -/
def State.serveOrder (s : State) : List (Served × Nat) := s.candidates.foldl (fun l a => s.insertServed a l) []

/-- Hart slots of a core where no hart stands. -/
def State.freeSlots (s : State) (core : Nat) (useNamed : Bool) : List Nat :=
  (List.range 4).filter fun k => (s.hartAt (4 * core + k)).isNone && (useNamed || !s.namedSlots.contains (4 * core + k))

/-- The harts of a core whose groups a requester of a priority may reclaim, as the number of groups. -/
def State.reclaimable (s : State) (core prio : Nat) : Nat :=
  ((s.harts.filter fun h => h.core == core && h.prio.toNat < prio && !h.det).map fun h => (s.keptGroups h).length).sum

/-- Groups of a core that a victim named before still holds (R41). -/
def State.coming (s : State) (core : Nat) : List Nat :=
  (List.range 4).filter fun k => s.groupHeld core k && (lprOwner (s.lprOf core) k).isNone

/-- The LFE chooses a core for up to `left` harts that need `need` groups each, names their slots, and names victims for the
groups that are neither free nor named before (R41, R303); the answer is the harts still without a core. Which cores it chooses is not
architectural: it takes them in ascending number. -/
def State.chooseCore (s : State) (need prio : Nat) (core left : Nat) : Nat × State :=
  let slots := s.freeSlots core true
  let free := s.freeOn core true ++ s.coming core
  let n := min left (if need = 0 then slots.length else min slots.length ((free.length + s.reclaimable core prio) / need))
  let t := { s with
    namedSlots := s.namedSlots ++ (slots.take n).map fun k => 4 * core + k
    named := s.named ++ ((free.take (n * need)).map fun k => 4 * core + k).filter fun k => !s.named.contains k }
  (left - n, t.nameVictims core prio none (n * need - free.length))

/-- The cores of a mask in ascending number. -/
def maskCores (m : BitVec 384) : List Nat := (List.range 384).filter fun k => m.getLsbD k

/-- Up to `left` harts that need `need` groups each are to be placed on a core as soon as its slots free: they name slots where harts stand
that leave groups enough (R303, R312). -/
def State.chooseTaken (s : State) (need core left : Nat) : Nat × State :=
  let free := (s.freeOn core true ++ s.coming core).length
  let ks := (((s.harts.filter fun h => h.core == core && !h.det && need ≤ free + (s.keptGroups h).length).map Hart.id).filter
    fun k => !s.namedSlots.contains k).take left
  (left - ks.length, { s with namedSlots := s.namedSlots ++ ks })

/-- Cores for `harts` harts of `need` groups each, with victims on them: first where slots are free, then where a slot is to free. -/
def State.nameFor (s : State) (m : BitVec 384) (need prio harts : Nat) : State :=
  let each := fun (f : State → Nat → Nat → Nat × State) (a : Nat × State) =>
    (maskCores m).foldl (fun (a : Nat × State) c => if a.1 = 0 then a else f a.2 c a.1) a
  (each (fun s c left => s.chooseTaken need c left) (each (fun s c left => s.chooseCore need prio c left) (harts, s))).2

/-- A core for a hart of a deterministic gang: it holds no hart, or only harts of strictly lower priority, which are switched out
(R304). -/
def State.clearFor (s : State) (m : BitVec 384) (prio harts : Nat) : State :=
  let cores := ((maskCores m).filter fun c => s.harts.all fun h => h.core != c || h.prio.toNat < prio).take harts
  { cores.foldl (fun (t : State) c => (t.harts.filter fun h => h.core == c).foldl
      (fun (t : State) h => t.onHart h.id fun h => { h with switchReq := true }) t) s with
    named := cores.flatMap fun c => (List.range 4).map fun k => 4 * c + k
    namedSlots := cores.flatMap fun c => (List.range 4).map fun k => 4 * c + k }

/-- What a candidate needs: the mask of its cores, the groups of each hart, its harts, and whether it is deterministic (R303, R304,
R314). -/
def State.needOf (s : State) (c : Served) : Option (BitVec 384 × Nat × Nat × Bool) :=
  match c with
  | .queue q => (s.offers.find? fun o => o.queue == q).map fun o =>
      (s.maskAt (pkCmsel o.packet), pkLgmin o.packet + 1, pkH o.packet, pkDet o.packet)
  | .hart f => (s.swapped.find? fun k => k.frame == f).map fun k =>
      ((match s.gangOf k.gang with | some g => g.mask | none => 0), k.groups, 1, k.keep.det)

/-- Harts of some groups that a core can take at once (R43, R303, R304). -/
def State.roomOn (s : State) (core need : Nat) (det useNamed : Bool) (prio : Option Nat) : Nat :=
  let here := s.harts.filter fun h => h.core == core
  let free := (s.freeFor core useNamed prio).length
  let slots := (s.freeSlots core useNamed).length
  if det then (if here.isEmpty && free == 4 && slots == 4 then 1 else 0)
  else if here.any fun h => h.det then 0
  else if need = 0 then slots
  else min slots (free / need)

/-- The priority with which a candidate asks for groups in this cycle: none where the LFE has served it before (R43). -/
def State.asksNow (s : State) (c : Served × Nat) : Option Nat := if s.served = some c.1 then none else some c.2

/-- A candidate can be placed, or can resume, at once (R43, R303, R314). -/
def State.fits (s : State) (c : Served × Nat) (useNamed : Bool) : Bool :=
  match s.needOf c.1 with
  | none => false
  | some (m, need, harts, det) => harts ≤ ((maskCores m).map fun k => s.roomOn k need det useNamed (s.asksNow c)).sum

/-- The served gang or hart names victims where it cannot be placed at once (R41, R303, R304, R314). -/
def State.nameServed (s : State) (c : Served × Nat) : State :=
  let s := { s with named := [], namedSlots := [] }
  if s.fits c true then s
  else
    match s.needOf c.1 with
    | none => s
    | some (m, need, harts, det) => if det then s.clearFor m c.2 harts else s.nameFor m need c.2 harts

/-- The round-robin pointer of a level after a packet is served (R302). -/
def State.turnRound (s : State) (c : Served × Nat) : State :=
  match c.1 with
  | .queue q => { s with rr := s.rr.setIfInBounds c.2 q }
  | .hart _ => s

/-- The candidate that the LFE serves: the one of highest effective priority, where the one it serves already is kept unless another
has a strictly higher priority (R302, R303). -/
def State.servedNow (s : State) : Option (Served × Nat) :=
  match s.serveOrder with
  | [] => none
  | c :: r => some (((c :: r).find? fun k => some k.1 == s.served && k.2 == c.2).getD c)

/-- GANG_SERVE (R302, R303). -/
def State.serve (s : State) : State :=
  match s.servedNow with
  | none => { s with served := none, named := [], namedSlots := [] }
  | some c => ({ s.turnRound c with served := some c.1 } : State).nameServed c

/-- The candidate that may take a place now, and whether it may take what the served one has named: the served one where it fits; and
while it waits, the first of lower priority that fits elsewhere (R302, R303). -/
def State.nextPlaced (s : State) : Option ((Served × Nat) × Bool) :=
  match s.servedNow with
  | none => none
  | some c =>
    if s.fits c true then some (c, true)
    else if s.served ≠ some c.1 then none
    else ((s.serveOrder.filter fun k => k.2 < c.2).find? fun k => s.fits k false).map fun k => (k, false)

/-- share (R23). -/
def shareOf (n h : Nat) : Nat := 16 * (((n + h - 1) / h + 15) / 16)

/-- Bits of a mask from a list. -/
def bitsOf (l : List Nat) : Nat := l.foldl (fun a k => a ||| 2 ^ k) 0

/-- Hart h of a gang as placement starts it (R24, R25, R286, R299). -/
def State.entryHart (s : State) (p : BitVec 512) (gid : BitVec 48) (prio core slot h : Nat) (groups : List Nat) : Hart :=
  let n := (pkN p).toNat
  let sz := pkH p
  let lo := min n (h * shareOf n sz)
  let e := s.spaceAt (pkAs p)
  let args : List Word := [0, 0, Config.tcmTop - BitVec.ofNat 64 (16384 * slot), BitVec.ofNat 64 lo,
    BitVec.ofNat 64 (min n ((h + 1) * shareOf n sz) - lo), BitVec.ofNat 64 h, BitVec.ofNat 64 sz,
    pkArg p 0, pkArg p 1, pkArg p 2, pkArg p 3]
  { Hart.blank core slot with
    x := Vector.ofFn fun (i : Fin 32) => args[i.val]?.getD 0
    pc := pkEntry p
    gmask := BitVec.ofNat 4 (bitsOf groups)
    request := if pkDet p then 4 else pkLgmax p + 1
    lgmin := pkLgmin p + 1
    lgmax := pkLgmax p + 1
    wwait := pkWaddr p
    mvl := BitVec.ofNat 14 (groups.length * 256 / (if pkProt p then 2 else 1))
    hartix := BitVec.ofNat 11 h
    gangsz := BitVec.ofNat 11 sz
    gangid := gid
    tvec := e.tvec &&& ~~~(0x3F#64)
    wbase := (e.wb0 + BitVec.ofNat 64 (0x800 * h)).extractLsb' 0 52 &&& ~~~(0x3F#52)
    route := pkRoute p
    prio := BitVec.ofNat 3 prio
    ptbase := spaceRoot (pkAs p) e
    prtbase := e.prtbase.extractLsb' 0 52
    fplist := e.fplist.extractLsb' 0 52
    hotbase := e.hotbase.extractLsb' 0 52
    det := pkDet p
    prot := pkProt p
    status := .running }

/-- A core may take a hart that needs some groups: the groups it gets (R43, R303, R304). -/
def State.roomFor (s : State) (m : BitVec 384) (id need : Nat) (det useNamed : Bool) (prio : Option Nat) : Option (List Nat) :=
  let core := id / 4
  let free := s.freeFor core useNamed prio
  if !m.getLsbD core || (s.hartAt id).isSome || (!useNamed && s.namedSlots.contains id) then none
  else if det then (if free.length = 4 ∧ s.harts.all fun h => h.core != core then some free else none)
  else if free.length < need || s.harts.any fun h => h.core == core && h.det then none
  else some (free.take need)

/-- Groups of a core given to a slot, for a gang (R35, R38). -/
def State.giveGroups (s : State) (core slot : Nat) (gang : BitVec 48) (ks : List Nat) : State :=
  ks.foldl (fun (t : State) k => (t.setLpr core (lprGive (t.lprOf core) k slot)).takeGroup core k gang) s

/-- A hart enters a slot. -/
def State.addHart (s : State) (h : Hart) : State := { s with others := s.others ++ [h] }

/-- Harts of a gang placed one after another on the slots named (R303). -/
def State.placeFrom (s : State) (o : Offer) (gid : BitVec 48) (useNamed : Bool) (prio : Option Nat) : Nat → List Nat → Option State
  | _, [] => some s
  | h, id :: r =>
    let p := o.packet
    match s.roomFor (s.maskAt (pkCmsel p)) id (pkLgmin p + 1) (pkDet p) useNamed prio with
    | none => none
    | some ks =>
      let t := s.giveGroups (id / 4) (id % 4) gid ks
      (t.addHart (s.entryHart p gid o.prio (id / 4) (id % 4) h ks)).placeFrom o gid useNamed prio (h + 1) r

/-- The 16 barriers of a gang of h harts at placement (R308). -/
def freshBarriers (h : Nat) : List Barrier := List.replicate 16 ⟨List.replicate h true, List.replicate h false, 0⟩

/-- A packet's gang placed on the slots named, if it can be (R303, R44). -/
def State.placeGang (s : State) (o : Offer) (places : List Nat) (served : Bool) : Option State :=
  let p := o.packet
  let gid := gangIdOf o.queue (s.queueAt o.queue).head
  if places.length ≠ pkH p ∨ 512 ≤ s.gangs.length ∨ (s.gangOf gid).isSome then none
  else
    match s.placeFrom o gid served (s.asksNow (.queue o.queue, o.prio)) 0 places with
    | none => none
    | some t =>
      let g : Gang := ⟨gid, pkH p, pkN p, pkLgmin p + 1, pkCmsel p, s.maskAt (pkCmsel p), pkAs p, o.crec, pkCrec p, o.crecCow, o.at_,
        s.spaceAt (pkAs p), [], s.time, 0, 0, 0,
        freshBarriers (pkH p), false⟩
      some ({ t with gangs := t.gangs ++ [g] }.advance o.queue)

/-- The LFE has placed what it may: it serves afresh, where that was the served gang or hart (R303). -/
def State.doneServing (s : State) (c : Served × Nat) (served : Bool) : State :=
  let t := s.turnRound c
  if served then { t with served := none, named := [], namedSlots := [] } else t

/-- GANG_PLACEMENT (R303): the gang that may take a place now, on the slots named, if it can be placed there. -/
def State.placement (s : State) (places : List Nat) : State :=
  match s.nextPlaced with
  | some ((.queue q, prio), served) =>
    match (s.offers.find? fun o => o.queue == q).bind fun o => s.placeGang o places served with
    | some t => t.doneServing (.queue q, prio) served
    | none => s
  | some ((.hart _, _), _) | none => s

/-! ### Barriers -/

/-- COMPLETE (R308). -/
def Barrier.complete (b : Barrier) : Barrier :=
  if (b.member.zip b.arr).all fun m => !m.1 || m.2 then
    { b with phase := b.phase + 1, arr := b.arr.map fun _ => false }
  else b

/-- An arrival of hart h, then COMPLETE (R308, R309). -/
def Barrier.arrive (b : Barrier) (h : Nat) : Barrier := { b with arr := b.arr.set h true }.complete

/-- A drop of hart h, then COMPLETE (R308, R309). -/
def Barrier.drop (b : Barrier) (h : Nat) : Barrier :=
  if b.member[h]?.getD false then { b with member := b.member.set h false, arr := b.arr.set h false }.complete else b

/-- A barrier of a gang. -/
def State.barrierAt (s : State) (id : BitVec 48) (b : Nat) : Option Barrier := (s.gangOf id).bind fun g => g.barriers[b]?

/-- The state with a barrier changed. -/
def State.onBarrier (s : State) (id : BitVec 48) (b : Nat) (f : Barrier → Barrier) : State :=
  s.onGang id fun g => { g with barriers := g.barriers.modify b f }

/-- EXIT_GDROP_APPLY (R307): a drop that exit made, once every earlier access of the hart, and every write it may have read, is
performed (R239). -/
def State.exitDrop (s : State) (k : Nat) : State :=
  match s.exitDrops[k]? with
  | none => s
  | some d =>
    let q := fun (w : Write) => (w.gang == BitVec.zeroExtend 64 d.gang && w.hartix == d.hartix) || d.cores.contains w.core
    let t := (s.releaseEnded fun _ => true).drain q
    if t.wq.any q || t.ended.any fun h => h.gangid == d.gang && h.hartix == d.hartix then t
    else { t.onBarrier d.gang d.barrier fun b => b.drop d.hartix.toNat with exitDrops := t.exitDrops.eraseIdx k }

/-! ### Completion and abort -/

/-- A write that the completion record of a gang waits for: its own, and those in the queues of the cores its harts stood on, which
they may have read (R239, R240, R305). -/
def Gang.awaits (g : Gang) (w : Write) : Bool := w.gang == BitVec.zeroExtend 64 g.id || g.cores.contains w.core

/-- Every write of a gang is performed at SYSTEM scope, with every write of tier X that its harts may have observed (R239), its publications
and hotness additions are made, and no hart of it stands in a slot or is switched out (R292, R305). -/
def State.quiet (s : State) (g : Gang) : Bool :=
  let w := BitVec.zeroExtend 64 g.id
  s.wq.all (fun k => !g.awaits k) && s.unacked.isEmpty && s.pubs.all (fun k => k.gang != w) && s.ended.all (fun h => h.gangid != g.id) &&
    s.hotPend.all (fun k => k.gang != w) && s.harts.all (fun h => h.gangid != g.id) && s.swapped.all (fun k => k.gang != g.id)

/-- COMPLETION_RECORD (R305, R306, R336). -/
def State.completion (s : State) (id : BitVec 48) : State :=
  match s.gangOf id with
  | none => s
  | some g =>
    let s := (s.releaseEnded fun _ => true).drain g.awaits
    if !(g.aborted || (g.exited == g.h && s.exitDrops.all fun d => d.gang != id)) || !s.quiet g then s
    else
      let ended := fun (t : State) => { t with
        gangs := t.gangs.filter fun k => k.id != id, exitDrops := t.exitDrops.filter fun d => d.gang != id }
      match s.recordPlace g.space g.crec g.crecCow with
      | .later => s
      | .empty => ended (s.undeliverable (id.extractLsb' 0 6) (id.extractLsb' 16 32) g.packet 3)
      | .at_ pa t =>
        ended (t.writeRecord pa (if g.aborted then 3 else 1) 0 g.exited id g.tstart (BitVec.zeroExtend 64 g.flags) g.rpcx)

/-- What the record of an aborted gang takes from a hart as it stops, and the cores it stood on (R336). -/
def Gang.stopped (g : Gang) (h : Hart) : Gang :=
  { g with
    cores := g.cores ++ h.cores
    flags := g.flags ||| h.flags.extractLsb' 0 7
    rpcx := g.rpcx + h.rpcx }

/-- The drawer requests and the failed publications of a hart that ends go with it (R402). -/
def State.forget (s : State) (h : Hart) : State :=
  let t := s.withdraw h
  { t with pubs := t.pubs.filter fun p => !(p.mine h && p.poisoned) }

/-- The current hart of an aborted gang stops (R336): its issued writes go on, and its slot and groups are free. -/
def State.stopAborted (s : State) : State :=
  let h := s.hart
  let s := ((s.keepEnded h).onGang h.gangid fun g => g.stopped h).forget h
  let s := { s with hart := { h with status := .gone, held := [], rheld := [], due := none }, conv := Convoy.fresh }
  ((s.freeGroups h.core h.slot).pruneSets).rotate

/-- The hart waits for a trunk or a row with a part of its convoy's writing instructions performed, or its matrix instruction is between
passes: it stands at no convoy boundary (R205, R330, R336, log entry 75). -/
def Hart.inWrites (h : Hart) : Bool :=
  h.pass.isSome || h.resume.isSome &&
    (match h.status with
      | .waiting (.trunk _ write) _ => write
      | .waiting .row _ => true
      | .waiting _ _ | .running | .halted | .doubleTrap | .gone => false)

/-- The current hart's gang is aborted, and the hart stands where it stops. -/
def State.abortedHere (s : State) : Bool :=
  s.hart.status != .gone && !s.hart.inWrites && ((s.gangOf s.hart.gangid).any fun g => g.aborted)

/-- The harts of a gang that stand in other slots stop, but one part way through its writes goes on to its convoy boundary; and those
switched out end (R336). -/
def State.stopOthers (s : State) (id : BitVec 48) : State :=
  let stops := fun (h : Hart) => h.gangid == id && !h.inWrites
  let gone := s.others.filter stops
  let s := gone.foldl (fun (t : State) h =>
    ((((t.keepEnded h).onGang id fun g => g.stopped h).forget h).freeGroups h.core h.slot))
      { s with others := s.others.filter fun h => !stops h }
  let out := s.swapped.filter fun k => k.gang == id
  let s := out.foldl (fun (t : State) k => (t.onGang id fun g => g.stopped k.keep).forget k.keep) s
  { s with
    swapped := s.swapped.filter fun k => k.gang != id
    frames := s.frames.filter fun f => !(out.any fun k => k.frame == f)
    exitDrops := s.exitDrops.filter fun d => d.gang != id }.pruneSets

/-- The current hart of a gang stands stopped, by halt or by a double trap (R327, R397). -/
def State.stoppedHere (s : State) (id : BitVec 48) : Bool :=
  s.hart.gangid == id && (match s.hart.status with
    | .halted | .doubleTrap => true
    | .running | .waiting _ _ | .gone => false)

/-- GANG_ABORT (R336): a GANGID value written to the abort register. The harts in other slots stop at their convoy
boundaries, and a hart that stands stopped at once (R397); a hart that aborts its own gang stops at its next boundary. -/
def State.abort (s : State) (v : Word) : State :=
  let id := v.extractLsb' 0 48
  if BitVec.zeroExtend 64 id ≠ v then s
  else
    match s.gangOf id with
    | none => s
    | some _ =>
      let t := (s.onGang id fun g => { g with aborted := true, barriers := [] }).stopOthers id
      if t.stoppedHere id then t.stopAborted else t

/-! ### Full context switch -/

/-- REWIND as the CSR shows it (R380). -/
def Hart.rewindCsr (h : Hart) : Word :=
  BitVec.ofNat 64 ((if h.rewEn then 1 else 0) + 2 * h.rewLimit.toNat + 65536 * h.rewCount.toNat)

/-- The hart with REWIND's fields taken from a value, COUNT included (R316). -/
def Hart.setRewind (h : Hart) (w : Word) : Hart :=
  { h with rewEn := w.getLsbD 0, rewLimit := w.extractLsb' 1 3, rewCount := w.extractLsb' 16 32 }

/-- The doublewords of a frame from 0x100 on (R316, Table 5). -/
def Hart.frameCsrs (h : Hart) : List Nat :=
  (h.mfc.toList.map fun w => w.toNat) ++ (h.mb.toList.map fun w => w.toNat) ++ (h.ts.toList.map fun w => w.toNat) ++
    [h.vcarry.toNat, h.pcarry.toNat, h.wmark.toNat, h.wwait.toNat, h.psvlo.toNat, h.psvhi.toNat, h.mck.toNat, h.flags.toNat,
      h.vl.toNat, h.vtype.toNat, h.vstart.toNat, h.lanesCsr.toNat, h.convoys.toNat, h.route.toNat, h.prio.toNat, h.tstatus.toNat]

/-- A permuted-set slot in a frame: the PSD address, then exponent and counter; an exponent of 32 is a stopped recording. -/
def PSlot.frame (k : PSlot) : List Nat :=
  [if k.psd.isSome then k.psdVa.toNat else 0, (k.exp.elim 32 fun e => e.toNat) + 2 ^ 32 * k.count.toNat]

/-- The doublewords of a frame from 0x000 to 0x2CF (R316, Table 5). -/
def Hart.frameWords (h : Hart) : List Nat :=
  [h.pc.toNat] ++ ((h.x.toList.drop 1).map fun w => w.toNat) ++ h.frameCsrs ++
    (h.rpc.toList.map fun w => w.toNat) ++ [h.rpcx.toNat] ++
    [h.ptbase.toNat, h.prtbase.toNat, h.fplist.toNat, h.hotbase.toNat, h.tepc.toNat, h.tscratch.toNat] ++
    ((h.slots.toList.drop 1).flatMap PSlot.frame) ++
    [(if h.vdead then 1 else 0) + (if h.copyBuf.isEmpty then 0 else 2) + 4 * (h.copyBuf.length % 2048) +
        (if h.priv = .s then 8192 else 0),
      h.rewindCsr.toNat, h.dbgctl.toNat, h.tcause.toNat, h.tval.toNat, h.tvec.toNat, h.wbase.toNat]

/-- RESUME, TSTATUS bit 1 (R326). -/
def Hart.resuming (h : Hart) : Bool := h.tstatus.getLsbD 1

/-- A frame keeps vector register r, the first register of its group being named in VCARRY, or a resumption being pending (R316,
R335). -/
def Hart.keepsReg (h : Hart) (r : Nat) : Bool :=
  let m := lmulOf h.vtype
  !h.vdead && (h.resuming || h.vcarry.getLsbD (r / m * m))

/-- A frame keeps predicate p (R316, R335). -/
def Hart.keepsPred (h : Hart) (p : Nat) : Bool := !h.vdead && (h.resuming || p == 63 || h.pcarry.getLsbD p)

/-- The parts of a frame: offset and bytes (R316, Table 5). -/
def Hart.frameParts (h : Hart) : List (Nat × List Byte) :=
  [(0, h.frameWords.flatMap fun w => leBytes 8 w)] ++
    (((List.range 32).filter h.keepsReg).flatMap fun r =>
      [(0x1000 + 0x400 * r, leBytes (32 * h.lanes) (h.v[r]?.getD 0).toNat), (0x9000 + 0x80 * r, leBytes 128 (h.side[r]?.getD 0).toNat)]) ++
    (((List.range 64).filter h.keepsPred).map fun p => (0xA000 + 0x400 * p, leBytes 1024 (h.p[p]?.getD 0).toNat)) ++
    h.copyBuf.map fun e => (0x1A000 + 8 * e.1, leBytes 8 e.2.toNat)

/-- A part of a frame written (R357, R401). -/
def State.writePart (s : State) (pa : Nat) (bs : List Byte) : State :=
  let t := s.finishParts pa bs.length
  (({ t with
    mem := Memory.splice t.mem pa bs
    poison := clearPoison t.poison none pa bs.length pa (pa + bs.length) } : State).dropCopies none pa bs.length).stampRange (lineOf pa) bs.length

/-- A free frame of the context pool (R299, R314). DESIGN CHOICE: the lowest one (log entry 92). -/
def State.freeFrame (s : State) : Option Nat :=
  ((List.range s.poolCount.toNat).map fun i => s.poolBase.toNat + 0x20000 * i).find? fun f => !s.frames.contains f

/-- A hart may be switched out at once: it stands at a convoy boundary, or waits in vwait, pswait, vxrecv, at a length-setting instruction
or at a barrier, handles no trap, is not stopped, and no entries wait for its lanes (R141, R304, R308, R311, R314, R327, R335, R397). -/
def State.switchable (s : State) (h : Hart) : Bool :=
  !h.tip && h.pass.isNone && h.due.isNone && (List.range 4).all (fun k => !(h.gmask.getLsbD k && s.inbound h.core k)) &&
    (match h.status with
      | .running => true
      | .waiting .watch _ | .waiting .version _ | .waiting .pop _ | .waiting .barrier _ => true
      | .waiting (.watermark _) _ | .waiting (.lanes _) _ | .waiting .handover _ => true
      | .waiting _ _ | .halted | .doubleTrap | .gone => false)

/-- FULL_CONTEXT_SWITCH of the current hart (R314): its state goes to a free frame, its slot and groups are free, its translations
are dropped. It follows the acceptance of the hart's writes into its core's queue. -/
def State.switchOut (s : State) : State :=
  match s.freeFrame with
  | none => s
  | some f =>
    if !s.hart.switchReq || !s.switchable s.hart then s
    else
      let s := s.forceCheck.release fun _ => true
      let h := s.hart
      if !h.held.isEmpty then s
      else
      let s := h.frameParts.foldl (fun (t : State) p => t.writePart (f + p.1) p.2) s
      let keep := { h with held := [], rheld := [], check := none, switchReq := false, reclaimAt := none }
      let s : State := { s with
        frames := s.frames ++ [f]
        swapped := s.swapped ++ [(⟨f, h.gangid, h.hartix, h.groups, h.prio, keep⟩ : Swapped)]
        hart := { keep with status := .gone } }
      ((s.freeGroups h.core h.slot).dropTlb fun t => t.core == h.core && t.asid == h.ptbase.extractLsb' 52 9).rotate

/-- RECLAIM_DEADLINE (R42): a victim that has not reached a length-setting instruction in 262,144 cycles is to be switched out. -/
def State.deadline (s : State) (id : Nat) : State :=
  match s.hartAt id with
  | none => s
  | some h =>
    match h.reclaimAt with
    | some c => if c + 262144 ≤ s.cycle then s.onHart id fun h => { h with switchReq := true } else s
    | none => s

/-- A doubleword of a frame. -/
def State.frameWord (s : State) (f off : Nat) : Word := BitVec.ofNat 64 (Memory.value s.mem (f + off) 8)

/-- The permuted-set slot that a frame records. The frame has no flag for a bound slot (R316): an address of 0 is one where the hart that
was switched out bound a PSD there (log entry 67). -/
def State.frameSlot (s : State) (f : Nat) (keep : Hart) (k : Nat) : PSlot :=
  let va := s.frameWord f (0x260 + 16 * (k - 1))
  let w := s.frameWord f (0x268 + 16 * (k - 1))
  let old := keep.slots[k]?.getD PSlot.unbound
  if k = 0 ∨ (va = 0 ∧ !(old.psd.isSome && old.psdVa == 0)) then PSlot.unbound
  else ⟨if va = old.psdVa then old.psd else s.spacePa keep.ptbase va, va,
    if (w.extractLsb' 0 8).toNat < 32 then some (w.extractLsb' 0 5) else none, w.extractLsb' 32 32⟩

/-- The hart that a frame records, in a slot and on some groups (R314, R316): vector state the frame does not hold is undefined. -/
def State.frameHart (s : State) (f : Nat) (keep : Hart) (core slot : Nat) (groups : List Nat) : Hart :=
  let w := s.frameWord f
  let m := w 0x290
  let h := { keep with
    core := core
    slot := slot
    gmask := BitVec.ofNat 4 (bitsOf groups)
    pc := w 0
    x := Vector.ofFn fun (i : Fin 32) => if i.val = 0 then 0 else w (8 * i.val)
    mfc := Vector.ofFn fun (i : Fin 4) => (w (0x100 + 8 * i.val)).extractLsb' 0 27
    mb := Vector.ofFn fun (i : Fin 8) => (w (0x120 + 8 * i.val)).extractLsb' 0 53
    ts := Vector.ofFn fun (i : Fin 4) => w (0x160 + 8 * i.val)
    vcarry := (w 0x180).extractLsb' 0 32
    pcarry := w 0x188
    wmark := w 0x190
    wwait := w 0x198
    psvlo := w 0x1A0
    psvhi := w 0x1A8
    mck := (w 0x1B0).extractLsb' 0 6
    flags := (w 0x1B8).extractLsb' 0 10 &&& 0x37F
    vl := (w 0x1C0).extractLsb' 0 14
    vtype := (w 0x1C8).extractLsb' 0 13 &&& 0x1DDB
    vstart := (w 0x1D0).extractLsb' 0 14
    convoys := w 0x1E0
    route := (w 0x1E8).extractLsb' 0 6
    prio := (w 0x1F0).extractLsb' 0 3
    tstatus := (w 0x1F8).extractLsb' 0 7
    rpc := Vector.ofFn fun (i : Fin 5) => w (0x200 + 8 * i.val)
    rpcx := w 0x228
    ptbase := (w 0x230).extractLsb' 0 61 &&& ~~~(0xFFFF#61)
    prtbase := (w 0x238).extractLsb' 0 52
    fplist := (w 0x240).extractLsb' 0 52
    hotbase := (w 0x248).extractLsb' 0 52
    tepc := w 0x250
    tscratch := w 0x258
    slots := Vector.ofFn fun (i : Fin 4) => s.frameSlot f keep i.val
    vdead := m.getLsbD 0
    copyBuf := if m.getLsbD 1 then (List.range (m.extractLsb' 2 11).toNat).map fun k => (k, s.frameWord f (0x1A000 + 8 * k)) else []
    priv := if m.getLsbD 13 then .s else .u
    dbgctl := (w 0x2A0).extractLsb' 0 57
    tcause := (w 0x2A8).extractLsb' 0 11
    tval := w 0x2B0
    tvec := w 0x2B8 &&& ~~~(0x3F#64)
    wbase := (w 0x2C0).extractLsb' 0 52 &&& ~~~(0x3F#52)
    status := match keep.status with | .waiting .barrier c => .waiting .barrier c | .waiting _ _ | .running | .halted | .doubleTrap | .gone => .running }.setRewind (w 0x298)
  let p63 := BitVec.ofNat 8192 (Memory.value s.mem (f + 0xA000 + 0x400 * 63) 1024)
  { h with
    v := Vector.ofFn fun (r : Fin 32) =>
      if keep.keepsReg r.val then BitVec.ofNat 8192 (Memory.value s.mem (f + 0x1000 + 0x400 * r.val) (32 * keep.lanes))
      else Config.freeVec (s.fresh + r.val)
    side := Vector.ofFn fun (r : Fin 32) =>
      if keep.keepsReg r.val then BitVec.ofNat 1024 (Memory.value s.mem (f + 0x9000 + 0x80 * r.val) 128)
      else Config.freeSide (s.fresh + r.val)
    p := Vector.ofFn fun (p : Fin 64) =>
      if keep.keepsPred p.val then BitVec.ofNat 8192 (Memory.value s.mem (f + 0xA000 + 0x400 * p.val) 1024)
      else Config.freeVec (s.fresh + 32 + p.val)
    resume := keep.resume.map fun (r : Resume) =>
      if r.soft then r
      else (⟨h.tstatus.extractLsb' 2 4, (h.tcause.extractLsb' 8 2).toNat, p63, false, h.tcause.getLsbD 10⟩ : Resume)
    cores := if keep.cores.contains core then keep.cores else keep.cores ++ [core] }

/-- HART_RESUME (R302, R314): the switched-out hart that may take a place now, in a free slot of a core of its gang's entry, with the
lowest free groups. -/
def State.resumeHart (s : State) (k id : Nat) : State :=
  match s.swapped[k]?, s.nextPlaced with
  | some w, some ((.hart f, prio), served) =>
    let m := match s.gangOf w.gang with | some g => g.mask | none => 0
    match if w.frame = f then s.roomFor m id w.groups w.keep.det served (s.asksNow (.hart f, prio)) else none with
    | none => s
    | some ks =>
      let h := s.frameHart w.frame w.keep (id / 4) (id % 4) ks
      let t := (s.giveGroups (id / 4) (id % 4) w.gang ks).addHart
        (if h.rewEn then h.checkAt h true else h)
      { t with
        fresh := t.fresh + 96
        swapped := t.swapped.eraseIdx k
        frames := t.frames.filter fun f => f != w.frame }.doneServing (.hart f, prio) served
  | _, _ => s

/-! ### Doorbell and launch -/

/-- A write of TAIL (R298). -/
def State.doorbell (s : State) (q : BitVec 6) (tail : BitVec 32) : State :=
  s.onQueue q fun k => if (tail - k.head).toNat ≤ 2 ^ k.log2sz.toNat then { k with tail := tail } else { k with ovf := true }

/-- The step of launch at the LFE (R301): the state, and rd. DESIGN CHOICE: the packet's 64 bytes in a ring in tier H stamp one tag (R248;
log entry 89). -/
def State.launchAt (s : State) (q : Word) (packet : List Byte) : State × Word :=
  let k := s.queueAt (q.extractLsb' 0 6)
  if 63 < q.toNat ∨ !k.en ∨ !k.dev ∨ (s.hart.priv = .u ∧ !k.sup ∧ k.as ≠ s.hart.ptbase.extractLsb' 52 9) then (s, 2)
  else if (k.tail - k.head).toNat = 2 ^ k.log2sz.toNat then
    (s.onQueue (q.extractLsb' 0 6) fun k => { k with ovf := true }, 1)
  else
    let at_ := k.base.toNat + 64 * (k.tail.toNat % 2 ^ k.log2sz.toNat)
    let t := if k.loc then s else s.poke at_ packet 64
    (t.onQueue (q.extractLsb' 0 6) fun k => { k with tail := k.tail + 1 }, 0)

end Sys2Proof.Machine
end

