-- ==== Sys2Proof/Machine/VConfig.lean ====
section
/-! DEFINITION. Setting the vector length and giving up lanes: the length-setting instructions of MAJ 4 and 12, and vrel (R31 to
R43, R86, R91, R139 to R144, R332). -/

namespace Sys2Proof.Machine

/-! ### The grant -/

/-- Positions, among the hart's lane groups in ascending order, of groups of a mask. -/
def positionsOf (gmask : BitVec 4) (ks : List Nat) : List Nat :=
  let held := (List.range 4).filter fun k => gmask.getLsbD k
  (List.range held.length).filter fun j => ks.contains (held[j]?.getD 4)

/-- A mask with n bits set from each of some places. -/
def spans (n : Nat) (at_ : List Nat) : Nat := at_.foldl (fun a b => a ||| ((2 ^ n - 1) <<< b)) 0

/-- Predicate bits of elements that lie in the groups at some positions (R32, R376). -/
def elemsIn (h : Hart) (pos : List Nat) : Pred :=
  BitVec.ofNat 8192 ((List.range 8192).foldl (fun (a : Nat) e =>
    let u := e % h.plane
    if pos.contains ((if h.prot then u / 4 else u / 8)) then a + 2 ^ e else a) 0)

/-- A vector register group carried from one grant to another: elements below V and the side-array entries of their blocks
(R37). -/
def Hart.carryGroup (h old : Hart) (v n : Nat) : Hart :=
  let sew := old.sew
  let h := (List.range n).foldl (fun (h : Hart) e => h.setElem sew v e (old.elem sew v e)) h
  (List.range ((n + 15) / 16)).foldl (fun (h : Hart) b => h.setEntry sew v b (old.entry sew v b)) h

/-- MVL of a grant under a VTYPE (R33). -/
def Hart.mvlOf (h : Hart) (vt : BitVec 13) : Nat := h.plane * (256 / sewOf vt) * lmulOf vt

/-- The hart on a new grant (R37, R38): what it carries under an unchanged element width and grouping keeps its place; the rest of
the slices that arrive from another gang is zero, and every other bit is undefined. `taken` names the groups that held another
gang's data. -/
def Hart.restripe (h : Hart) (gmask : BitVec 4) (taken : List Nat) (carries : Bool) (fresh : Nat) : Hart :=
  let pos := positionsOf gmask taken
  let vmask : VReg := ~~~(BitVec.ofNat 8192 (spans 2048 (pos.map fun j => 2048 * j)))
  let smask : Side := ~~~(BitVec.ofNat 1024 (spans 256 (pos.map fun j => 256 * j)))
  let n : Hart := { h with
    gmask := gmask
    v := Vector.ofFn fun (i : Fin 32) => Config.freeVec (fresh + i.val) &&& vmask
    side := Vector.ofFn fun (i : Fin 32) => Config.freeSide (fresh + i.val) &&& smask }
  let keep := if carries then min h.vln (min (h.mvlOf h.vtype) (n.mvlOf h.vtype)) else 0
  let pmask : Pred := if pos.isEmpty then BitVec.allOnes 8192 else ~~~(elemsIn n pos)
  let low : Pred := BitVec.ofNat 8192 (2 ^ keep - 1)
  let n : Hart := { n with
    p := Vector.ofFn fun (i : Fin 64) =>
      let free := Config.freeVec (fresh + 32 + i.val) &&& pmask
      if i.val = 0 then h.p[i]
      else if h.pcarry.getLsbD i.val then (h.p[i] &&& low) ||| (free &&& ~~~low) else free }
  let m := lmulOf h.vtype
  ((List.range 32).filter fun v => h.vcarry.getLsbD v && v % m == 0).foldl (fun n v => n.carryGroup h v keep) n

/-- The current hart holds the groups of a mask from now on (R37, R38). Groups it gives up are free where LPR still gives them its
slot. A reclaim that struck while it waited has changed the grant already (R210). -/
def State.regrant (s : State) (gmask : BitVec 4) (carries : Bool) : State :=
  let h := s.hart
  if gmask = h.gmask then
    if h.shrunk && !carries then { s with hart := h.restripe gmask [] false s.fresh, fresh := s.fresh + 96 } else s
  else
    let core := h.core
    let got := (List.range 4).filter fun k => gmask.getLsbD k && !h.gmask.getLsbD k
    let gone := (List.range 4).filter fun k => !gmask.getLsbD k && lprOwner (s.lprOf core) k == some h.slot
    let foreign := got.filter fun k => tableGet s.laneGang (4 * core + k) != some h.gangid
    let t := s.giveGroups core h.slot h.gangid got
    let t := t.setLpr core (gone.foldl lprFree (t.lprOf core))
    { t with hart := h.restripe gmask foreign carries s.fresh, fresh := s.fresh + 96 }

/-- Groups of the current hart that were named for reclaim; a group with inbound entries is not taken (R36, R41, R311). -/
def State.namedGroups (s : State) : List Nat :=
  (List.range 4).filter fun k => s.hart.gmask.getLsbD k && lprOwner (s.lprOf s.hart.core) k != some s.hart.slot &&
    !s.inbound s.hart.core k

/-- A mask without some groups. -/
def without (m : BitVec 4) (ks : List Nat) : BitVec 4 := m &&& ~~~(BitVec.ofNat 4 (bitsOf ks))

/-- What R36 grants. -/
inductive Grant where
  /-- The groups, and the number of groups still asked for. -/
  | some (gmask : BitVec 4) (short : Nat)
  | wait (why : Why)
  deriving DecidableEq, Repr

/-- The request of a length-setting instruction, in groups (R36, R91). -/
def Hart.requestOf (h : Hart) (vt : BitVec 13) : Nat :=
  let r := match (vt.extractLsb' 11 2).toNat with | 0 => h.request | 1 => 1 | 2 => 2 | _ => 4
  min (max r h.lgmin) h.lgmax

/-- A hart's grant does not change: under DET, or while a resumption is pending (R48, R332). -/
def Hart.keepsGrant (h : Hart) : Bool := h.det || h.resuming

/-- Groups of its core that vrel of the current hart gave up (R144). -/
def State.givenUp (s : State) : List Nat := (List.range 4).filter fun k => s.relPend.contains (4 * s.hart.core + k) &&
  lprOwner (s.lprOf s.hart.core) k == some s.hart.slot

/-- The free groups that the current hart may take, lowest first: those it gave up by vrel itself are free for it (R40; log entry 53), and
the requests that go before its own on its core take theirs first (R43; log entry 86). -/
def State.freeHere (s : State) : List Nat :=
  let h := s.hart
  let free := (List.range 4).filter fun k => s.groupFree h.core k false || s.givenUp.contains k
  free.drop ((s.others.filter fun o => o.core == h.core && asksFirst o h).map s.awaited).sum

/-- The procedure of R36, with the groups that LPR gives the hart's slot (R35). -/
def State.grant (s : State) (vt : BitVec 13) : Grant :=
  let h := s.hart
  if h.keepsGrant then .some h.gmask 0
  else
    let req := h.requestOf vt
    let named := s.namedGroups
    let given := (List.range 4).filter fun k => !h.gmask.getLsbD k && lprOwner (s.lprOf h.core) k == some h.slot &&
      !s.givenUp.contains k
    if given.any fun k => s.groupHeld h.core k then .wait .handover
    else
      let held := (List.range 4).filter fun k => (h.gmask.getLsbD k && !named.contains k) || given.contains k
      let more := if named.isEmpty then s.freeHere.take (req - held.length) else []
      let all := (List.range 4).filter fun k => held.contains k || more.contains k
      let all := if named.isEmpty then all.take req else all
      if all.isEmpty then .wait (.lanes req)
      else .some (BitVec.ofNat 4 (bitsOf all)) (if named.isEmpty then req - all.length else 0)

/-- Victims named for the hart's own request, where no group of its core is free (R35, R41). -/
def State.nameOwn (s : State) (short : Nat) : State :=
  if (s.freeOn s.hart.core false).isEmpty then
    s.nameVictims s.hart.core s.hart.prio.toNat (some s.hart.slot) short
  else s

/-- A hart that waits at a length-setting instruction: reclaims named against it take effect, and its own request names victims
(R39, R41, R141). The slices are striped anew with VCARRY and PCARRY consulted as they stand, under the VTYPE in force: what the waiting
instruction will set is not known yet (log entry 68). -/
def State.standing (s : State) : State :=
  let drop := fun (s : State) =>
    if s.hart.keepsGrant || s.namedGroups.isEmpty then s
    else
      let t := s.regrant (without s.hart.gmask s.namedGroups) true
      { t with hart := { t.hart with reclaimAt := none, shrunk := true } }
  match s.hart.status with
  | .waiting (.lanes req) _ =>
    let t := drop s
    let given := (List.range 4).countP fun k => lprOwner (t.lprOf t.hart.core) k == some t.hart.slot
    t.nameOwn (req - given)
  | .waiting .handover _ | .waiting (.watermark _) _ => drop s
  | .waiting _ _ | .running | .halted | .doubleTrap | .gone => s

/-! ### LENGTH -/

/-- VL for an AVL under a VTYPE and an MVL (R33, R139). -/
def lengthOf (avl : Word) (vt : BitVec 13) (mvl : Nat) : Nat :=
  let n := min avl.toNat mvl
  if blkOf vt then n - n % 16 else n

/-- LENGTH (R139). A strip boundary orders the hart's vector writes at CORE scope (R237). -/
def State.length (s : State) (avl : Word) (vt : BitVec 13) (k : State → Nat → Res) : Res :=
  match s.grant vt with
  | .wait w => .wait w
  | .some gmask short =>
    let h := s.hart
    let named := s.namedGroups
    let t := s.regrant gmask (sewOf vt == sewOf h.vtype && lmulOf vt == lmulOf h.vtype)
    let mvl := t.hart.mvlOf vt
    let vl := lengthOf avl vt mvl
    let t := { t with
      hart := { t.hart with
        request := if h.keepsGrant then h.request else h.requestOf vt
        reclaimAt := if h.keepsGrant || named.isEmpty then h.reclaimAt else none
        vtype := vt
        mvl := BitVec.ofNat 14 mvl
        vl := BitVec.ofNat 14 vl
        vstart := 0
        vdead := false }
      conv := { t.conv with strip := true } }
    k ((t.order [⟨t.hart.seq, .vector, .vector, false, false, false, true, false⟩]).nameOwn short) vl

/-- avl of the SI forms (R140). -/
def State.avl (s : State) (a : BitVec 5) : Word := if a = 0 then BitVec.allOnes 64 else s.x a

/-- A VTYPE value without reserved codes or bits (R91). -/
def vtypeOk (w : Word) : Bool :=
  !w.getLsbD 2 && !w.getLsbD 5 && w.extractLsb' 6 2 != 3 && !w.getLsbD 9 && w.extractLsb' 13 51 == 0

/-- vsetvli (R140). -/
def execVsetvli (d a : BitVec 5) (v : BitVec 13) (s : State) : Out :=
  s.word fun s => s.length (s.avl a) v fun t n => .ok (t.setX d (BitVec.ofNat 64 n))

/-- vsetvl (R91, R140). -/
def execVsetvl (d a b : BitVec 5) (s : State) : Out :=
  s.word fun s =>
    if vtypeOk (s.x b) then
      s.length (s.avl a) ((s.x b).extractLsb' 0 13) fun t n => .ok (t.setX d (BitVec.ofNat 64 n))
    else .trap s.illegal

/-- A doubleword that an instruction names in a CSR and reads or adds to at its ordering point: alignment and translation (R141,
R143). Device registers are reached by scalar loads, stores and atomics alone. -/
def State.wordAt (s : State) (va : Word) (acc : Acc) (k : State → Nat → Res) : Res :=
  if va.toNat % 8 ≠ 0 then .trap (Trap.plain 0x03 va)
  else
    s.prepare (s.scaMode acc) [⟨0, va, 8⟩] fun s map =>
      let pa := physOf map va
      if regionOf pa = .regs then .trap ⟨0x07, va, [⟨pageOf va, 5⟩], 0, false, false⟩ else k s pa

/-- The state in which the expired wait of vsetvlw for a trunk is one of its read (R141, R333). -/
def State.asRead (s : State) : State :=
  match s.conv.expired with
  | some (.watermark ls) => { s with conv := { s.conv with expired := some (.trunk ls false) } }
  | _ => s

/-- A read that waits for its trunk, as a wait of vsetvlw: the hart counts as standing at its length-setting instruction (R141). -/
def Res.asWatermark : Res → Res
  | .wait (.trunk ls _) => .wait (.watermark ls)
  | .wait w => .wait w
  | .ok s => .ok s
  | .trap t => .trap t
  | .replay p => .replay p
  | .hold s w => .hold s w
  | .susp s t m => .susp s t m
  | .pause s w m => .pause s w m
  | .keep g w => .keep g w

/-- The wait of vsetvlw for its watermark: an acquire at DEVICE scope, which returns what its core's queue holds of the location (R141,
R230, R346; log entry 68). -/
def State.watermark (s : State) (bound : Word) (k : State → Res) : Res :=
  if s.hart.wwait = 0 then k s
  else
    Res.asWatermark (s.asRead.wordAt s.hart.wwait .read fun s pa =>
      match s.unservedOf false [(pa, 8)] with
      | l :: ls => s.readStall (l :: ls) false
      | [] =>
        s.readFirst .scalar (s.hart.orders.filter fun o => o.reads && o.after == .scalar) [(pa, 8)] fun s =>
          match s.consumedBy .scalar true [(pa, 8)] with
          | some u => .trap (consumed u)
          | none => if bound.toNat ≤ leNat (s.readBytes .scalar pa 8) then k s else .wait (.watermark []))

/-- vsetvlw (R141). -/
def execVsetvlw (d a : BitVec 5) (v : BitVec 13) (s : State) : Out :=
  s.word fun s => s.watermark (s.x d) fun s => s.length (s.avl a) v fun t n => .ok (t.setX d (BitVec.ofNat 64 n))

/-- vrel (R40, R144): the groups stay with the slot until the earlier vector convoys have drained. -/
def execVrel (s : State) : Out :=
  s.word fun s =>
    let h := s.hart
    let own := (s.keptGroups h).map fun k => 4 * h.core + k
    .ok { s with
      relPend := if h.det then s.relPend else s.relPend ++ own
      fresh := s.fresh + 96
      hart := { h with
        vl := 0
        mvl := 0
        gmask := if h.det then h.gmask else 0
        reclaimAt := none
        vdead := true
        v := Vector.ofFn fun (i : Fin 32) => Config.freeVec (s.fresh + i.val)
        side := Vector.ofFn fun (i : Fin 32) => Config.freeSide (s.fresh + i.val)
        p := Vector.ofFn fun (i : Fin 64) => if i.val = 0 then h.p[i] else Config.freeVec (s.fresh + 32 + i.val) } }

/-- VREL_GROUP_RELEASE (R144): groups that vrel gave up are free. Under REWIND they stay while a rewind could restore the grant that
held them (R384). -/
def State.passOn (s : State) (core slot : Nat) : State :=
  let back := (s.hartAt (4 * core + slot)).any fun h => h.rewEn && h.check.any fun c => c.gmask != 0
  let ks := (List.range 4).filter fun k => !back && s.relPend.contains (4 * core + k) && lprOwner (s.lprOf core) k == some slot
  { s.setLpr core (ks.foldl lprFree (s.lprOf core)) with
    relPend := s.relPend.filter fun n => !(n / 4 == core && ks.contains (n % 4)) }

/-! ### smb -/

/-- Bytes by which n elements advance a pointer (R142). -/
def State.strideOf (s : State) (code : BitVec 3) (n : Nat) : Nat :=
  match code.toNat with
  | 0 => 0
  | 1 => n
  | 2 => 2 * n
  | 3 => 4 * n
  | 4 => 8 * n
  | 5 => 16 * n
  | c =>
    match memCode ((s.hart.mfc[c - 6]?.getD 0).extractLsb' 0 6) with
    | none => 0
    | some none => n * (s.hart.sew / 8)
    | some (some f) =>
      if f.isBx then n / 16 * f.blockBytes
      else if f = .int4 then n / 2
      else n * (f.cw / 8)

/-- PUBLISH (R143): the address is checked now, and the addition is made later. -/
def State.publish (s : State) (n : Nat) (k : State → Res) : Res :=
  s.wordAt s.hart.wmark .write fun s pa =>
    k { s with conv := { s.conv with pubs := s.conv.pubs ++ [(pa, BitVec.ofNat 64 n, s.transOf s.hart.ptbase s.hart.wmark)] } }

/-- smb (R142, R144): m0 to m3 are x12 to x15. -/
def execSmb (c : BitVec 5) (k l m n : BitVec 3) (b : BitVec 8) (p : BitVec 1) (s : State) : Out :=
  s.word fun s =>
    let vl := s.hart.vln
    let rc := s.x c - BitVec.ofNat 64 vl
    let step := fun (t : State) (r : BitVec 5) (code : BitVec 3) => t.setX r (t.x r + BitVec.ofNat 64 (s.strideOf code vl))
    let go := fun (s : State) =>
      let t := (step (step (step (step s 12 k) 13 l) 14 m) 15 n).setX c rc
      let stop : State := { t with
        hart := { t.hart with vl := 0, vstart := 0 }
        conv := { t.conv with strip := true } }
      if 0 < rc.toInt then
        t.length rc t.hart.vtype fun t left =>
          if 0 < left then
            .ok { t with conv := { t.conv with
              npc := some (s.hart.pc + BitVec.ofNat 64 (4 * s.conv.idx) - BitVec.ofNat 64 (4 * b.toNat)) } }
          else .ok t
      else .ok (stop.order [⟨t.hart.seq, .vector, .vector, false, false, false, true, false⟩])
    if p = 1 ∧ 0 < vl ∧ s.hart.wmark ≠ 0 then s.publish vl go else go s

end Sys2Proof.Machine
end

