-- ==== Sys2Proof/Machine/Gang.lean ====
section
/-! DEFINITION. Gang barriers, launch, lane exchange and exit: MAJ 29 (R301, R307 to R311). -/

namespace Sys2Proof.Machine

/-! ### Releases -/

/-- Every earlier access of the hart, in both classes, is performed at DEVICE scope first, with the writes of its core that a
cumulative release takes in (R239, R240). -/
def State.releaseAll (s : State) (k : State → Res) : Res := s.afterWrites (fun _ => true) true false true k

/-! ### Barriers -/

/-- The barrier that rs1 names, for a hart that is a member of it (R308). -/
def State.atBarrier (s : State) (a : BitVec 5) (f : State → Nat → Barrier → Res) : Out :=
  s.word fun s => Res.committing (
    let b := (s.x a).toNat % 16
    match s.barrierAt s.hart.gangid b with
    | none => .ok s
    | some k => if k.member[s.hart.hartix.toNat]?.getD false then f s b k else .ok s)

/-- ARR of the current hart. -/
def State.hasArrived (s : State) (k : Barrier) : Bool := k.arr[s.hart.hartix.toNat]?.getD false

/-- The arrival of the current hart at a barrier. -/
def State.arriveAt (s : State) (b : Nat) : State := s.onBarrier s.hart.gangid b fun k => k.arrive s.hart.hartix.toNat

/-- The phase of a barrier of the hart's gang. -/
def State.phaseOf (s : State) (b : Nat) : Nat := ((s.barrierAt s.hart.gangid b).map fun k => k.phase).getD 0

/-- gbar (R308): the arrival, then the wait for its phase to complete. -/
def execGbar (a : BitVec 5) (s : State) : Out :=
  s.atBarrier a fun s b k =>
    match s.hart.arrived with
    | some (n, phase) => if n = b ∧ k.phase = phase then .wait .barrier else .ok s
    | none =>
      if s.hasArrived k then .wait .barrier
      else s.releaseAll fun s =>
        let t := s.arriveAt b
        if t.phaseOf b ≠ k.phase then .ok t
        else .hold { t with hart := { t.hart with arrived := some (b, k.phase) } } .barrier

/-- garr (R308). -/
def execGarr (a : BitVec 5) (s : State) : Out :=
  s.atBarrier a fun s b k => if s.hasArrived k then .wait .barrier else s.releaseAll fun s => .ok (s.arriveAt b)

/-- gdrop (R308). -/
def execGdrop (a : BitVec 5) (s : State) : Out :=
  s.atBarrier a fun s b _ => s.releaseAll fun s =>
    .ok (s.onBarrier s.hart.gangid b fun k => k.drop s.hart.hartix.toNat)

/-- gwait (R308). -/
def execGwait (a : BitVec 5) (s : State) : Out :=
  s.atBarrier a fun s _ k => if s.hasArrived k then .wait .barrier else .ok s

/-! ### Launch -/

/-- launch (R301). -/
def execLaunch (d a b : BitVec 5) (s : State) : Out :=
  s.word fun s => Res.committing (
    let va := s.x a
    if va.toNat % 64 ≠ 0 then .trap (Trap.plain 0x03 va)
    else
      let ts : List Touch := [⟨0, va, 64⟩]
      s.prepare (s.scaMode .read) ts fun s map =>
        if regionOf (physOf map va) = .regs then .trap ⟨0x07, va, [⟨pageOf va, 5⟩], 0, false, false⟩
        else s.releaseAll fun s => s.whenRead .scalar false map ts fun s =>
          let r := s.launchAt (s.x b) (s.loadBytes .scalar map va 64)
          .ok (r.1.setX d r.2))

/-! ### Lane exchange -/

/-- The physical lanes that the hart holds, each with its hart lane (R32, R310). -/
def Hart.physLanes (h : Hart) : List (Nat × Nat) :=
  let held := (List.range 4).filter fun k => h.gmask.getLsbD k
  (List.range held.length).flatMap fun j => (List.range 8).map fun l => (8 * (held[j]?.getD 0) + l, 8 * j + l)

/-- The entries of an exchange FIFO, oldest first. -/
def State.fifo (s : State) (sender receiver lane : Nat) : List (BitVec 256) :=
  match s.fifos.find? fun f => f.1 == sender && f.2.1 == receiver && f.2.2.1 == lane with
  | some f => f.2.2.2
  | none => []

/-- The state with an exchange FIFO replaced; an empty one is not listed. -/
def State.setFifo (s : State) (sender receiver lane : Nat) (es : List (BitVec 256)) : State :=
  let rest := s.fifos.filter fun f => !(f.1 == sender && f.2.1 == receiver && f.2.2.1 == lane)
  { s with fifos := if es.isEmpty then rest else rest ++ [(sender, receiver, lane, es)] }

/-- The slice of a register in a hart lane. -/
def Hart.slice (h : Hart) (v lane : Nat) : BitVec 256 := (h.v[v]?.getD 0).extractLsb' (256 * lane) 256

/-- A lane exchange: the partner core of the cluster, which is not the hart's own (R310). -/
def State.exchange (s : State) (v a : BitVec 5) (f : State → Nat → Nat → Res) : Out :=
  s.word fun s => Res.committing (guard (s.groups [v]) (
    let c := (s.x a).toNat % 8
    if c = s.hart.core % 8 then .trap s.illegal
    else f s (s.hart.core / 8 * 8 + c) (lmulOf s.hart.vtype)))

/-- A vxsend moves each lane that can go (R310): the lanes left wait, and where some lanes went, the hart keeps what they moved. A
hart lane is named as an element is in what a wait leaves. -/
def State.moveLanes (s : State) (why : Why) (can : Nat → Bool) (move : State → Nat × Nat → State) : Res :=
  let due := s.hart.physLanes.filter fun p => s.allowed p.2
  let go := due.filter fun p => can p.1
  let left := due.filter fun p => !can p.1
  let t := go.foldl move s
  if left.isEmpty then .ok t
  else if go.isEmpty then .wait why
  else .pause t why (left.foldl (fun (m : Pred) p => m ||| (1#8192 <<< p.2)) 0)

/-- vxsend (R310). -/
def execVxsend (v a : BitVec 5) (s : State) : Out :=
  s.exchange v a fun s to_ m =>
    let me := s.hart.core
    s.moveLanes .push (fun lane => (s.fifo me to_ lane).length + m ≤ 4) fun t p =>
      t.setFifo me to_ p.1 (t.fifo me to_ p.1 ++ (List.range m).map fun k => s.hart.slice (v.toNat + k) p.2)

/-- The hart with the slice of a register in a hart lane replaced. -/
def Hart.setSlice (h : Hart) (v lane : Nat) (e : BitVec 256) : Hart :=
  { h with v := h.v.setIfInBounds v (putBits (h.v[v]?.getD 0) (256 * lane) 256 e.toNat) }

/-- vxrecv (R310). DESIGN CHOICE: it pops once every lane has its entries, so that one which a switch abandons has taken nothing and
executes from its start (R314, R335; log entry 87). -/
def execVxrecv (v a : BitVec 5) (s : State) : Out :=
  s.exchange v a fun s from_ m =>
    let me := s.hart.core
    if s.hart.physLanes.all fun p => m ≤ (s.fifo from_ me p.1).length then
      .ok (s.hart.physLanes.foldl (fun (t : State) p =>
        let es := t.fifo from_ me p.1
        let h := (List.range m).foldl (fun (h : Hart) k => h.setSlice (v.toNat + k) p.2 (es[k]?.getD 0)) t.hart
        { t with hart := h }.setFifo from_ me p.1 (es.drop m)) s)
    else .wait .pop

/-! ### exit -/

/-- exit (R307): the hart ends as its convoy retires, and waits for no write: those that are not performed go on after it (R323, R344). -/
def execExit (s : State) : Out := s.word fun s => Res.committing (.ok { s with conv := { s.conv with final := some .gone } })

end Sys2Proof.Machine
end

