-- ==== Sys2Proof/Machine/Rnu.lean ====
section
/-! DEFINITION. The renumbering unit: sketch updates, numbering, row moves and their commits (R257 to R268, R372 to R374), and
the walker pool's translations (R287, R291, R292). -/

namespace Sys2Proof.Machine

/-! ### Accesses of the renumbering unit -/

/-- The translation of a virtual address of a set's space for the RNU (R253, R260). It is no core and has no translation cache. -/
def State.rnuTrans (s : State) (k : PSet) (acc : Acc) (va : Word) : Trans := s.translate 384 k.space k.priv acc false va

/-- The physical address of a virtual address of a set's space, if the RNU may reach it so. -/
def State.rnuAddr (s : State) (k : PSet) (acc : Acc) (va : Word) : Option Nat :=
  match s.rnuTrans k acc va with
  | .pa a _ => some a
  | .cow _ _ | .fault _ _ | .poison _ | .blocked _ | .held => none

/-- A page that the RNU writes is its own: a copy-on-write leaf is resolved with the lists of its address space (R291). -/
def State.rnuOwn (s : State) (k : PSet) (va : Word) : State :=
  match s.rnuTrans k .write va with
  | .cow e at_ =>
    let a := s.spaceAt (k.space.extractLsb' 52 9)
    (s.resolveWith (a.fplist.extractLsb' 0 52).toNat (a.prtbase.extractLsb' 0 52).toNat e at_).getD s
  | .pa _ _ | .fault _ _ | .poison _ | .blocked _ | .held => s

/-- The address of a 4-byte entry of a table of a set. -/
def entryVa (table : Word) (i : Nat) : Word := table + BitVec.ofNat 64 (4 * i)

/-- A 4-byte entry of a table of a set. -/
def State.rnuEntry (s : State) (k : PSet) (table : Word) (i : Nat) : Nat :=
  match s.rnuAddr k .read (entryVa table i) with
  | some a => Memory.value s.mem a 4
  | none => 0

/-- The state with a table entry of a set written: none where it cannot be written now (R291, R295, R369). -/
def State.setEntry4 (s : State) (k : PSet) (table : Word) (i v : Nat) : Option State :=
  let t := s.rnuOwn k (entryVa table i)
  match t.rnuAddr k .write (entryVa table i) with
  | some a => if (t.downTrunk a).isSome then none else some (t.poke a (leBytes 4 v) 4)
  | none => none

/-- An entry that holds poison (R373). -/
def State.entryPoison (s : State) (k : PSet) (table : Word) (i : Nat) : Bool :=
  match s.rnuAddr k .read (entryVa table i) with
  | some a => (s.poisonAt a 4).isSome
  | none => false

/-! ### The sketch -/

/-- A sketch record (R258). -/
structure Rec where
  acc : Nat
  tgt : Nat
  ids : List Nat
  cnts : List Nat
  deriving DecidableEq, Repr

/-- A record from its 32 bytes. -/
def Rec.ofBytes (b : List Byte) : Rec :=
  let at_ := fun (o n : Nat) => leNat ((b.drop o).take n)
  ⟨at_ 0 4, at_ 4 4, (List.range 4).map fun j => at_ (8 + 4 * j) 4, (List.range 4).map fun j => at_ (24 + 2 * j) 2⟩

/-- The 32 bytes of a record. -/
def Rec.bytes (r : Rec) : List Byte :=
  leBytes 4 r.acc ++ leBytes 4 r.tgt ++ (r.ids.flatMap fun i => leBytes 4 i) ++ r.cnts.flatMap fun c => leBytes 2 c

/-- ACC counted (R259). -/
def Rec.count (r : Rec) : Rec := { r with acc := min (r.acc + 1) 0xFFFFFFFF }

/-- LINK(a, b) on the record of a (R259). -/
def Rec.link (r : Rec) (b : Nat) : Rec :=
  match (List.range 4).find? (fun j => 0 < r.cnts[j]?.getD 0 && r.ids[j]?.getD 0 == b) with
  | some j => { r with cnts := r.cnts.set j (min (r.cnts[j]?.getD 0 + 1) 0xFFFF) }
  | none =>
    match (List.range 4).find? (fun j => r.cnts[j]?.getD 0 == 0) with
    | some j => { r with ids := r.ids.set j b, cnts := r.cnts.set j 1 }
    | none =>
      let low := r.cnts.map fun n => n - 1
      match (List.range 4).find? (fun j => low[j]?.getD 0 == 0) with
      | some j => { r with ids := r.ids.set j b, cnts := low.set j 1 }
      | none => { r with cnts := low }

/-- The address of the record of a row (R258). -/
def PSet.recordVa (k : PSet) (l : Nat) : Word := k.sketch + BitVec.ofNat 64 (32 * l)

/-- The record of a row, where it can be reached so and holds no poison (R259). -/
def State.recordAt (s : State) (k : PSet) (acc : Acc) (l : Nat) : Option (Nat × Rec) :=
  match s.rnuAddr k acc (k.recordVa l) with
  | some a => if (s.poisonAt a 32).isSome then none else some (a, Rec.ofBytes (Memory.bytes s.mem a 32))
  | none => none

/-- One update of a record, dropped where the record cannot be reached (R259). -/
def State.updateRecord (s : State) (k : PSet) (l : Nat) (f : Rec → Rec) : State :=
  let t := s.rnuOwn k (k.recordVa l)
  match t.recordAt k .write l with
  | some (a, r) => t.poke a (f r).bytes 32
  | none => s

/-- The links of consecutive rows of a list (R259). -/
def State.linkAll (s : State) (k : PSet) : List Nat → State
  | a :: b :: r => ((s.updateRecord k a fun x => x.link b).updateRecord k b fun x => x.link a).linkAll k (b :: r)
  | [_] | [] => s

/-- The record of a row waits: its page moves, or a trunk that carries nothing stands before it or its walk (R287, R295, R369). -/
def State.recordWaits (s : State) (k : PSet) (l : Nat) : Bool :=
  match s.rnuTrans k .write (k.recordVa l) with
  | .pa a _ => (s.downTrunk a).isSome
  | .cow e _ => (s.downTrunk (ptePa e)).isSome
  | .blocked _ | .held => true
  | .fault _ _ | .poison _ => false

/-- SKETCH_UPDATE (R259): the RNU applies the recorded list at place i to the sketch of the set as it was recorded, once no record of it
waits. -/
def State.sketchUpdate (s : State) (i : Nat) : State :=
  match s.samples[i]? with
  | none => s
  | some x =>
    if x.rows.any fun l => s.recordWaits x.set l then s
    else
    let t := { s with samples := s.samples.eraseIdx i }
    (x.rows.foldl (fun (t : State) l => t.updateRecord x.set l Rec.count) t).linkAll x.set x.rows

/-! ### Numbering and the plan -/

/-- The unplaced neighbour of a row with the highest count, ties by lower id (R260). -/
def bestNeighbour (recs : List Rec) (placed : List Nat) (cur : Nat) : Option Nat :=
  let r := recs[cur]?.getD ⟨0, 0, [], []⟩
  ((r.ids.zip r.cnts).filter fun e => 0 < e.2 && e.1 < recs.length && !placed.contains e.1).foldl
    (fun (a : Option (Nat × Nat)) e =>
      match a with
      | none => some e
      | some b => if b.2 < e.2 ∨ (b.2 = e.2 ∧ e.1 < b.1) then some e else a) none |>.map fun e => e.1

/-- A chain of rows from one on (R260). -/
def chainFrom (recs : List Rec) : Nat → List Nat → Nat → List Nat
  | 0, placed, _ => placed
  | fuel + 1, placed, cur =>
    let placed := placed ++ [cur]
    match bestNeighbour recs placed cur with
    | none => placed
    | some nb => chainFrom recs fuel placed nb

/-- A row put into an order by descending ACC, ties by lower id. -/
def insertByAcc (recs : List Rec) (l : Nat) : List Nat → List Nat
  | [] => [l]
  | q :: r =>
    let acc := fun i => (recs[i]?.map fun x => x.acc).getD 0
    if acc q < acc l then l :: q :: r else q :: insertByAcc recs l r

/-- The rows in their new order: position p of the list is the row placed at p (R260). -/
def numberRows (recs : List Rec) : List Nat :=
  let order := (List.range recs.length).foldl (fun a l => insertByAcc recs l a) []
  order.foldl (fun placed h => if placed.contains h then placed else chainFrom recs recs.length placed h) []

/-- A path that ends at an empty row (R373): the row whose target is the empty position moves first, and so on. -/
def pathFrom (n : Nat) (fwd target : List Nat) : Nat → Nat → List (Nat × Nat × Nat)
  | 0, _ => []
  | fuel + 1, cur =>
    match (List.range n).find? fun l => target[l]?.getD 0 == cur with
    | none => []
    | some l =>
      let q := fwd[l]?.getD 0
      if q = cur then [] else (l, q, cur) :: pathFrom n fwd target fuel q

/-- The rest of a cycle after its first row has gone to the staging row: moves into the vacated position until it is the first
row's target (R262). -/
def cycleFrom (n : Nat) (fwd target : List Nat) (first staging : Nat) : Nat → Nat → List (Nat × Nat × Nat)
  | 0, _ => []
  | fuel + 1, vacated =>
    if target[first]?.getD 0 = vacated then [(first, staging, vacated)]
    else
      match (List.range n).find? fun l => target[l]?.getD 0 == vacated with
      | none => []
      | some l =>
        let q := fwd[l]?.getD 0
        (l, q, vacated) :: cycleFrom n fwd target first staging fuel q

/-- The cycle whose lowest position is q (R262). -/
def cycleOf (n : Nat) (fwd target : List Nat) (staging q : Nat) : List (Nat × Nat × Nat) :=
  match (List.range n).find? fun l => fwd[l]?.getD 0 == q with
  | none => []
  | some l => (l, q, staging) :: cycleFrom n fwd target l staging (n + 1) q

/-- The plan of a reorder: the paths in ascending order of the empty row at which each ends, then the cycles in ascending order of
their lowest position. The row after the last one stands for the staging row that a cycle takes as it starts (R262, R373). -/
def planOf (n staging : Nat) (fwd target : List Nat) : Nat × List (List (Nat × Nat × Nat)) :=
  let empty := (List.range n).filter fun q => !(fwd.take n).contains q
  let paths := (empty.map fun q => pathFrom n fwd target (n + 1) q).filter fun p => !p.isEmpty
  let used := paths.flatMap fun p => p.map fun m => m.1
  let cycles := (List.range n).foldl (fun (a : List Nat × List (List (Nat × Nat × Nat))) q =>
    match (List.range n).find? fun l => fwd[l]?.getD 0 == q with
    | none => a
    | some l =>
      if a.1.contains l || target[l]?.getD 0 == q then a
      else
        let c := cycleOf n fwd target (n + staging) q
        (a.1 ++ c.map fun m => m.1, a.2 ++ [c])) (used, [])
  (paths.length, paths ++ cycles.2)

/-- REMAIN: the commits still to come (R274). -/
def Reorder.remain : Reorder → Nat
  | .none | .numbering | .importing _ _ => 0
  | .moving _ plan => (plan.map fun c => c.length).sum

/-- A reorder of the set runs, and its numbering or validation is in progress (R274). -/
def Reorder.busy : Reorder → Bool
  | .none => false
  | .numbering | .importing _ _ | .moving _ _ => true

def Reorder.numb : Reorder → Bool
  | .numbering | .importing _ _ => true
  | .none | .moving _ _ => false

/-- A rejected reorder: REJ is set and a record of kind 0x0A names the reason (R276, R374). -/
def State.rejectReorder (s : State) (psd reason : Nat) (index : BitVec 32) (extra : Word) (drop : Bool) : State :=
  ((s.onSet psd fun k => { k with rej := true, reorder := if drop then .none else k.reorder }).log 0x0A 6
    (BitVec.ofNat 16 reason) index (BitVec.ofNat 64 psd) extra).pruneSets

/-- The pages of n bytes from an address on. -/
def rangePages (va : Word) (n : Nat) : List Word :=
  if n = 0 then [] else (List.range ((va.toNat % 65536 + n - 1) / 65536 + 1)).map fun k => pageOf va + BitVec.ofNat 64 (65536 * k)

/-- A row of a set lies in a region that R252 does not allow; a page that does not translate yet is judged before any row moves (R260). -/
def State.rowsMisplaced (s : State) (k : PSet) : Bool :=
  (rangePages k.base ((k.n + k.staging) * k.pitch)).any fun p =>
    match s.spacePa k.space p with
    | some a => !s.privatePage a
    | none => false

/-- The answers of the pages of some ranges, each with the accesses that the RNU makes (R260, R261). -/
def State.rangeTrans (s : State) (k : PSet) (ranges : List (Acc × Word × Nat)) : List (Word × Trans) :=
  ranges.flatMap fun r => (rangePages r.2.1 r.2.2).map fun p => (p, s.rnuTrans k r.1 p)

/-- The lowest page of some answers that does not translate or forbids the access (R260, R261, R374). DESIGN CHOICE: a page whose walk
meets poison counts as one that does not translate; Table 7 names no reason for it (log entry 91). -/
def lowestFault (rs : List (Word × Trans)) : Option Word :=
  rs.foldl (fun (a : Option Word) r =>
    match r.2 with
    | .fault _ _ | .poison _ => (match a with | none => some r.1 | some b => if r.1.toNat < b.toNat then some r.1 else a)
    | .pa _ _ | .cow _ _ | .blocked _ | .held => a) none

/-- A page of some answers that the RNU waits for: one that moves, or one whose walk waits for a trunk (R287, R295). -/
def awaitsPage (rs : List (Word × Trans)) : Bool :=
  rs.any fun r =>
    match r.2 with
    | .blocked _ | .held => true
    | .pa _ _ | .cow _ _ | .fault _ _ | .poison _ => false

/-- A range holds poison (R260). -/
def State.rangePoison (s : State) (k : PSet) (va : Word) (n : Nat) : Bool :=
  !s.poison.isEmpty && (rangePages va n).any fun p =>
    match s.rnuAddr k .read p with
    | some a =>
      let lo := if p.toNat < va.toNat then va.toNat - p.toNat else 0
      let hi := min 65536 (va.toNat + n - p.toNat)
      (s.poisonAt (a + lo) (hi - lo)).isSome
    | none => false

/-- The ranges that a reorder reads and writes, which it checks before any row moves (R260, R261). -/
def PSet.ranges (k : PSet) (sketch : Bool) : List (Acc × Word × Nat) :=
  ([(k.base, (k.n + k.staging) * k.pitch), (k.fwd, 4 * k.n), (k.inv, 4 * (k.n + k.staging))] ++
    if sketch then [(k.sketch, 32 * k.n)] else []).flatMap fun r => [(.read, r), (.write, r)]

/-- A reorder begins to move rows, or ends at once where none has to (R262). -/
def State.startPlan (s : State) (k : PSet) (target : List Nat) : State :=
  let fwd := (List.range k.n).map fun l => s.rnuEntry k k.fwd l
  let p := planOf k.n k.staging fwd target
  (s.onSet k.psd fun k => { k with reorder := if p.2.isEmpty then .none else .moving p.1 p.2 }).pruneSets

/-- NUMBERING (R260): the RNU translates and reads the tables and the sketch, writes each TGT and forms the plan. -/
def State.numbering (s : State) (psd : Nat) : State :=
  match s.setOf psd with
  | none => s
  | some k =>
    if k.reorder ≠ .numbering then s
    else
      let pages := s.rangeTrans k (k.ranges true)
      if s.rowsMisplaced k then s.rejectReorder psd 4 (BitVec.allOnes 32) 0 true
      else if awaitsPage pages then s
      else
        match lowestFault pages with
        | some p => s.rejectReorder psd 7 (BitVec.allOnes 32) p true
        | none =>
        if s.rangePoison k k.fwd (4 * k.n) || s.rangePoison k k.inv (4 * (k.n + k.staging)) ||
            s.rangePoison k k.sketch (32 * k.n) then s.rejectReorder psd 8 (BitVec.allOnes 32) 0 true
        else
          let recs := (List.range k.n).map fun l => ((s.recordAt k .read l).map fun r => r.2).getD ⟨0, 0, [], []⟩
          let order := numberRows recs
          let target := (List.range k.n).map fun l => order.findIdx fun x => x == l
          let t := (List.range k.n).foldl (fun (t : State) l =>
            t.updateRecord k l fun r => { r with tgt := target[l]?.getD 0 }) s
          t.startPlan k target

/-- IMPORT_VALIDATION (R261): the RNU checks the pages, the poison and the entries of an imported table. The table is named in
the set's address space (R374). -/
def State.importValidation (s : State) (psd : Nat) : State :=
  match s.setOf psd with
  | none => s
  | some k =>
    match k.reorder with
    | .importing table root =>
      let own := { k with space := root }
      let pages := s.rangeTrans k (k.ranges false) ++ s.rangeTrans own [(.read, table, 4 * k.n)]
      if s.rowsMisplaced k then s.rejectReorder psd 4 (BitVec.allOnes 32) 0 true
      else if awaitsPage pages then s
      else
        match lowestFault pages with
        | some p => s.rejectReorder psd 7 (BitVec.allOnes 32) p true
        | none =>
        if s.rangePoison k k.fwd (4 * k.n) || s.rangePoison k k.inv (4 * (k.n + k.staging)) ||
            s.rangePoison own table (4 * k.n) then s.rejectReorder psd 8 (BitVec.allOnes 32) 0 true
        else
          let target := (List.range k.n).map fun l => s.rnuEntry own table l
          match (List.range k.n).find? fun l => k.n ≤ target[l]?.getD 0 with
          | some l => s.rejectReorder psd 5 (BitVec.ofNat 32 l) 0 true
          | none =>
            match (List.range k.n).find? fun l => 1 < target.count (target[l]?.getD 0) with
            | some l => s.rejectReorder psd 6 (BitVec.ofNat 32 l) 0 true
            | none => s.startPlan k target
    | .none | .numbering | .moving _ _ => s

/-! ### Moving a row -/

/-- The move of a cycle that has not reached its commit. -/
def PSet.activeMove (k : PSet) (cyc : Nat) : Option Move := k.moves.find? fun m => m.cyc == cyc && m.st != .forwarding

/-- A cycle of the plan has begun: it has taken a staging row in place of the row after the last (R262). -/
def PSet.begun (k : PSet) (plan : List (List (Nat × Nat × Nat))) (c : Nat) : Bool :=
  (plan[c]?.getD []).all fun m => m.2.1 != k.n + k.staging && m.2.2 != k.n + k.staging

/-- The staging row that a cycle takes as it starts: the lowest that no cycle uses and no move leaves or reaches (R262, R264; log
entry 33). -/
def PSet.freeStaging (k : PSet) (plan : List (List (Nat × Nat × Nat))) : Option Nat :=
  ((List.range k.staging).map fun j => k.n + j).find? fun q =>
    !(k.moves.any fun m => m.src == q || m.dst == q && m.st != .forwarding) &&
      !(plan.any fun c => c.any fun m => m.2.1 == q || m.2.2 == q)

/-- The moves of a cycle with its staging row named. -/
def stageIn (sentinel q : Nat) (c : List (Nat × Nat × Nat)) : List (Nat × Nat × Nat) :=
  c.map fun m => (m.1, if m.2.1 = sentinel then q else m.2.1, if m.2.2 = sentinel then q else m.2.2)

/-- The next move of cycle c may start (R262, R263, R264, R373): no earlier move of it is uncommitted, forwarding out of its
destination has ended, paths run one after another before any cycle, cycles begin in order, and at most S run at once. -/
def PSet.mayStart (k : PSet) (paths : Nat) (plan : List (List (Nat × Nat × Nat))) (c dst : Nat) : Bool :=
  (k.activeMove c).isNone && !(k.moves.any fun m => m.src == dst) &&
    (if c < paths then (plan.take c).all fun p => p.isEmpty
    else
      (plan.take paths).all (fun p => p.isEmpty) &&
        ((List.range c).all fun j => j < paths || k.begun plan j) &&
        (k.begun plan c ||
          ((List.range plan.length).countP fun j =>
            paths ≤ j && j != c && k.begun plan j && (plan[j]?.any fun p => !p.isEmpty)) < k.staging))

/-- ROW_MOVE_START (R263): the row is marked and copying starts. -/
def State.rowMoveStart (s : State) (psd c : Nat) : State :=
  match s.setOf psd with
  | none => s
  | some k =>
    match k.reorder with
    | .moving paths plan =>
      match plan[c]? with
      | some (m :: _) =>
        let end_ := k.n + k.staging
        match if m.2.2 = end_ then k.freeStaging plan else some m.2.2 with
        | none => s
        | some d =>
          if k.mayStart paths plan c d then
            s.onSet psd fun k => { k with
              reorder := .moving paths (if m.2.2 = end_ then plan.modify c (stageIn end_ d) else plan)
              moves := k.moves ++ [⟨c, m.1, m.2.1, d, .copying, [], 0, [], none⟩] }
          else s
      | some [] | none => s
    | .none | .numbering | .importing _ _ => s

/-- The segments of 64 bytes of a row. -/
def PSet.segments (k : PSet) : List Nat := List.range (k.pitch / 64)

/-- The pages of a row, each with its physical address, as the RNU writes them. -/
def State.rowPages (s : State) (k : PSet) (q : Nat) : List (Word × Nat) :=
  (rangePages (k.rowVa q 0) k.pitch).filterMap fun p => (s.rnuAddr k .write p).map fun a => (p, a)

/-- The pages of a row are its space's own, as far as they can be resolved (R291). -/
def State.ownRow (s : State) (k : PSet) (q : Nat) : State := (rangePages (k.rowVa q 0) k.pitch).foldl (fun (t : State) p => t.rnuOwn k p) s

/-- A segment copied with its poison (R263, R357, R372). -/
def State.copySegment (s : State) (k : PSet) (m : Move) (seg : Nat) : State :=
  match s.rnuAddr k .read (k.rowVa m.src (64 * seg)), s.rnuAddr k .write (k.rowVa m.dst (64 * seg)) with
  | some a, some b =>
    let t := s.poke b (Memory.bytes s.mem a 64) 8
    { t with poison := movePoison t.poison a b 64 }
  | _, _ => s

/-- Some segments copied. -/
def State.copySegments (s : State) (k : PSet) (m : Move) (segs : List Nat) : State :=
  segs.foldl (fun (t : State) g => t.copySegment k m g) s

/-- What the copy of a row meets at its segments: it reads the source and writes the destination. -/
def State.rowTrans (s : State) (k : PSet) (m : Move) : List Trans :=
  let t := s.ownRow k m.dst
  k.segments.flatMap fun g => [t.rnuTrans k .read (k.rowVa m.src (64 * g)), t.rnuTrans k .write (k.rowVa m.dst (64 * g))]

/-- The copy of a row waits on a trunk that carries nothing (R371, R373). -/
def State.rowBlocked (s : State) (k : PSet) (m : Move) : Bool :=
  (s.rowTrans k m).any fun r =>
    match r with
    | .pa a _ => (s.downTrunk a).isSome
    | .blocked _ => true
    | .cow _ _ | .fault _ _ | .poison _ | .held => false

/-- The copy of a row cannot be made now: a trunk carries nothing, a page of the row moves or does not translate, or no page of the free
list is left for a copy-on-write leaf of the destination (R291, R295). -/
def State.rowWaits (s : State) (k : PSet) (m : Move) : Bool :=
  (s.rowTrans k m).any fun r =>
    match r with
    | .pa a _ => (s.downTrunk a).isSome
    | .cow _ _ | .fault _ _ | .poison _ | .blocked _ | .held => true

/-- The state with the uncommitted move of a cycle changed. -/
def State.onMove (s : State) (psd c : Nat) (f : Move → Move) : State :=
  s.onSet psd fun k => { k with moves := k.moves.map fun m => if m.cyc = c ∧ m.st ≠ .forwarding then f m else m }

/-- The copy of a row goes on waiting: the move keeps the cycle since which it waits on a trunk (R373). -/
def State.moveWaits (s : State) (k : PSet) (c : Nat) (m : Move) : State :=
  s.onMove k.psd c fun n => { n with since := if s.rowBlocked k m then some (n.since.getD s.cycle) else none }

/-- COPY_ROUND_COMPLETE (R263): the first round ends with the dirty marks kept; then dirty segments are copied again, up to 8
rounds in all, or the lines are taken. -/
def State.copyRound (s : State) (psd c : Nat) : State :=
  match s.setOf psd with
  | none => s
  | some k =>
    match k.activeMove c with
    | none => s
    | some m =>
      if s.rowWaits k m then s.moveWaits k c m
      else
        let t := s.ownRow k m.dst
        match m.st with
        | .copying => (t.copySegments k m k.segments).onMove psd c fun m => { m with st := .recopy 1, since := none }
        | .recopy r =>
          if 4 < m.dirty.eraseDups.length ∧ r < 8 then
            (t.copySegments k m m.dirty.eraseDups).onMove psd c fun m => { m with st := .recopy (r + 1), dirty := [], since := none }
          else s.onMove psd c fun m => { m with st := .locked, since := none }
        | .locked | .forwarding => s

/-- The plan after the head of cycle c is committed; a plan without moves left ends the reorder. -/
def Reorder.commit (r : Reorder) (c : Nat) : Reorder :=
  match r with
  | .moving paths plan =>
    let plan := plan.modify c fun p => p.drop 1
    if plan.all fun p => p.isEmpty then .none else .moving paths plan
  | .none | .numbering | .importing _ _ => r

/-- The writes on their way to a row that forwards go on to the copy that is current now (R263, R266, R280). -/
def State.forwardWrites (s : State) (psd : Nat) : State :=
  let f := fun (w : Write) => if w.perm.any fun p => p.1 == psd then (s.redirect w).1 else w
  let g := fun (h : Hart) => { h with held := h.held.map f }
  { s with wq := s.wq.map f, hart := g s.hart, others := s.others.map g, ended := s.ended.map g }

/-- The tables of a commit written, in memory and in the set's state: FWD and both entries of INV, and then VER (R267); none where one of
them cannot be written now. -/
def State.commitTables (s : State) (k : PSet) (m : Move) : Option State :=
  if (s.downTrunk (k.psd + 0x28)).isSome then none
  else
    (s.setEntry4 k k.fwd m.row m.dst).bind fun t =>
      (t.setEntry4 k k.inv m.dst m.row).bind fun t =>
        (t.setEntry4 k k.inv m.src 0xFFFFFFFF).map fun t => t.poke (k.psd + 0x28) (leBytes 8 (k.ver + 1).toNat) 8

/-- ROW_COMMIT (R263, R266, R267): the segments left are copied, FWD, INV and VER written, and the old row forwards. -/
def State.rowCommit (s : State) (psd c : Nat) : State :=
  match s.setOf psd with
  | none => s
  | some k =>
    match k.activeMove c with
    | none => s
    | some m =>
      if m.st ≠ .locked then s
      else if s.rowWaits k m then s.moveWaits k c m
      else if s.entryPoison k k.fwd m.row ∨ s.entryPoison k k.inv m.dst ∨ s.entryPoison k k.inv m.src then s
      else
        match ((s.ownRow k m.dst).copySegments k m m.dirty.eraseDups).commitTables k m with
        | none => s
        | some t =>
          let pages := t.rowPages k m.dst
          let t := t.onMove psd c fun m => { m with st := .forwarding, dirty := [], ver := k.ver + 1, pages := pages, since := none }
          (t.onSet psd fun k => { k with ver := k.ver + 1, reorder := k.reorder.commit c }).forwardWrites psd

/-- A write of an element that was translated to the old row of a committed move is on its way (R255). -/
def State.oldWrites (s : State) (psd row : Nat) : Bool :=
  let old := fun (w : Write) => w.perm.any fun p => p.1 == psd && p.2.1 == row && (s.moveAt psd row p.2.2.1).isSome
  s.wq.any old || (s.hart :: s.others ++ s.ended).any fun h => h.held.any old

/-- PTC_ACK (R255, R263): every translation cache has dropped the old entry, and no access translated with it is on its way:
forwarding at the old row ends. -/
def State.ptcAck (s : State) (psd row : Nat) : State :=
  if s.oldWrites psd row then s
  else
    let ends := (s.setOf psd).any fun k => k.moves.any fun m => m.row == row && m.st == .forwarding
    let t := s.onSet psd fun k => { k with moves := k.moves.filter fun m => !(m.row == row && m.st == MoveState.forwarding) }
    ({ t with ptc := s.ptc.filter fun e => !(e.psd == psd && e.row == row && ends) } : State).pruneSets

/-- The bytes of a row undefined, and so without poison: reading them traps nothing (R8, R373). -/
def State.loseRow (s : State) (k : PSet) (q : Nat) : State :=
  k.segments.foldl (fun (t : State) g =>
    match t.spacePa k.space (k.rowVa q (64 * g)) with
    | some a => { t with
        mem := Memory.scramble t.mem a t.fresh 64
        fresh := t.fresh + 64
        poison := t.poison.filter fun u => !overlaps u.1 u.2.1 a 64 }
    | none => t) s

/-- REORDER_STOP (R373): the move of a cycle is abandoned before its commit, on a stall (9) or on poison in FWD or INV (10), and
the reorder stops. -/
def State.reorderStop (s : State) (psd c : Nat) (reason : BitVec 8) : State :=
  match s.setOf psd with
  | none => s
  | some k =>
    match k.activeMove c with
    | none => s
    | some m =>
      let stalled := s.rowBlocked k m && m.since.any fun c => c + s.stallthr.toNat < s.cycle
      let bad := s.entryPoison k k.fwd m.row || s.entryPoison k k.inv m.src || s.entryPoison k k.inv m.dst
      if !((reason == 9 && stalled) || (reason == 10 && bad)) then s
      else
        let lost := k.moves.filter fun m => m.st != .forwarding
        let t := lost.foldl (fun (t : State) m => t.loseRow k m.dst) s
        let t := t.onSet psd fun k => { k with
          reorder := .none, rej := true, moves := k.moves.filter fun m => m.st == .forwarding }
        (t.log 0x0B 6 (BitVec.zeroExtend 16 reason) (BitVec.ofNat 32 m.row) (BitVec.ofNat 64 psd) k.ver).pruneSets

/-- A core's translation cache fills the entry of a row from FWD (R255). -/
def State.fillPtc (s : State) (core psd row : Nat) : State :=
  match s.setOf psd with
  | none => s
  | some k =>
    if k.n ≤ row || s.entryPoison k k.fwd row || (s.rnuAddr k .read (entryVa k.fwd row)).isNone then s
    else { s with ptc := (s.ptc.filter fun e => !(e.core == core && e.psd == psd && e.row == row)) ++
        [⟨core, psd, row, s.rnuEntry k k.fwd row⟩] }

/-! ### The walker pool -/

/-- PAGE_WALK (R287): a translation for a hart is filled into its core's cache, as is the finding that a page has none (R288, R354). A leaf
that is being moved, a walk that is denied or meets poison, and an absent drawer page fill nothing (R295, R296). -/
def State.pageWalk (s : State) (id : Nat) (va : Word) : State :=
  match s.hartAt id with
  | none => s
  | some h =>
    if !canonical va then s
    else
      match s.walk h.ptbase va with
      | .leaf e lg at_ =>
        let pa := ptePa e + va.toNat % 2 ^ lg
        if pteM e || s.absentPages.contains (pa / 65536 * 65536) then s
        else
          let asid := h.ptbase.extractLsb' 52 9
          let old := s.tlb.filter fun t => !(t.core == h.core && t.asid == asid && t.maps va)
          { s with tlb := old ++ [⟨h.core, asid, BitVec.ofNat 64 (va.toNat / 2 ^ lg * 2 ^ lg), lg, e, at_, false⟩] }
      | .bad =>
        let asid := h.ptbase.extractLsb' 52 9
        let old := s.tlb.filter fun t => !(t.core == h.core && t.asid == asid && t.maps va)
        { s with tlb := old ++ [⟨h.core, asid, pageOf va, 16, 0, 0, true⟩] }
      | .poisoned _ | .denied | .blocked _ => s

/-- COW_RESOLUTION (R291): the walker pool resolves the copy-on-write leaf of a page for a hart's write. -/
def State.cowResolve (s : State) (id : Nat) (va : Word) : State :=
  match s.hartAt id with
  | none => s
  | some h =>
    match s.walk h.ptbase va with
    | .leaf e _ at_ =>
      if pteM e || !pteCow e || !(h.priv == .s || pteU e) || !canonical va then s
      else (s.resolveWith h.fplist.toNat h.prtbase.toNat e at_).getD s
    | .bad | .poisoned _ | .denied | .blocked _ => s

/-- HOTNESS_ADDITION (R292): the addition at place k is made, saturating. -/
def State.hotnessAddition (s : State) (k : Nat) : State :=
  match s.hotPend[k]? with
  | none => s
  | some h =>
    let at_ := h.pa + 4 * h.counter
    { s.poke at_ (leBytes 4 (min 0xFFFFFFFF (Memory.value s.mem at_ 4 + h.amount))) 4 with hotPend := s.hotPend.eraseIdx k }

/-- TIER of a page (R284). -/
def tierOf (pa : Nat) : Word :=
  match regionOf pa with
  | .drawer => 1
  | .cxl => 2
  | .hbm | .tcm _ | .csp _ | .serai _ | .regs | .reserved => 0

end Sys2Proof.Machine
end

