-- ==== Sys2Proof/Machine/PermSet.lean ====
section
/-! DEFINITION. The permuted-set forms: MAJ 28 (R250 to R254, R257, R272 to R278). -/

namespace Sys2Proof.Machine

/-- R251: a descriptor in its 64 bytes keeps the limits of Table 1. -/
def psdOk (bs : List Byte) : Bool :=
  let at_ := fun (o n : Nat) => leNat ((bs.drop o).take n)
  let addr := fun (o align : Nat) => at_ o 8 % align == 0 && canonical (BitVec.ofNat 64 (at_ o 8))
  let pitch := at_ 8 4
  let st := at_ 0x0C 4
  let n := at_ 0x10 8
  addr 0 64 && pitch % 64 == 0 && 64 ≤ pitch && pitch ≤ 2 ^ 24 && st ≤ 64 && 1 ≤ n && n ≤ 2 ^ 32 - st &&
    addr 0x18 64 && addr 0x20 64 && addr 0x30 32 && at_ 0x38 8 ≤ 1

/-- The set that a descriptor describes, made active by a hart (R250, R253). -/
def PSet.ofBytes (psd : Nat) (bs : List Byte) (space : BitVec 61) (priv : Priv) : PSet :=
  let at_ := fun (o n : Nat) => leNat ((bs.drop o).take n)
  let w := fun (o : Nat) => BitVec.ofNat 64 (at_ o 8)
  ⟨psd, w 0, at_ 8 4, at_ 0x0C 4, at_ 0x10 8, w 0x18, w 0x20, w 0x28, w 0x30, at_ 0x38 8 % 2 == 1, space, priv, .none, [], false⟩

/-- A slot of the current hart replaced. -/
def State.setSlot (s : State) (slot : BitVec 2) (p : PSlot) : State :=
  { s with hart := { s.hart with slots := s.hart.slots.set slot.toNat p (by have := slot.isLt; omega) } }

/-- A slot of the current hart. -/
def State.slotAt (s : State) (slot : BitVec 2) : PSlot := s.hart.slots[slot.toNat]'(by have := slot.isLt; omega)

/-- The recorded lists of a slot that the RNU has not applied yet (R259). -/
def State.pendingSamples (s : State) (slot : BitVec 2) : Bool :=
  s.samples.any fun x => x.gang == s.hart.gangid && x.hartix == s.hart.hartix && x.slot == slot.toNat

/-- A slot released (R273): it waits for its pending sketch updates. -/
def State.release1 (s : State) (slot : BitVec 2) (k : State → Res) : Res :=
  if (s.slotAt slot).psd.isNone then k s
  else if s.pendingSamples slot then .wait .sketch
  else k (s.setSlot slot PSlot.unbound).pruneSets

/-- psbind (R251, R253, R273): the set is identified by the physical address of its descriptor. -/
def execPsbind (a : BitVec 5) (slot : BitVec 2) (s : State) : Out :=
  s.word fun s => Res.committing (
    let va := s.x a
    if va.toNat % 64 ≠ 0 then .trap (Trap.plain 0x03 va)
    else
      let ts : List Touch := [⟨8192, va, 64⟩]
      s.prepare (s.vecMode .read) ts fun s map =>
        let psd := physOf map va
        let free := (s.setSlot slot PSlot.unbound).pruneSets
        let bind := fun (s : State) => s.setSlot slot ⟨some psd, va, none, 0⟩
        if (free.setOf psd).isSome then s.release1 slot fun s => .ok (bind s)
        else
          s.whenRead .vector false map ts fun s =>
            let bs := s.loadBytes .vector map va 64
            if !psdOk bs || 256 ≤ free.sets.length then .trap (Trap.plain 0x0F va)
            else s.release1 slot fun s =>
              .ok (bind { s with sets := s.sets ++ [PSet.ofBytes psd bs s.hart.ptbase s.hart.priv] }))

/-- psfree (R273). -/
def execPsfree (slot : BitVec 2) (s : State) : Out :=
  s.word fun s => Res.committing (s.release1 slot fun s => .ok s)

/-- A form that needs a bound slot (R272). -/
def State.onBound (s : State) (slot : BitVec 2) (f : State → PSet → Res) : Out :=
  s.word fun s => Res.committing (
    match s.boundSet slot with
    | none => .trap (unboundSet slot)
    | some k => f s k)

/-- psver (R274). -/
def execPsver (d : BitVec 5) (slot : BitVec 2) (s : State) : Out :=
  s.onBound slot fun s k => .ok (s.setX d k.ver)

/-- psstat (R274). -/
def execPsstat (d : BitVec 5) (slot : BitVec 2) (s : State) : Out :=
  s.onBound slot fun s k =>
    .ok (s.setX d (BitVec.ofNat 64 (k.reorder.remain % 2 ^ 32 + (if k.reorder.busy then 2 ^ 32 else 0) +
      (if k.rej then 2 ^ 33 else 0) + (if k.reorder.numb then 2 ^ 34 else 0))))

/-- psexp (R275): entry by entry; the version of an entry is VER as it reads FWD, and it waits in its write phase with the entries it
has read (R268). -/
def execPsexp (a b : BitVec 5) (slot : BitVec 2) (s : State) : Out :=
  s.onBound slot fun s k =>
    let va := s.x a
    let from_ := (s.x b).toNat
    let vl := s.hart.vln
    if va.toNat % 4 ≠ 0 then .trap (Trap.plain 0x03 va)
    else if vl = 0 then .ok s
    else if k.n < from_ + vl then .trap (rowRange (max from_ k.n))
    else
      let els := (List.range vl).filter s.reached
      let at_ := fun (i : Nat) => va + BitVec.ofNat 64 (4 * i)
      let src := fun (i : Nat) => k.fwd + BitVec.ofNat 64 (4 * (from_ + i))
      let ws := els.map fun i => (⟨i, at_ i, 4⟩ : Touch)
      let rs := els.map fun i => (⟨i, src i, 4⟩ : Touch)
      s.prepareBoth (s.vecMode .write) ws ⟨k.space, .read, false, false⟩ rs fun s wmap rmap =>
        let todo := rs.filter fun t => (s.gatheredAt t.el).isNone
        s.whenRead .vector false rmap todo fun s =>
          let t := s.keepRead (todo.map fun x => (x.el, s.loadNat .vector rmap x.va 4, k.ver))
          let got := fun (i : Nat) => (t.gatheredAt i).getD (0, k.ver)
          let mk := fun (want : Nat → Bool) =>
            ((els.filter want).flatMap fun i => t.runWrites .vector wmap 4 (at_ i) (wholeBytes (leBytes 4 (got i).1)), (0 : BitVec 7))
          let join := fun (s : State) (done : List Nat) => { s with conv := { s.conv with vers := s.conv.vers ++ done.map fun i => (got i).2 } }
          match t.writeElems els (unitAt false 0) mk (fun _ => none) fun s => .ok (join s els) with
          | .susp s c rest => .susp (join s (els.filter fun i => !rest.getLsbD i)) c rest
          | .pause s w rest => .pause (join s (els.filter fun i => !rest.getLsbD i)) w rest
          | r => r

/-- The reason that rejects a reorder at once (R260, R261, R374). -/
def State.orderReason (s : State) (k : PSet) (sketch : Bool) : Option Nat :=
  if k.reorder.busy then some 1
  else if k.staging = 0 || k.nomove then some 2
  else if sketch && k.sketch == 0 then some 3
  else if s.rowsMisplaced k then some 4
  else none

/-- A reorder asked for: accepted, or rejected with its reason (R274, R276). -/
def State.askReorder (s : State) (k : PSet) (sketch : Bool) (r : Reorder) : State :=
  match s.orderReason k sketch with
  | some n => s.rejectReorder k.psd n (BitVec.allOnes 32) 0 false
  | none => s.onSet k.psd fun k => { k with reorder := r, rej := false }

/-- psimp (R261, R276). -/
def execPsimp (a : BitVec 5) (slot : BitVec 2) (s : State) : Out :=
  s.onBound slot fun s k =>
    let va := s.x a
    if va.toNat % 4 ≠ 0 then .trap (Trap.plain 0x03 va)
    else .ok (s.askReorder k false (.importing va k.space))

/-- psord (R259, R260, R276): the updates of the slot's earlier gathers are applied before its sketch is read. -/
def execPsord (slot : BitVec 2) (s : State) : Out :=
  s.onBound slot fun s k =>
    if s.pendingSamples slot then .wait .sketch else .ok (s.askReorder k true .numbering)

/-- pswait (R277). -/
def execPswait (a : BitVec 5) (slot : BitVec 2) (s : State) : Out :=
  s.onBound slot fun s k => if (s.x a).toNat ≤ k.ver.toNat then .ok s else .wait .version

/-- psrec (R257, R278). -/
def execPsrec (a : BitVec 5) (slot : BitVec 2) (s : State) : Out :=
  s.word fun s => Res.committing (
    let e := (s.x a).toNat
    .ok (s.setSlot slot { s.slotAt slot with exp := if e < 32 then some (BitVec.ofNat 5 e) else none, count := 0 }))

end Sys2Proof.Machine
end

