-- ==== Sys2Proof/Machine/Links.lean ====
section
/-! DEFINITION. The LLC slices and their maps, the Spaup trunks and their slot tables, and soft errors (R213 to R230, R356 to R370). -/

namespace Sys2Proof.Machine

/-! ### Writes of the cores -/

/-- Splits a write after its first units (R123, R168). The rest is the next write of its line (R248). -/
def Write.split (w : Write) (units : Nat) : Write × Option Write :=
  let sizes := unitSizes w.unit w.bytes.length w.pa w.bytes.length
  let n := (sizes.take units).sum
  if units = 0 ∨ sizes.length ≤ units ∨ w.now ∨ w.perm.isSome then (w, none)
  else ({ w with bytes := w.bytes.take n }, some { w with pa := w.pa + n, bytes := w.bytes.drop n, part := true })

/-- The entries of a table that memory lists. -/
def State.tableEntries (s : State) (table : Nat) : List Word :=
  (((s.mem.filter fun c => table ≤ c.1 && c.1 < table + 65536).map fun c => c.1 / 8 * 8).eraseDups).map fun a =>
    BitVec.ofNat 64 (Memory.value s.mem a 8)

/-- The leaf of a table that maps a physical address, with a number of levels below the table (R283, R284). -/
def State.leafIn (s : State) (pa : Nat) (table : Nat) : Nat → Option Word
  | 0 => (s.tableEntries table).find? fun e => !s.badEntry 0 e && ptePa e ≤ pa && pa < ptePa e + 65536
  | left + 1 => (s.tableEntries table).findSome? fun e =>
      if s.badEntry (left + 1) e then none
      else if pteLeaf e then (if ptePa e ≤ pa && pa < ptePa e + 2 ^ (16 + 13 * (left + 1)) then some e else none)
      else s.leafIn pa (ptePa e) left

/-- The root tables of the address spaces in use: those of the harts, of the sets, and of the valid entries (R253, R286, R299). -/
def State.roots (s : State) : List Nat :=
  (((s.harts ++ s.swapped.map fun k => k.keep).map fun h => h.ptbase) ++ s.sets.map fun k => k.space).map
      (fun r => (r.extractLsb' 16 36).toNat * 65536) ++
    (s.spaces.toList.filter fun e => e.valid).map fun e => (e.root.extractLsb' 16 36).toNat * 65536

/-- The leaf that maps a physical address, for its slice-map mode: the one that a core's cache holds, else one that the tables in use
hold; modulo mode where none does (R221, R284). -/
def State.leafFor (s : State) (pa : Nat) : Word :=
  match s.tlb.find? fun t => ptePa t.leaf ≤ pa && pa < ptePa t.leaf + 2 ^ t.lg with
  | some t => t.leaf
  | none => (s.roots.findSome? fun r => s.leafIn pa r 2).getD 0

/-- The home LLC slice of a line under the active maps (R221). -/
def State.homeOf (s : State) (pa : Nat) : Nat := State.sliceOf s.tgActive s.llcp.toNat (s.leafFor pa) pa

/-- The slice of each die's L2 that a line belongs to (R221). -/
def State.l2SliceOf (s : State) (pa : Nat) : Nat := State.sliceOf s.tgActive 67 (s.leafFor pa) pa

/-- Chunks of a slice's reserve in use (R362). -/
def State.reserveUsed (s : State) (slice : Nat) : Nat := (tableGet s.reserve slice).getD 0

/-- Chunks of 32 bytes in which the LLC stores a line, 1 to 4 (R220). -/
def State.chunksOf (s : State) (line : Nat) : Nat := (tableGet s.chunks line).getD 1

/-- WRITE_PERFORMED (R231, R362): the write at place k of the queues is applied at its ordering point, whole or its first units.
A line of the LLC that compresses less well takes `grow` more chunks, up to 4 in all, from its slice's reserve, and waits while the
reserve does not hold them (R220). -/
def State.writePerformed (s : State) (k units grow : Nat) : State :=
  match s.wq[k]? with
  | none => s
  | some w =>
    let grow := if s.cacheable w.pa then grow else 0
    if 4 < s.chunksOf (lineOf w.pa) + grow || (grow != 0 && 64 < s.reserveUsed (s.homeOf w.pa) + grow) ||
      !s.canPerform (s.wq.take k) (s.wq.filter fun w => w.part) w then s
    else
      let r := w.split units
      let t := { s with
        reserve := if grow = 0 then s.reserve
          else tableSet s.reserve (s.homeOf w.pa) (s.reserveUsed (s.homeOf w.pa) + grow)
        chunks := if grow = 0 then s.chunks else tableSet s.chunks (lineOf w.pa) (s.chunksOf (lineOf w.pa) + grow)
        wq := s.wq.take k ++ r.2.toList ++ s.wq.drop (k + 1) }
      t.performWrite r.1

/-- RESERVE_EVICTION (R362): evictions free chunks of a slice's reserve. -/
def State.evict (s : State) (slice chunks : Nat) : State :=
  let used := s.reserveUsed slice
  if used = 0 then s else { s with reserve := tableSet s.reserve slice (used - chunks) }

/-! ### Slice maps -/

/-- A slice-map change starts to run (R364). -/
def State.startChange (s : State) (c : MapChange) : State :=
  { s with change := some ⟨c, false, s.llcp, s.tgActive, [], []⟩ }

/-- Two requests of one kind. -/
def MapChange.sameKind : MapChange → MapChange → Bool
  | .llcp _, .llcp _ => true
  | .tiles _, .tiles _ => true
  | .llcp _, .tiles _ => false
  | .tiles _, .llcp _ => false

/-- A request for a slice-map change: started, or held while one runs. A later one replaces a held one (R228) of its own kind, and takes
the last place: the two kinds are held side by side (log entry 69). -/
def State.requestChange (s : State) (c : MapChange) : State :=
  match s.change with
  | none => s.startChange c
  | some _ => { s with changeHeld := (s.changeHeld.filter fun k => !k.sameKind c) ++ [c] }

/-- The home of a line changes in the change that runs (R364). -/
def State.moves (s : State) (r : MapRun) (line : Nat) : Bool :=
  let leaf := s.leafFor line
  State.sliceOf r.oldTiles r.oldLlcp.toNat leaf line != s.homeOf line

/-- Lines that some slice holds something for: a sequence counter, a copy, or a request (R364). -/
def State.heldLines (s : State) : List Nat :=
  (s.tags.map fun e => e.1) ++ (s.llc.map fun e => e.1) ++ (s.l2.map fun e => e.2) ++ s.sliceReqs.map fun q => lineOf q.line

/-- SLICE_MAP_CHANGE (R364): the epoch advances and the map takes its new value; then lines are handed to their new homes, and
once every line is handed over the change ends with a record of kind 0x08 and a held one starts. The record names the host die (log entry
88). -/
def State.mapChange (s : State) (lines : List Nat) (done : Bool) : State :=
  match s.change with
  | none => s
  | some r =>
    let t := if r.started then s else
      { s with
        epoch := s.epoch + 1
        llcp := match r.what with | .llcp n => n | .tiles _ => s.llcp
        tgActive := match r.what with | .llcp _ => s.tgActive | .tiles es => es }
    let r := { r with started := true, handed := r.handed ++ lines }
    let done := done && t.heldLines.all fun l => !t.moves r l || r.handed.contains l
    let t := { t with sliceReqs := t.sliceReqs.filter fun q => !(q.st == ReqState.held && (done || r.handed.contains q.line)) }
    if !done then { t with change := some r }
    else
      let t := { t with change := none }.log 0x08 6 (BitVec.zeroExtend 16 t.llcp) t.epoch 0 0
      match t.changeHeld with
      | [] => t
      | c :: rest => { t with changeHeld := rest }.startChange c

/-- SLICE_REQUEST (R363, R364): a request of a core for a line arrives at a slice under an epoch. It is told to retry when the
miss table is full, told to rehash when its home has moved on, held at a new home before the handover, or served. -/
def State.sliceRequest (s : State) (core line : Nat) (write : Bool) (epoch : BitVec 32) (full : Bool) : State :=
  let rest := s.sliceReqs.filter fun q => !(q.core == core && q.line == line && q.write == write)
  -- after its rehash reply a request carries the new epoch: it has one reply at most in a change
  let epoch := if s.change.any fun r => r.rehashed.contains (core, line, write) then s.epoch else epoch
  let put := fun (st : ReqState) => ({ s with
    sliceReqs := rest ++ [⟨core, line, write, epoch, st⟩]
    change := if st = .rehash then s.change.map fun r => { r with rehashed := r.rehashed ++ [(core, line, write)] } else s.change } : State)
  let served : State := { s with sliceReqs := rest }
  if !s.cacheable line then s
  else if full then put .retry
  else
    match s.change with
    | none => if epoch = s.epoch then served else put .rehash
    | some r =>
      if !r.started then served
      else if epoch = s.epoch then (if s.moves r line && !r.handed.contains line then put .held else served)
      else if s.moves r line && r.handed.contains line then put .rehash
      else served

/-- RETRY_RESEND (R363): the request at place k that was told to retry is sent again. -/
def State.retryResend (s : State) (k : Nat) : State :=
  match s.sliceReqs[k]? with
  | some q => if q.st = .retry then { s with sliceReqs := s.sliceReqs.eraseIdx k } else s
  | none => s

/-- The die of the ordering point of a line (R9, R231, R361). -/
def State.homeUnit (s : State) (line : Nat) : BitVec 8 :=
  match regionOf line with
  | .drawer => if s.sharedPa line then 7 else if s.homeOf line < 66 then 4 else 5
  | .hbm | .cxl => if s.homeOf line < 66 then 4 else 5
  | .tcm _ | .csp _ | .serai _ | .regs | .reserved => unitOf line

/-- SEQUENCE_COUNTER_LOST (R365). -/
def State.counterLost (s : State) (line : Nat) : State :=
  let line := lineOf line
  if (regionOf line).hasTags then
    { s with tags := tableSet s.tags line 0 }.log 0x04 (s.homeUnit line) 0 0 (BitVec.ofNat 64 line) 0
  else s

/-! ### Trunks -/

/-- A trunk. -/
def State.trunkAt (s : State) (t : BitVec 4) : Trunk := s.trunks[t.toNat]?.getD Trunk.trained

/-- The state with a trunk changed. -/
def State.onTrunk (s : State) (t : BitVec 4) (f : Trunk → Trunk) : State :=
  { s with trunks := s.trunks.setIfInBounds t.toNat (f (s.trunkAt t)) }

/-- The hub die of a trunk, as a record names it (R9, R361). -/
def trunkUnit (t : BitVec 4) : BitVec 8 := if t.toNat < 8 then 4 else 5

/-- The active bank of the slot tables (R225). -/
def State.activeTab (s : State) : List (Nat × BitVec 6) := if s.slotAct then s.slotTab1 else s.slotTab0

/-- The Route of a transmit slot of a trunk. -/
def routeOf (tab : List (Nat × BitVec 6)) (t : BitVec 4) (slot : Nat) : BitVec 6 :=
  (tableGet tab (4096 * t.toNat + slot % 4096)).getD 0

/-- The Route by which a request travels: one without a slot on the trunk travels as Route 0 (R226). -/
def travels (tab : List (Nat × BitVec 6)) (t : BitVec 4) (r : BitVec 6) : BitVec 6 :=
  if tab.any fun e => e.1 / 4096 == t.toNat && e.2 == r then r else 0

/-- Places of a slot for a number of working fibres (R367). -/
def placesOf (fibres : Nat) : Nat := 2 * fibres

/-- A request at a trunk: one of a hart's convoy, or a queued write or a publication whose ordering point is the drawer, or whose line the
LLC is to hold (R143, R214, R226). -/
inductive Carried where
  | request (r : TrunkReq)
  | write (w : Write)
  | pub (p : Pub)
  deriving DecidableEq, Repr

/-- The cycle at which a request reached its trunk. -/
def Carried.since : Carried → Nat
  | .request r => r.since
  | .write w => w.since
  | .pub p => p.since

/-- The Route of a request. -/
def Carried.route : Carried → BitVec 6
  | .request r => r.route
  | .write w => w.route
  | .pub p => p.route

/-- A request put behind those that reached the trunk before it or with it. -/
def Carried.insert (c : Carried) : List Carried → List Carried
  | [] => [c]
  | d :: r => if c.since < d.since then c :: d :: r else d :: Carried.insert c r

/-- A line of a private partition is on its way to the LLC over a trunk. -/
def State.fetching (s : State) (t : BitVec 4) (pa : Nat) : Bool :=
  let k := s.trunkAt t
  !s.sharedPa pa && (k.flying.map (fun f => f.1) ++ k.again).any fun r => r.line == lineOf pa

/-- The requests at a trunk in the order they reached it (R226). -/
def State.atTrunk (s : State) (t : BitVec 4) : List Carried :=
  let here := fun (pa : Nat) => s.overTrunk pa && trunkOf pa == t.toNat && !s.fetching t pa
  let ws := (s.wq.filter fun w => s.needsSlot w && here w.pa).foldl (fun l w => (Carried.write w).insert l)
    ((s.trunkAt t).waiting.foldl (fun l r => (Carried.request r).insert l) [])
  (s.pubs.filter fun p => !p.poisoned && here p.pa).foldl (fun l p => (Carried.pub p).insert l) ws

/-- A request leaves with a slot: its return or its acknowledgement is due DLAT slots later, and it takes the next link sequence number
(R226, R366). -/
def State.fly (s : State) (t : BitVec 4) (r : TrunkReq) : State :=
  s.onTrunk t fun k => { k with
    flying := k.flying ++ [({ r with num := k.num }, k.slot + Config.dlat.toNat)]
    num := k.num + 1 }

/-- One request leaves with a slot. A write or a publication to a shared region is performed at the drawer, where it can be; one to a
private partition waits for its line, which the request fetches for the LLC (R214, R226). -/
def State.sendOne (s : State) (t : BitVec 4) (c : Carried) : Option State :=
  match c with
  | .request r => some ((s.fly t r).onTrunk t fun k => { k with waiting := k.waiting.erase r })
  | .write w =>
    let r : TrunkReq := ⟨w.gang.extractLsb' 0 48, w.hartix, w.route, lineOf w.pa, true, w.since, true, 0⟩
    if !s.sharedPa w.pa then some (s.fly t r)
    else if s.canApply (s.wq.takeWhile fun k => k != w) (s.wq.filter fun k => k.part) w then
      some (({ s with wq := s.wq.erase w }.performWrite w).fly t r)
    else none
  | .pub p =>
    let r : TrunkReq := ⟨p.gang.extractLsb' 0 48, p.hartix, p.route, lineOf p.pa, true, p.since, true, 0⟩
    if !s.sharedPa p.pa then some (s.fly t r)
    else if s.pubs.find? (fun q => q.gang == p.gang && q.hartix == p.hartix && !q.poisoned) != some p then none
    else
      let q := s.readyPub p
      if q.2 && q.1.reachesPub p then some ((q.1.performPub p).fly t r) else none

/-- Requests that a predicate names whose flits failed their check are repeated, ahead of newer ones: the places left, and the state. A
repeated write keeps its link sequence number, so it is not applied again (R366). -/
def State.sendAgain (s : State) (t : BitVec 4) (p : TrunkReq → Bool) (n : Nat) : Nat × State :=
  let rs := ((s.trunkAt t).again.filter p).take n
  (n - rs.length, s.onTrunk t fun k => { k with
    again := k.again.filter fun r => !rs.contains r
    flying := k.flying ++ rs.map fun r => (r, k.slot + Config.dlat.toNat) })

/-- Requests that a predicate names leave in the order they reached the trunk, until the places of the slot are used: the places left,
and the state (R224, R226, R366). -/
def State.send (t : BitVec 4) (p : Carried → Bool) : List Carried → Nat → State → Nat × State
  | [], n, s => (n, s)
  | c :: r, n, s =>
    if n = 0 || !p c then State.send t p r n s
    else
      match s.sendOne t c with
      | some q => State.send t p r (n - 1) q
      | none => State.send t p r n s

/-- A swap of banks takes effect, at a frame start, on all trunks (R225). -/
def State.bankSwap (s : State) : State :=
  if !s.swapPend then s
  else
    let frame := s.trunks.toList.foldl (fun a k => max a ((k.slot + 4095) / 4096)) 0
    { s with
      swapPend := false
      slotAct := !s.slotAct
      trunks := s.trunks.map fun k => { k with slot := 4096 * frame, repeats := 0 } }

/-- Requests whose Route is carried so leave with a slot that has some places: repeated ones first, then those at the trunk (R226, R366). -/
def State.sendRoute (s : State) (t : BitVec 4) (r : BitVec 6) (n : Nat) : Nat × State :=
  let tab := s.activeTab
  let a := s.sendAgain t (fun q => travels tab t q.route == r) n
  State.send t (fun c => travels tab t c.route == r) (a.2.atTrunk t) a.1 a.2

/-- SLOT_DEPARTURE (R225, R226, R366, R368): the next transmit slot of a trunk departs with the requests of its Route, and with Route 0
requests in the places left over. A swap that is pending precedes the first slot of a frame. -/
def State.slotDeparture (s : State) (t : BitVec 4) : State :=
  if (s.trunkAt t).st ≠ .up then s
  else
    let s := if (s.trunkAt t).slot % 4096 = 0 then s.bankSwap else s
    let k := s.trunkAt t
    let r := routeOf s.activeTab t k.slot
    let a := s.sendRoute t r (placesOf k.fibres)
    let b := if r = 0 then a else a.2.sendRoute t 0 a.1
    b.2.onTrunk t fun k => { k with
      slot := k.slot + 1
      repeats := if (k.slot + 1) % 4096 = 0 then 0 else k.repeats }

/-- A return reaches the module: the LLC takes a line of a private partition, and the hart whose convoy asked has its answer (R214,
R226). -/
def State.arrives (s : State) (r : TrunkReq) : State :=
  let t := if s.sharedPa r.line then s else s.takeLlc r.line false
  if r.posted then t
  else
    let give := fun (h : Hart) => if h.gangid == r.gang && h.hartix == r.hartix then { h with got := h.got ++ [(r.line, r.write)] } else h
    { t with hart := give t.hart, others := t.others.map give }

/-- DRAWER_RETURN (R226): the returns that are due come back, up to P in a slot, in their order. -/
def State.drawerReturn (s : State) (t : BitVec 4) : State :=
  let k := s.trunkAt t
  if k.st ≠ .up then s
  else
    let due := (k.flying.filter fun f => f.2 ≤ k.slot).take (placesOf k.fibres)
    due.foldl (fun (s : State) f => s.arrives f.1) (s.onTrunk t fun k => { k with flying := k.flying.drop due.length })

/-- The 16 trunks. -/
def allTrunks : List (BitVec 4) := (List.range 16).map fun k => BitVec.ofNat 4 k

/-- Some trunk has something to carry or to return. -/
def State.trunksBusy (s : State) : Bool :=
  allTrunks.any fun t =>
    let k := s.trunkAt t
    k.st == .up && !(k.flying.isEmpty && k.again.isEmpty && (s.atTrunk t).isEmpty)

/-- One transmit slot of every trunk departs, and the returns that are due come back (R224, R226; log entry 3). -/
def State.serveTrunks (s : State) : State :=
  if !s.trunksBusy then s else allTrunks.foldl (fun (s : State) t => (s.slotDeparture t).drawerReturn t) s

/-- SWAP (R225, R228). -/
def State.requestSwap (s : State) : State := { s with swapPend := true }

/-- An error counter advances, saturating (R360). -/
def State.countError (s : State) (k : BitVec 3) : State :=
  let n := s.cecnt[k.toNat]?.getD 0
  { s with cecnt := s.cecnt.setIfInBounds k.toNat (if n = BitVec.allOnes 64 then n else n + 1) }

/-- FLIT_CHECK_FAILURE (R366): the flit that left last is repeated in the next slot of its Route; its request is applied once (log entry
93). -/
def State.flitFailure (s : State) (t : BitVec 4) : State :=
  if (s.trunkAt t).st ≠ .up then s
  else
    (s.onTrunk t fun k => { k with
      repeats := k.repeats + 1
      flying := k.flying.dropLast
      again := k.again ++ (k.flying.getLast?.map fun f => f.1).toList }).countError 7

/-- Slots since a cycle: a slot lasts 1.125 ns, 63/32 cycles (R4, R224). -/
def slotsSince (c now : Nat) : Nat := (now - c) * 32 / 63

/-- A trunk starts a series of retraining attempts (R367, R369). The slots that fell while it was down are lost. -/
def State.startRetrain (s : State) (t : BitVec 4) : State :=
  (s.onTrunk t fun k => { k with
    st := .retraining, attempts := 0, repeats := 0, since := s.cycle
    slot := if k.st = .down then k.slot + slotsSince k.since s.cycle else k.slot }).log 0x05 (trunkUnit t)
    (BitVec.zeroExtend 16 t) 0 0 0

/-- TRUNK_RETRAIN_START (R367): after 16 repeated flits in a frame, or on loss of lock. -/
def State.retrainStart (s : State) (t : BitVec 4) (lock : Bool) : State :=
  if (s.trunkAt t).st = .up ∧ (lock ∨ 16 ≤ (s.trunkAt t).repeats) then s.startRetrain t else s

/-- RETRAIN (R369): a new series of a trunk that is down. -/
def State.retrain (s : State) (t : BitVec 4) : State := if (s.trunkAt t).st = .down then s.startRetrain t else s

/-- RETRAIN_ATTEMPT_END (R367 to R369): the trunk returns with 8, 6 or 4 fibres, tries again (0: the attempt failed), or is down. The slots
that fell in the retraining are lost; a swap that was pending takes effect where a frame start was among them (R225). -/
def State.attemptEnd (s : State) (t : BitVec 4) (fib : Nat) : State :=
  let k := s.trunkAt t
  if k.st ≠ .retraining then s
  else if 4 ≤ fib then
    let n := if 8 ≤ fib then 8 else if 6 ≤ fib then 6 else 4
    let lost := slotsSince k.since s.cycle
    let q := s.onTrunk t fun k => { k with st := .up, fibres := n, attempts := 0, slot := k.slot + lost }
    let q := if k.slot / 4096 < (k.slot + lost) / 4096 then q.bankSwap else q
    q.log 0x06 (trunkUnit t) (BitVec.zeroExtend 16 t) (BitVec.ofNat 32 n) 0 (BitVec.ofNat 64 lost)
  else if fib = 0 ∧ k.attempts < 2 then s.onTrunk t fun k => { k with attempts := k.attempts + 1 }
  else
    (s.onTrunk t fun k => { k with
      st := .down, fibres := 0, attempts := 0, since := s.cycle, slot := k.slot + slotsSince k.since s.cycle }).log 0x07 (trunkUnit t)
      (BitVec.zeroExtend 16 t) 0 0 0

/-! ### Soft errors -/

/-- CORRECTED_ERROR (R356, R360). -/
def State.corrected (s : State) (k : BitVec 3) : State := s.countError k

/-- The four units of a line, poisoned at its home. -/
def lineUnits (line : Nat) : List (Nat × Nat × PoisonAt) := (List.range 4).map fun j => (line + 32 * j, 32, .home)

/-- The poison units that an error in memory k at an address makes: base, size, and where the poison lies; `packed`
says that the LLC stores the line compressed, or that the L2 copy is clean (R12, R356). What the LLC holds of a drawer line covers an error
in the memory beneath it, and a clean copy is one that the L2 of the die holds (R219). Memory 6 stands for the CXL pool too, for which
CECNTk has no number (log entry 88). -/
def State.errorUnits (s : State) (pa : Nat) (k : BitVec 3) (packed : Bool) : List (Nat × Nat × PoisonAt) :=
  let r := regionOf pa
  let one := fun (n : Nat) (w : PoisonAt) => [(pa / n * n, n, w)]
  if !s.configured pa then []
  else
    match k.toNat, r with
    | 0, .tcm _ => one 8 .home
    | 1, .csp _ => one 8 .home
    | 2, .serai _ => one 32 .home
    | 5, .hbm => one 32 .home
    | 6, .drawer => one 32 (if s.inLlc pa then .below else .home)
    | 6, .cxl => one 64 .home
    | 2, _ =>
      let d := (Config.cacheDie pa).toNat
      if !s.cacheable pa then []
      else if !packed then one 32 .home
      else if s.l2.contains (d, lineOf pa) then one 32 (.l2 d) else []
    | 3, _ => if !s.cacheable pa then [] else if packed then lineUnits (lineOf pa) else one 32 .home
    | _, _ => []

/-- The die that a record of poison in memory k names (R361). -/
def State.errorUnit (s : State) (pa : Nat) (k : BitVec 3) : BitVec 8 :=
  if k = 3 then s.homeUnit pa
  else if k = 2 ∧ s.cacheable pa then BitVec.zeroExtend 8 (Config.cacheDie pa)
  else unitOf pa

/-- Units added to the poisoned ones, each once. -/
def addPoison (ps us : List (Nat × Nat × PoisonAt)) : List (Nat × Nat × PoisonAt) := (ps.filter fun u => !us.contains u) ++ us

/-- Every L2 drops its copy of a line, and the L1Ds with it. -/
def State.dropAllL2 (s : State) (line : Nat) : State := (List.range 4).foldl (fun (t : State) d => t.dropL2 d line) s

/-- POISON_CREATED (R356, R357, R361). An L2 that held the line dirty held its only current copy: no other is read. -/
def State.poisonCreated (s : State) (pa : Nat) (k : BitVec 3) (packed : Bool) : State :=
  match s.errorUnits pa k packed with
  | [] => s
  | us@(u :: _) =>
    let t := if k = 2 ∧ !packed then s.dropAllL2 (lineOf pa) else s
    { t with poison := addPoison t.poison us }.log 0x01 (s.errorUnit pa k) (BitVec.zeroExtend 16 k) 0 (BitVec.ofNat 64 u.1) 0

/-- The compute die in whose L2 the tag of a line fails, where it is one that holds the line; none for the LLC and its directory: the event
names the line alone (log entry 88). -/
def State.tagDie (s : State) (line : Nat) : Option Nat :=
  (Config.tagDie s.fresh).bind fun d => if s.l2.contains (d.toNat, line) then some d.toNat else none

/-- TAG_DIRECTORY_ERROR (R359, R361): a line that could be dirty is poisoned whole; else the entry is dropped and the line fetched again,
and where it is the directory's or the LLC's every copy is invalidated. -/
def State.tagError (s : State) (line : Nat) (dirty : Bool) : State :=
  let line := lineOf line
  if !s.configured line || !s.cacheable line then s
  else
    let die := s.tagDie line
    let unit := match die with | some d => BitVec.ofNat 8 d | none => s.homeUnit line
    let s := { s with fresh := s.fresh + 1 }
    if dirty then
      let t := s.dropAllL2 line
      { t with poison := addPoison t.poison (lineUnits line) }.log 0x03 unit 1 0 (BitVec.ofNat 64 line) 0
    else
      (match die with
        | some d => s.dropL2 d line
        | none => (s.dropAllL2 line).dropLlc line).log 0x03 unit 0 0 (BitVec.ofNat 64 line) 0

end Sys2Proof.Machine
end

