-- ==== Sys2Proof/Machine/Device.lean ====
section
/-! DEFINITION. The device registers, the management mailbox, the Manifest, module reset and bring-up (R228, R297 to R299, R360,
R390, R393 to R396, R403). -/

namespace Sys2Proof.Machine

/-! ### Reading a register -/

/-- Bit n when a condition holds. -/
def bitIf (b : Bool) (n : Nat) : Nat := if b then 2 ^ n else 0

/-- A doubleword of a value of many words. -/
def wordOf {n : Nat} (v : BitVec n) (k : Nat) : Word := v.extractLsb' (64 * k) 64

/-- The LFE block at an offset (R297, R299). DESIGN CHOICE: the words of an address-space entry read as they were written, the bits outside
the fields of their CSRs too (log entry 77). -/
def State.lfeRead (s : State) (off : Nat) : Word :=
  if off < 0x1000 then
    let q := s.queueAt (BitVec.ofNat 6 (off / 64))
    match off % 64 with
    | 0x00 => q.base.zeroExtend 64
    | 0x08 => q.head ++ q.tail
    | 0x10 => BitVec.ofNat 64 (bitIf q.en 0 + bitIf q.sup 1 + bitIf q.dev 2 + bitIf q.loc 3 + q.log2sz.toNat * 16 +
        q.as.toNat * 512 + bitIf q.ovf 18)
    | 0x18 => q.rmask
    | _ => 0
  else if off < 0x2000 then
    if off % 64 < 0x30 then wordOf (s.maskAt (BitVec.ofNat 6 (off / 64))) (off % 64 / 8) else 0
  else if off < 0xA000 then
    let e := s.spaceAt (BitVec.ofNat 9 ((off - 0x2000) / 64))
    match off % 64 with
    | 0x00 => if e.valid then 1 else 0
    | 0x08 => e.root
    | 0x10 => e.prtbase
    | 0x18 => e.fplist
    | 0x20 => e.hotbase
    | 0x28 => e.tvec
    | 0x30 => e.wb0
    | _ => 0
  else if off = 0xA000 then s.poolBase.zeroExtend 64
  else if off = 0xA008 then s.poolCount.zeroExtend 64
  else 0

/-- The error log block (R360). -/
def State.errRead (s : State) (off : Nat) : Word :=
  match off with
  | 0x00 => s.elBase.zeroExtend 64
  | 0x08 => s.elTail ++ s.elHead
  | 0x10 => BitVec.ofNat 64 (bitIf s.elEn 0 + s.elLog2.toNat * 2 + bitIf s.elOvf 6 + bitIf s.elMsi 7)
  | _ => if 0x40 ≤ off ∧ off < 0x80 then s.cecnt[(off - 0x40) / 8]?.getD 0 else 0

/-- MSTATE (R393). -/
def MState.code : MState → Nat
  | .boot => 0
  | .selftest => 1
  | .run => 2
  | .talk => 3

/-- DATA of the mailbox: 2 KiB, zero where nothing was written. -/
def Mailbox.dataAt (m : Mailbox) (k : Nat) : Byte := m.data[k]?.getD 0

/-- The mailbox (R396). -/
def State.mboxRead (s : State) (off : Nat) : Word :=
  let m := s.mbox
  match off with
  | 0x00 => m.op.zeroExtend 64
  | 0x08 => m.arg0
  | 0x10 => m.arg1
  | 0x18 => BitVec.ofNat 64 (m.result.toNat + bitIf m.busy 8 + bitIf m.done 9 + bitIf (!m.events.isEmpty) 10 + m.len.toNat * 65536)
  | 0x20 => BitVec.ofNat 64 s.mstate.code
  | _ =>
    if 0x100 ≤ off ∧ off < 0x900 then BitVec.ofNat 64 (leNat ((List.range 8).map fun k => m.dataAt (off - 0x100 + k))) else 0

/-- The slot-table bank b (R225). -/
def State.slotTab (s : State) (b : Bool) : List (Nat × BitVec 6) := if b then s.slotTab1 else s.slotTab0

/-- Trunk t's register (R228). DESIGN CHOICE: FIB of a trunk that retrains shows the fibres from before the series, so 0 in one that
started from down (log entry 82). -/
def Trunk.reg (t : Trunk) : Nat :=
  2 * (match t.st with | .up => 0 | .retraining => 1 | .down => 2) + 8 * t.fibres

/-- The memory configuration block (R228). -/
def State.cfgRead (s : State) (off : Nat) : Word :=
  if off < 0x20 then ((s.serai[off / 8]?.getD 0).zeroExtend 64)
  else if 0x80 ≤ off ∧ off < 0x100 then BitVec.ofNat 64 (s.trunkAt (BitVec.ofNat 4 ((off - 0x80) / 8))).reg
  else if 0x1000 ≤ off ∧ off < 0x1100 then wordOf (s.tgShadow[(off - 0x1000) / 16]?.getD 0) (off % 16 / 8)
  else if 0x100000 ≤ off ∧ off < 0x120000 then
    let x := off - 0x100000
    BitVec.ofNat 64 (leNat ((List.range 8).map fun k =>
      ((tableGet (s.slotTab (x / 0x1000 % 2 == 1)) (4096 * (x / 0x2000) + (x % 0x1000 + k))).getD 0).zeroExtend 8))
  else
    match off with
    | 0x20 => s.dpriv
    | 0x28 => s.dshr
    | 0x30 => Config.dcap
    | 0x38 => Config.dlat.zeroExtend 64
    | 0x40 => BitVec.ofNat 64 (s.llcreq.toNat + bitIf (s.change.isSome || !s.changeHeld.isEmpty) 8)
    | 0x50 => s.migthr.zeroExtend 64
    | 0x58 => s.stallthr.zeroExtend 64
    | 0x60 => BitVec.ofNat 64 (bitIf s.slotAct 0 + bitIf s.swapPend 2)
    | 0x68 => if s.refused then 1 else 0
    | _ => 0

/-- The blocks of the register region (R403). -/
inductive Block where
  | lfe
  | err
  | mbox
  | cfg
  | none
  deriving DecidableEq, Repr

/-- The block of an offset of the region, and the offset in it. -/
def blockOf (off : Nat) : Block × Nat :=
  if 0x100000 ≤ off ∧ off < 0x200000 then (.lfe, off - 0x100000)
  else if 0x200000 ≤ off ∧ off < 0x300000 then (.err, off - 0x200000)
  else if 0x300000 ≤ off ∧ off < 0x400000 then (.mbox, off - 0x300000)
  else if 0x400000 ≤ off ∧ off < 0x520000 then (.cfg, off - 0x400000)
  else (.none, 0)

/-- The 8 bytes of the register region at an aligned offset; an address without a register reads zero (R403). -/
def State.regWord (s : State) (off : Nat) : Word :=
  match blockOf off with
  | (.lfe, o) => s.lfeRead o
  | (.err, o) => s.errRead o
  | (.mbox, o) => s.mboxRead o
  | (.cfg, o) => s.cfgRead o
  | (.none, _) => 0

/-- Aligned doublewords that n bytes at an offset touch. -/
def dwordsAt (off n : Nat) : List Nat := (List.range ((off % 8 + n + 7) / 8)).map fun j => off / 8 * 8 + 8 * j

/-- A read of n bytes of the register region, doubleword by doubleword (R403). -/
def State.regRead (s : State) (off n : Nat) : List Byte :=
  (((dwordsAt off n).flatMap fun o => leBytes 8 (s.regWord o).toNat).drop (off % 8)).take n

/-! ### Writing a register -/

/-- Bits of a doubleword that a write of 1 clears: they are not cleared by a write of the bytes beside them (R403). -/
def w1cBits (off : Nat) : Word :=
  match blockOf off with
  | (.lfe, o) => if o < 0x1000 ∧ o % 64 = 0x10 then 0x40000 else 0
  | (.err, o) => if o = 0x10 then 0x40 else 0
  | (.mbox, o) => if o = 0x18 then 0x200 else 0
  | (.cfg, o) => if o = 0x68 then 1 else 0
  | (.none, _) => 0

/-- A queue descriptor word written (R297, R298). DESIGN CHOICE: bits [5:0] of BASE are kept as written, and added to the address of a
packet, where they are not zero (log entry 90). -/
def State.queueWrite (s : State) (q : BitVec 6) (o : Nat) (v : Word) : State :=
  match o with
  | 0x00 => s.onQueue q fun k => if k.en then k else { k with base := v.extractLsb' 0 52 }
  | 0x08 => s.doorbell q (v.extractLsb' 0 32)
  | 0x10 =>
    let k := s.queueAt q
    let k : Queue := { k with sup := v.getLsbD 1, dev := v.getLsbD 2, ovf := k.ovf && !v.getLsbD 18 }
    let k : Queue := if k.en then k
      else { k with loc := v.getLsbD 3, log2sz := v.extractLsb' 4 5, as := v.extractLsb' 9 9 }
    let may := k.log2sz != 0 && k.log2sz.toNat ≤ 16 && s.mstate == .run
    let k : Queue := { k with en := if v.getLsbD 0 then k.en || may else false }
    { s.onQueue q fun _ => k with
      offers := if k.en then s.offers else s.offers.filter fun o => o.queue != q
      served := if !k.en && s.served == some (.queue q) then none else s.served
      named := if !k.en && s.served == some (.queue q) then [] else s.named
      namedSlots := if !k.en && s.served == some (.queue q) then [] else s.namedSlots
      mbox := { s.mbox with opened := s.mbox.opened || k.en } }
  | 0x18 => s.onQueue q fun k => { k with rmask := v }
  | _ => s

/-- A doubleword of a core mask replaced. -/
def maskSet (m : BitVec 384) (k : Nat) (v : Word) : BitVec 384 :=
  (m &&& ~~~((0xFFFFFFFFFFFFFFFF#384) <<< (64 * k))) ||| (BitVec.zeroExtend 384 v <<< (64 * k))

/-- An address-space entry word written (R299). -/
def Space.write (e : Space) (o : Nat) (v : Word) : Space :=
  match o with
  | 0x00 => { e with valid := v.getLsbD 0 }
  | 0x08 => { e with root := v }
  | 0x10 => { e with prtbase := v }
  | 0x18 => { e with fplist := v }
  | 0x20 => { e with hotbase := v }
  | 0x28 => { e with tvec := v }
  | 0x30 => { e with wb0 := v }
  | _ => e

/-- A doubleword of the LFE block written (R297, R299, R336). -/
def State.lfeWrite (s : State) (off : Nat) (v : Word) : State :=
  if off < 0x1000 then s.queueWrite (BitVec.ofNat 6 (off / 64)) (off % 64) v
  else if off < 0x2000 then
    let e := off / 64 % 64
    if e = 0 ∨ 0x30 ≤ off % 64 then s
    else { s with masks := s.masks.setIfInBounds e (maskSet (s.masks[e]?.getD 0) (off % 64 / 8) v) }
  else if off < 0xA000 then
    let a := (off - 0x2000) / 64
    { s with spaces := s.spaces.setIfInBounds a ((s.spaces[a]?.getD Space.empty).write (off % 64) v) }
  else if off = 0xA000 then { s with poolBase := v.extractLsb' 0 52 &&& ~~~(0x1FFFF#52) }
  else if off = 0xA008 then { s with poolCount := v.extractLsb' 0 16 }
  else if off = 0xA100 then s.abort v
  else s

/-- A doubleword of the error log block written (R360). -/
def State.errWrite (s : State) (off : Nat) (v : Word) : State :=
  match off with
  | 0x00 => { s with elBase := v.extractLsb' 0 52 &&& ~~~(0x1F#52) }
  | 0x08 => { s with elTail := v.extractLsb' 32 32 }
  | 0x10 =>
    let lg := v.extractLsb' 1 5
    { s with
      elEn := if v.getLsbD 0 then s.elEn || (lg != 0 && lg.toNat ≤ 16) else false
      elLog2 := lg
      elOvf := s.elOvf && !v.getLsbD 6
      elMsi := v.getLsbD 7 }
  | _ => if 0x40 ≤ off ∧ off < 0x80 then { s with cecnt := s.cecnt.setIfInBounds ((off - 0x40) / 8) v } else s

/-- Bytes written into DATA from an offset on. -/
def Mailbox.putData (m : Mailbox) (at_ : Nat) (bs : List Byte) : Mailbox :=
  { m with data := (List.range 2048).map fun k => if at_ ≤ k ∧ k < at_ + bs.length then bs[k - at_]?.getD 0 else m.dataAt k }

/-- A doubleword of the mailbox written (R396). -/
def State.mboxWrite (s : State) (off : Nat) (v : Word) : State :=
  let m := s.mbox
  let put := fun (m : Mailbox) => ({ s with mbox := m } : State)
  match off with
  | 0x00 => if m.busy then s else put { m with op := v.extractLsb' 0 8, busy := true }
  | 0x08 => put { m with arg0 := v }
  | 0x10 => put { m with arg1 := v }
  | 0x18 => put { m with done := m.done && !v.getLsbD 9 }
  | _ => if 0x100 ≤ off ∧ off < 0x900 then put (m.putData (off - 0x100) (leBytes 8 v.toNat)) else s

/-- A refused write of the memory configuration block (R228). -/
def State.refuse (s : State) : State := { s with refused := true }

/-- A write of SERAId (R218, R228): after a change the window reads zero, and the L2 of the die holds no line. -/
def State.seraiSet (s : State) (d : Nat) (v : BitVec 5) : State :=
  if 16 < v.toNat ∨ !s.gangs.isEmpty then s.refuse
  else if s.serai[d]? = some v then s
  else
    let lo := seraiBase + 0x10000000 * d
    let inside := fun (a : Nat) => lo ≤ a && a < lo + 0x10000000
    { s with
      serai := s.serai.setIfInBounds d v
      mem := Memory.drop s.mem inside
      l2 := s.l2.filter fun l => l.1 != d
      l1d := s.l1d.filter fun l => dieOf l.1 != d
      poison := s.poison.filter fun u => !inside u.1 && u.2.2 != .l2 d }

/-- Sizes of the drawer's parts accepted (R228). -/
def State.partOk (s : State) (a b : Word) : Bool :=
  s.queues.all (fun q => !q.en) && a.toNat % 65536 == 0 && b.toNat % 65536 == 0 && a.toNat + b.toNat ≤ Config.dcap.toNat

/-- A write of LLCREQ (R228, R364). -/
def State.llcSet (s : State) (v : BitVec 8) : State :=
  if v = 131 ∨ v = 127 ∨ v = 113 then { s with llcreq := v }.requestChange (.llcp v) else s.refuse

/-- One byte of the slot tables written (R225, R228). -/
def State.slotWrite (s : State) (x : Nat) (v : Byte) : State :=
  let b := x / 0x1000 % 2 == 1
  if b = s.slotAct then s.refuse
  else
    let key := 4096 * (x / 0x2000) + x % 0x1000
    let r := v.extractLsb' 0 6
    let put := fun (t : List (Nat × BitVec 6)) => if r = 0 then t.filter fun e => e.1 != key else tableSet t key r
    if b then { s with slotTab1 := put s.slotTab1 } else { s with slotTab0 := put s.slotTab0 }

/-- A doubleword of the tile-geometry shadow entries written (R222). -/
def tileSet (g : BitVec 128) (k : Nat) (v : Word) : BitVec 128 :=
  if k = 0 then (g.extractLsb' 64 64) ++ (v &&& 0xFFFFFFFFF) else (v &&& 0xFFFFFFFFFF) ++ (g.extractLsb' 0 64)

/-- A doubleword of the memory configuration block written, but for the slot tables (R228). -/
def State.cfgWrite (s : State) (off : Nat) (v : Word) : State :=
  if off < 0x20 then s.seraiSet (off / 8) (v.extractLsb' 0 5)
  else if 0x80 ≤ off ∧ off < 0x100 then if v.getLsbD 0 then s.retrain (BitVec.ofNat 4 ((off - 0x80) / 8)) else s
  else if 0x1000 ≤ off ∧ off < 0x1100 then
    let g := (off - 0x1000) / 16
    { s with tgShadow := s.tgShadow.setIfInBounds g (tileSet (s.tgShadow[g]?.getD 0) (off % 16 / 8) v) }
  else
    match off with
    | 0x20 => if s.partOk v s.dshr then { s with dpriv := v } else s.refuse
    | 0x28 => if s.partOk s.dpriv v then { s with dshr := v } else s.refuse
    | 0x40 => s.llcSet (v.extractLsb' 0 8)
    | 0x48 => if v.getLsbD 0 then s.requestChange (.tiles s.tgShadow) else s
    | 0x50 => { s with migthr := v.extractLsb' 0 32 }
    | 0x58 => { s with stallthr := if (v.extractLsb' 0 32).toNat < 98304 then 98304 else v.extractLsb' 0 32 }
    | 0x60 => if v.getLsbD 1 then s.requestSwap else s
    | 0x68 => if v.getLsbD 0 then { s with refused := false } else s
    | _ => s

/-- The 8 bytes at an aligned offset written with a merged value (R403). -/
def State.regPut (s : State) (off : Nat) (v : Word) : State :=
  match blockOf off with
  | (.lfe, o) => s.lfeWrite o v
  | (.err, o) => s.errWrite o v
  | (.mbox, o) => s.mboxWrite o v
  | (.cfg, o) => s.cfgWrite o v
  | (.none, _) => s

/-- Bytes merged into a doubleword at a place. -/
def mergeBytes (w : Word) (at_ : Nat) (bs : List Byte) : Word :=
  BitVec.ofNat 64 (leNat ((List.range 8).map fun k =>
    if at_ ≤ k ∧ k < at_ + bs.length then bs[k - at_]?.getD 0 else w.extractLsb' (8 * k) 8))

/-- A write of bytes within one aligned doubleword of the register region (R403); the slot tables are written byte by byte. In
Talk only the mailbox answers (R393). -/
def State.regWrite8 (s : State) (off : Nat) (bs : List Byte) : State :=
  if s.mstate = .talk ∧ (blockOf off).1 ≠ .mbox then s
  else if 0x500000 ≤ off ∧ off < 0x520000 then
    ((List.range bs.length).zip bs).foldl (fun (t : State) k => t.slotWrite (off - 0x500000 + k.1) k.2) s
  else
    let base := off / 8 * 8
    s.regPut base (mergeBytes (s.regWord base &&& ~~~(w1cBits base)) (off - base) bs)

/-- A write of bytes of the register region, doubleword by doubleword (R403). -/
def State.regWrite (s : State) (off : Nat) (bs : List Byte) : State :=
  (dwordsAt off bs.length).foldl (fun (t : State) o =>
    let lo := max off o
    t.regWrite8 lo ((bs.drop (lo - off)).take (o + 8 - lo))) s

/-- A register that device harts reach only at privilege S (R228, R336, R396). Where no register lies, an access faults at neither
privilege (R403). -/
def systemReg (off : Nat) : Bool :=
  match blockOf off with
  | (.mbox, o) => o < 0x28 || (0x100 ≤ o && o < 0x900)
  | (.cfg, o) => o < 0x70 || (0x80 ≤ o && o < 0x100) || (0x1000 ≤ o && o < 0x1100) || 0x100000 ≤ o
  | (.lfe, o) => o / 8 * 8 == 0xA100
  | (.err, _) | (.none, _) => false

/-! ### The Manifest -/

/-- SLICEMAP (R223). -/
def State.sliceMap (s : State) : Word := BitVec.ofNat 64 (s.llcp.toNat + 67 * 256 + s.epoch.toNat * 65536)

/-- DEVID (R11). -/
def devid : Word := 0x010C0A0384A2

/-- MANIFEST (R392). -/
def manifestCsr : Word := 0x0D01

/-- The digest of the active slot tables: trunk 0 first, one byte per entry (R225, R390). -/
def State.routeHash (s : State) : BitVec 384 :=
  let tab := s.activeTab
  Config.sha384 ((List.range 65536).map fun k => ((tableGet tab k).getD 0).zeroExtend 8)

/-- The bytes of a digest, first byte most significant. -/
def digestBytes (d : BitVec 384) : List Byte := (leBytes 48 d.toNat).reverse

/-- The fields 1 to 13 of a Manifest with their present values: number, offset and bytes (R390). Without a hart the fields of one
are zero (R396). -/
def State.manifestFields (s : State) (h : Option Hart) : List (Nat × Nat × List Byte) :=
  let of := fun (n : Nat) (f : Hart → Nat) => match h with | some h => leBytes n (f h) | none => List.replicate n 0
  [(1, 0x008, leBytes 8 devid.toNat), (2, 0x010, digestBytes (Config.firmware s.images 0)),
    (3, 0x040, digestBytes (Config.firmware s.images 1)), (4, 0x070, digestBytes (Config.firmware s.images 2)),
    (5, 0x0A0, of 8 fun h => bitIf h.det 0), (6, 0x0A8, of 8 fun h => bitIf h.prot 0), (7, 0x0B0, of 8 fun h => bitIf h.rewEn 0),
    (8, 0x0B8, of 8 fun h => (h.flags.extractLsb' 8 2).toNat),
    (9, 0x0C0, of 64 fun h => (h.mb.toList.foldr (fun (w : BitVec 53) a => w.toNat + 2 ^ 64 * a) 0)),
    (10, 0x100, of 8 fun h => h.mck.toNat), (11, 0x108, leBytes 8 s.sliceMap.toNat),
    (12, 0x110, of 8 fun h => (if h.det then 4 + 4 * 256 else h.lgmin + h.lgmax * 256) + h.gangsz.toNat * 65536),
    (13, 0x118, digestBytes s.routeHash)]

/-- A Manifest body with its signatures zero (R390, R396): CMPMASK is zero. -/
def State.manifestBody (s : State) (h : Option Hart) : List Byte :=
  let f := (s.manifestFields h).flatMap fun f => f.2.2
  leBytes 4 1 ++ leBytes 4 0 ++ f ++ List.replicate (2048 - 8 - f.length) 0

/-! ### Mailbox commands -/

/-- The running command ends: RESULT, LEN and DATA, then DONE (R396). -/
def State.endCommand (s : State) (result : Nat) (data : List Byte) : State :=
  let m := s.mbox.putData 0 data
  { s with mbox := { m with result := BitVec.ofNat 8 result, len := BitVec.ofNat 16 data.length, busy := false, done := true } }

/-- The failure report (R395). -/
def reportBytes (r : List (Word × Word)) : List Byte :=
  let r := r.take 127
  leBytes 8 r.length ++ r.flatMap fun e => leBytes 8 e.1.toNat ++ leBytes 8 e.2.toNat

/-- The slot that ARG0 and ARG1 name (R396). -/
def Mailbox.slot (m : Mailbox) : Option Nat :=
  if m.arg0.toNat < 384 then some (4 * m.arg0.toNat + (m.arg1.extractLsb' 0 2).toNat) else none

/-- GETREPORT (R395). -/
def State.cmdReport (s : State) : State := s.endCommand 0 (reportBytes s.mbox.report)

/-- GETMANIFEST (R396). -/
def State.cmdManifest (s : State) : State :=
  let id := s.mbox.arg0.extractLsb' 0 48
  let named := BitVec.zeroExtend 64 id == s.mbox.arg0 && (s.gangOf id).isSome
  s.endCommand 0 (s.manifestBody (if named then
    ((s.harts ++ s.swapped.map fun k => k.keep).find? fun h => h.gangid == id && h.hartix == 0) else none))

/-- INSTKEY (R396). -/
def State.cmdKeys (s : State) : State :=
  if s.mbox.keys.isSome || s.mbox.opened then s.endCommand 3 []
  else
    let at_ := fun (o n : Nat) => (List.range n).map fun k => s.mbox.dataAt (o + k)
    { s with mbox := { s.mbox with keys := some (at_ 0 97, at_ 0x80 56) } }.endCommand 0 []

/-- FWLOAD (R394, R396): an accepted image takes effect at the next module reset. -/
def State.cmdFirmware (s : State) : State :=
  let ok := Config.imageVerifies s.mbox.arg0 s.mbox.arg1 s.fresh
  { s.endCommand (if ok then 0 else 4) [] with
    fresh := s.fresh + 1
    imagesNext := if ok then s.fresh + 1 else s.imagesNext }

/-- SWITCHOUT (R314, R396). -/
def State.cmdSwitch (s : State) : State :=
  match s.mbox.slot.bind s.hartAt with
  | some h => (s.onHart h.id fun h => { h with switchReq := true }).endCommand 0 []
  | none => s.endCommand 2 []

/-- RESUMEH (R396, R397). -/
def State.cmdResume (s : State) : State :=
  match s.mbox.slot.bind s.hartAt with
  | some h =>
    if h.status = .halted then (s.onHart h.id fun h => { h with status := .running }).endCommand 0 []
    else s.endCommand 2 []
  | none => s.endCommand 2 []

/-- GETEVENT (R396). -/
def State.cmdEvent (s : State) : State :=
  match s.mbox.events with
  | [] => s.endCommand 0 []
  | e :: r => { s with mbox := { s.mbox with events := r } }.endCommand 0 e

/-- A command that Talk does not allow ends with RESULT 3 (R393, R396). -/
def State.notInTalk (s : State) (t : State) : State := if s.mstate = .talk then s.endCommand 3 [] else t

/-- The command in OP, once it runs (R396). -/
def State.command (s : State) : State :=
  match s.mbox.op.toNat with
  | 1 => s.cmdReport
  | 2 => s.notInTalk s.cmdManifest
  | 3 => s.notInTalk s.cmdKeys
  | 4 => s.cmdFirmware
  | 5 => s.notInTalk s.cmdSwitch
  | 6 => s.notInTalk s.cmdResume
  | 7 => s.cmdEvent
  | _ => s.endCommand 1 []

/-- A step of the mailbox: the running command, where it is the one named (R396). -/
def State.runCommand (s : State) (op : BitVec 8) : State := if s.mbox.busy ∧ s.mbox.op = op then s.command else s

/-! ### Module states -/

/-- MODULE_RESET (R393), from Run or Talk: every register takes its reset value; what memory holds stays (log entry 21), and the images
accepted last are in force (R396). -/
def State.moduleReset (s : State) : State :=
  match s.mstate with
  | .boot | .selftest => s
  | .run | .talk =>
    { State.reset with
      mem := s.mem
      poison := s.poison.filterMap fun u => match u.2.2 with | .home => some u | .below => some (u.1, u.2.1, .home) | .l2 _ => none
      absentPages := s.absentPages
      images := s.imagesNext
      imagesNext := s.imagesNext
      fresh := s.fresh
      agenda := s.agenda }

/-- CLASS of a failure entry (R395). -/
def failureClass (e : Word × Word) : Nat := (e.1.extractLsb' 0 8).toNat

/-- How many units of a class there are, and the die of one of them, given what a finding says where a class has units of one number on
several dies (R9, R395). -/
def failureUnit (cls index die : Nat) : Nat × Nat :=
  match cls with
  | 1 => (384, index / 96)
  | 2 => (48, index / 12)
  | 3 => (67, die % 4)
  | 4 => (131, (if index < 66 then 4 else 5))
  | 5 => (8, (stackUnit index).toNat)
  | 6 => (16, if index < 8 then 4 else 5)
  | 7 => (1, 6)
  | _ => (3, if index = 0 then 6 else if index = 1 then 4 + die % 2 else die % 4)

/-- A finding of the self-test as an entry of the failure report: its class is one that the test has, its INDEX names a unit of the class,
and DIE is the die of that unit (R9, R395). -/
def failureEntry (e : Word × Word) : Word × Word :=
  let cls := 1 + (failureClass e) % 7
  let index := (e.1.extractLsb' 16 16).toNat % (failureUnit cls 0 0).1
  let die := (failureUnit cls index (e.1.extractLsb' 8 8).toNat).2
  (e.1.extractLsb' 32 32 ++ BitVec.ofNat 16 index ++ BitVec.ofNat 8 die ++ BitVec.ofNat 8 cls, e.2)

/-- The entries of the failure report for the images that fail: CLASS 8, the image, and the first test that it fails (R394, R395). -/
def bootFailures (boot : Nat) : List (Word × Word) :=
  (List.range 3).filterMap fun i => ([1, 2, 3].find? fun t => !Config.bootCheck boot i t).map fun t =>
    let f := Config.bootFinding boot i
    (BitVec.ofNat 32 t ++ BitVec.ofNat 16 i ++ BitVec.ofNat 8 (failureUnit 8 i f.1.toNat).2 ++ 8#8, f.2)

/-- BOOT_VERIFY (R393, R394). -/
def State.bootVerify (s : State) : State :=
  if s.mstate ≠ .boot then s
  else
    let f := bootFailures s.fresh
    { s with
      fresh := s.fresh + 1
      mstate := if f.isEmpty then .selftest else .talk
      mbox := { s.mbox with report := f } }

/-- SELFTEST_COMPLETE (R393, R394): failing trunks are down, and any other failing unit keeps the module in Talk. -/
def State.selftestComplete (s : State) : State :=
  if s.mstate ≠ .selftest then s
  else
    let f := (Config.selftestFailures s.fresh).map failureEntry
    let t := { s with fresh := s.fresh + 1, mbox := { s.mbox with report := s.mbox.report ++ f } }
    if f.any fun e => failureClass e != 6 then { t with mstate := .talk }
    else
      f.foldl (fun (t : State) e => t.onTrunk (e.1.extractLsb' 16 4) fun k => { k with st := .down, fibres := 0 })
        { t with mstate := .run }

end Sys2Proof.Machine
end

