-- ==== Sys2Proof/Machine/VectorAtomic.lean ====
section
/-! DEFINITION. Vector fetch-atomics, ordered updates, swap, compare-and-swap and waits: MAJ 24, 25 and 31 (R180 to R185), and the
read-modify-write operations they share with the scalar atomics (R126). -/

namespace Sys2Proof.Machine

/-- The operations of an atomic (R126). -/
inductive AtomOp where
  | add
  | and
  | or
  | xor
  | min
  | max
  | minu
  | maxu
  | swap
  deriving DecidableEq, Repr

/-- The new value of a location of w bits (R126). -/
def AtomOp.apply (op : AtomOp) (w old b : Nat) : Nat :=
  let s := fun (x : Nat) => (BitVec.ofNat w x).toInt
  match op with
  | .add => (old + b) % 2 ^ w
  | .and => old &&& b
  | .or => old ||| b
  | .xor => old ^^^ b
  | .min => if s b < s old then b else old
  | .max => if s old < s b then b else old
  | .minu => if b < old then b else old
  | .maxu => if old < b then b else old
  | .swap => b

/-- What one element of a vector atomic writes: its new value, or none (R183). -/
abbrev ElemOp := Nat → Nat → Option Nat

/-- The elements of a vector atomic on a space applied in ascending order (R181): the values fetched and the writes. -/
def State.applyItems (s : State) (space : BitVec 61) (map : PageMap) (n : Nat) (op : ElemOp) (items : List Item) :
    List (Nat × Nat) × List Write :=
  items.foldl (fun (a : List (Nat × Nat) × List Write) x =>
    let old := leNat ((physPieces map x.t.va n).flatMap fun p => s.bytesAfter .vector a.2 p.1 p.2)
    let ws := match op x.t.el old with
      | some v => (s.itemWrites space map n x (leBytes n v)).map fun w => { w with now := true }
      | none => []
    (a.1 ++ [(x.t.el, old)], a.2 ++ ws)) ([], [])

/-- The elements of a VA form: SEW 32 or 64, aligned addresses, pages that may be read, and written where it writes (R180). -/
def State.atomItems (s : State) (a b : BitVec 5) (pm : BitVec 4) (sl : BitVec 2) (writes : Bool)
    (k : State → BitVec 61 → PageMap → List Item → Res) : Res :=
  let sew := s.hart.sew
  if sew ≠ 32 ∧ sew ≠ 64 then .trap (formatFault 0)
  else
    s.permAligned sl (s.indices b pm) (s.x a) (sew / 8) (s.indexed sl (s.indices b pm) (s.x a) (sew / 8) fun s space items =>
      match items.find? fun x => x.t.va.toNat % (sew / 8) != 0 with
      | some x => .trap (Trap.plain 0x03 x.t.va)
      | none =>
        let ts := items.map fun x => x.t
        let read := fun (s : State) => s.prepare ⟨space, .read, false, sl != 0⟩ ts fun s map => k s space map items
        if writes then s.prepare ⟨space, .write, false, sl != 0⟩ ts fun s _ => read s else read s)

/-- rl: the hart's earlier vector accesses are performed first (R185). -/
def State.vecRelease (s : State) (r : BitVec 1) (k : State → Res) : Res :=
  if r = 1 then s.afterWrites (fun w => w.cls == .vector) true false true k else k s

/-- What keeps some elements of an atomic from being performed in its write phase, as the answer for the part performed and the
elements left: a row locked for a commit (R265, R271), a drawer line that has not returned, for which the atomic is suspended once the
wait is too long (R333), or poison (R330). -/
def State.atomStop (s : State) (map : PageMap) (items : List Item) : Option (State → Pred → Res) :=
  let ps := itemPieces map items
  if items.any fun x => x.locked then some fun s rest => .pause s .row rest
  else
    match s.unservedOf true ps with
    | [] => (s.consumedBy .vector true ps).map fun u s rest => .susp s (consumed u) rest
    | ls => some fun t rest =>
      match s.readStall ls true with
      | .trap c => .susp t c rest
      | .wait w => .pause t w rest
      | r => r

/-- A fetch-atomic form, one indivisible step over its active elements (R181, R183): the fetched values go to vd. -/
def State.fetchAtomic (s : State) (op : State → ElemOp) (groups : List (BitVec 5)) (d a b : BitVec 5) (pm : BitVec 4)
    (r : BitVec 1) (sl : BitVec 2) : Out :=
  s.vecMem groups fun s => Res.committing (s.atomItems a b pm sl true fun s space map items =>
    s.vecRelease r fun s => s.settlePieces .vector (itemPieces map items) true true true fun t =>
      match t.atomStop map items with
      | some f => f t (maskFrom (items.map fun x => x.t.el) 0)
      | none =>
        let q := t.applyItems space map (s.hart.sew / 8) (op t) items
        if !t.performable q.2 then .wait .writes
        else
          let v := t.putElems t.hart.sew d.toNat pm fun i => (((q.1.find? fun e => e.1 == i).map fun e => e.2).getD 0, 0)
          .ok (((v.addWrites q.2).joinVersions items).addHot 2 map (items.map fun x => x.t)))

/-- An ordered update, element by element in ascending order (R182): vd is unchanged. -/
def State.orderedUpdate (s : State) (op : AtomOp) (d a b : BitVec 5) (pm : BitVec 4) (r : BitVec 1) (sl : BitVec 2) : Out :=
  s.vecMem [d, b] fun s => Res.committing (s.atomItems a b pm sl true fun s space map items =>
    s.vecRelease r fun s => s.settlePieces .vector (itemPieces map items) true true true fun t =>
      let sew := s.hart.sew
      let f : ElemOp := fun i old => some (op.apply sew old (t.hart.elem sew d.toNat i))
      let done := items.takeWhile fun x => (t.atomStop map [x]).isNone
      let rest := items.drop done.length
      let q := t.applyItems space map (sew / 8) f done
      let part := ((t.addWrites q.2).joinVersions done).addHot 2 map (done.map fun x => x.t)
      if !t.performable q.2 then .wait .writes
      else
        match t.atomStop map (rest.take 1) with
        | some f => f part (maskFrom (rest.map fun y => y.t.el) 0)
        | none => .ok part)

/-- A wait: every active element's location satisfies its condition in one round (R184). DESIGN CHOICE: the versions of the satisfied
round's permuted elements join those of the convoy; R271 gives a vwait round none (log entry 80). -/
def State.watch (s : State) (cond : Nat → Nat → Nat → Bool) (d a b : BitVec 5) (pm : BitVec 4) (sl : BitVec 2) : Out :=
  s.vecMem [d, b] fun s => Res.committing (s.atomItems a b pm sl false fun s _ map items =>
    let sew := s.hart.sew
    let ts := items.map fun x => x.t
    let ps := itemPieces map items
    if items.any fun x => x.locked then .wait .row
    else
      match s.unservedOf false ps with
      | l :: ls => s.readStall (l :: ls) false
      | [] => s.settlePieces .vector ps true false true fun t =>
        match t.consumedBy .vector true ps with
        | some u => .trap (consumed u)
        | none =>
          if items.all fun x => cond sew (t.loadNat .vector map x.t.va (sew / 8)) (t.hart.elem sew d.toNat x.t.el) then
            .ok ((t.joinVersions items).addHot 2 map ts)
          else .wait .watch)

/-- The operand of a fetch-atomic: vd.e[i] (R181). -/
def fetchOp (op : AtomOp) (d : BitVec 5) (s : State) : ElemOp := fun i old =>
  some (op.apply s.hart.sew old (s.hart.elem s.hart.sew d.toNat i))

/-! ### MAJ 24 -/

/-- Add, fetched and indivisible (R181). -/
def execVaadd (d a b : BitVec 5) (p : BitVec 4) (_q r : BitVec 1) (sl : BitVec 2) (s : State) : Out :=
  s.fetchAtomic (fetchOp .add d) [d, b] d a b p r sl

/-- And, fetched and indivisible (R181). -/
def execVaand (d a b : BitVec 5) (p : BitVec 4) (_q r : BitVec 1) (sl : BitVec 2) (s : State) : Out :=
  s.fetchAtomic (fetchOp .and d) [d, b] d a b p r sl

/-- Or, fetched and indivisible (R181). -/
def execVaor (d a b : BitVec 5) (p : BitVec 4) (_q r : BitVec 1) (sl : BitVec 2) (s : State) : Out :=
  s.fetchAtomic (fetchOp .or d) [d, b] d a b p r sl

/-- Exclusive or, fetched and indivisible (R181). -/
def execVaxor (d a b : BitVec 5) (p : BitVec 4) (_q r : BitVec 1) (sl : BitVec 2) (s : State) : Out :=
  s.fetchAtomic (fetchOp .xor d) [d, b] d a b p r sl

/-- Signed minimum, fetched and indivisible (R181). -/
def execVamin (d a b : BitVec 5) (p : BitVec 4) (_q r : BitVec 1) (sl : BitVec 2) (s : State) : Out :=
  s.fetchAtomic (fetchOp .min d) [d, b] d a b p r sl

/-- Signed maximum, fetched and indivisible (R181). -/
def execVamax (d a b : BitVec 5) (p : BitVec 4) (_q r : BitVec 1) (sl : BitVec 2) (s : State) : Out :=
  s.fetchAtomic (fetchOp .max d) [d, b] d a b p r sl

/-- Unsigned minimum, fetched and indivisible (R181). -/
def execVaminu (d a b : BitVec 5) (p : BitVec 4) (_q r : BitVec 1) (sl : BitVec 2) (s : State) : Out :=
  s.fetchAtomic (fetchOp .minu d) [d, b] d a b p r sl

/-- Unsigned maximum, fetched and indivisible (R181). -/
def execVamaxu (d a b : BitVec 5) (p : BitVec 4) (_q r : BitVec 1) (sl : BitVec 2) (s : State) : Out :=
  s.fetchAtomic (fetchOp .maxu d) [d, b] d a b p r sl

/-! ### MAJ 25 -/

/-- Add, element by element (R182). -/
def execVuadd (d a b : BitVec 5) (p : BitVec 4) (_q r : BitVec 1) (sl : BitVec 2) (s : State) : Out :=
  s.orderedUpdate .add d a b p r sl

/-- And, element by element (R182). -/
def execVuand (d a b : BitVec 5) (p : BitVec 4) (_q r : BitVec 1) (sl : BitVec 2) (s : State) : Out :=
  s.orderedUpdate .and d a b p r sl

/-- Or, element by element (R182). -/
def execVuor (d a b : BitVec 5) (p : BitVec 4) (_q r : BitVec 1) (sl : BitVec 2) (s : State) : Out :=
  s.orderedUpdate .or d a b p r sl

/-- Exclusive or, element by element (R182). -/
def execVuxor (d a b : BitVec 5) (p : BitVec 4) (_q r : BitVec 1) (sl : BitVec 2) (s : State) : Out :=
  s.orderedUpdate .xor d a b p r sl

/-- Signed minimum, element by element (R182). -/
def execVumin (d a b : BitVec 5) (p : BitVec 4) (_q r : BitVec 1) (sl : BitVec 2) (s : State) : Out :=
  s.orderedUpdate .min d a b p r sl

/-- Signed maximum, element by element (R182). -/
def execVumax (d a b : BitVec 5) (p : BitVec 4) (_q r : BitVec 1) (sl : BitVec 2) (s : State) : Out :=
  s.orderedUpdate .max d a b p r sl

/-- Unsigned minimum, element by element (R182). -/
def execVuminu (d a b : BitVec 5) (p : BitVec 4) (_q r : BitVec 1) (sl : BitVec 2) (s : State) : Out :=
  s.orderedUpdate .minu d a b p r sl

/-- Unsigned maximum, element by element (R182). -/
def execVumaxu (d a b : BitVec 5) (p : BitVec 4) (_q r : BitVec 1) (sl : BitVec 2) (s : State) : Out :=
  s.orderedUpdate .maxu d a b p r sl

/-! ### MAJ 31 -/

/-- Swap (R183). -/
def execVaswap (d a b : BitVec 5) (p : BitVec 4) (_q r : BitVec 1) (sl : BitVec 2) (s : State) : Out :=
  s.fetchAtomic (fetchOp .swap d) [d, b] d a b p r sl

/-- Compare-and-swap against the group that follows vd (R80, R183). -/
def execVacas (d a b : BitVec 5) (p : BitVec 4) (_q r : BitVec 1) (sl : BitVec 2) (s : State) : Out :=
  let m := lmulOf s.hart.vtype
  let op := fun (s : State) => ((fun i old =>
    let h := s.hart
    if old = h.elem h.sew (d.toNat + m) i then some (h.elem h.sew d.toNat i) else none) : ElemOp)
  if 31 < d.toNat + 2 * m - 1 then s.word fun s => .trap s.illegal
  else s.fetchAtomic op [d, b] d a b p r sl

/-- Wait until equal (R184). -/
def execVwaitEq (d a b : BitVec 5) (p : BitVec 4) (_q : BitVec 1) (sl : BitVec 2) (s : State) : Out :=
  s.watch (fun _ x y => x == y) d a b p sl

/-- Wait until not equal (R184). -/
def execVwaitNe (d a b : BitVec 5) (p : BitVec 4) (_q : BitVec 1) (sl : BitVec 2) (s : State) : Out :=
  s.watch (fun _ x y => x != y) d a b p sl

/-- Wait until greater or equal, signed (R184). -/
def execVwaitGe (d a b : BitVec 5) (p : BitVec 4) (_q : BitVec 1) (sl : BitVec 2) (s : State) : Out :=
  s.watch (fun w x y => signedOf w y ≤ signedOf w x) d a b p sl

/-- Wait until greater or equal, unsigned (R184). -/
def execVwaitGeu (d a b : BitVec 5) (p : BitVec 4) (_q : BitVec 1) (sl : BitVec 2) (s : State) : Out :=
  s.watch (fun _ x y => y ≤ x) d a b p sl

end Sys2Proof.Machine
end

