-- ==== Sys2Proof/Machine/ScalarMem.lean ====
section
/-! DEFINITION. Scalar loads and stores, scalar atomics and fences: MAJ 8 to 11 (R121 to R132, R242, R403). -/

namespace Sys2Proof.Machine

/-! ### Device registers -/

/-- The protection fault of an access to a register of the system at privilege U (R228, R336, R396): page kind 4 (R328). -/
def regDenied (va : Word) : Trap := ⟨0x07, va, [⟨pageOf va, 4⟩], 0, true, false⟩

/-- The physical pieces of a scalar access, each with its virtual address. -/
def scaPieces (map : PageMap) (va : Word) (n : Nat) : List (Word × Nat × Nat) :=
  (pieces (n / 128 + 2) va n).map fun p => (p.1, physOf map p.1, p.2)

/-- A piece of a scalar access lies in the device-register region. -/
def inRegs (p : Word × Nat × Nat) : Bool := regionOf p.2.1 == .regs

/-- Some byte of a piece in the device-register region belongs to a register of the system (R228). -/
def meetsSystem (p : Word × Nat × Nat) : Bool := (List.range p.2.2).any fun k => systemReg (p.2.1 - regsBase + k)

/-- The pieces of an access in the device-register region: the access is performed after every earlier scalar access of the hart is, at
SYSTEM scope (R242), and is a commit point (R383). A store never reports the stall of a write it waits for (R344). -/
def State.regAccess (s : State) (va : Word) (ps : List (Word × Nat × Nat)) (report : Bool) (k : State → Res) : Res :=
  match ps.filter inRegs with
  | [] => k s
  | p :: r => Res.committing (
    match (if s.hart.priv = .u then (p :: r).find? meetsSystem else none) with
    | some q => .trap (regDenied (if pageOf q.1 = pageOf va then va else pageOf q.1))
    | none => s.afterWrites (fun w => w.cls == .scalar) false true report k)

/-- A scalar access waits for the hart's publications to a watermark whose bytes it overlaps (R402). -/
def State.pubsAt (s : State) (ps : List (Nat × Nat)) (k : State → Res) : Res :=
  s.afterPubs (fun p => ps.any fun q => overlaps p.pa 8 q.1 q.2) k

/-! ### Loads and stores -/

/-- addr (R88, R121). -/
def State.scaAddr (s : State) (a : BitVec 5) (i : BitVec 10) (size : Nat) : Word :=
  s.x a + i.signExtend 64 * BitVec.ofNat 64 size

/-- The alignment of a scalar access (R122). -/
def whenAligned (va : Word) (align : Nat) (k : Res) : Res :=
  if va.toNat % align = 0 then k else .trap (Trap.plain 0x03 va)

/-- Pieces cut at the 64-byte lines of L1D (R124). -/
def l1Pieces (ps : List (Nat × Nat)) : List (Nat × Nat) :=
  ps.flatMap fun p =>
    let k := 64 - p.1 % 64
    if p.2 ≤ k then [p] else [(p.1, k), (p.1 + k, p.2 - k)]

/-- The L1D of the hart's core holds the line of a byte. -/
def State.inL1d (s : State) (pa : Nat) : Bool := s.l1d.contains (s.hart.core, pa / 64 * 64)

/-- The L1D of the hart's core allocates the lines of some pieces that missed in it, where they may be cached and hold no poison, unless the
hint na prevents it (R124, R356). -/
def State.fillL1d (s : State) (hint : BitVec 2) (ps : List (Nat × Nat)) : State :=
  if hint = 1 then s
  else ps.foldl (fun (t : State) p =>
    let l := p.1 / 64 * 64
    if t.cacheable l && !t.inL1d l && (t.consumes .scalar false l 64).isNone then { t with l1d := t.l1d ++ [(t.hart.core, l)] } else t) s

/-- The bytes of the pieces of a scalar read (R121, R403). -/
def State.pieceBytes (s : State) (ps : List (Word × Nat × Nat)) : List Byte :=
  ps.flatMap fun p => if inRegs p then s.regRead (p.2.1 - regsBase) p.2.2 else s.readBytes .scalar p.2.1 p.2.2

/-- A scalar read of n translated bytes. What L1D holds is neither poisoned nor behind a trunk (R124, R356); L2 allocates a line that
missed there where no hint prevents it (R219). -/
def State.scaRead (s : State) (map : PageMap) (va : Word) (n : Nat) (hint : BitVec 2) (k : State → List Byte → Res) : Res :=
  let all := scaPieces map va n
  let ps := l1Pieces ((all.filter fun p => !inRegs p).map fun p => p.2)
  s.regAccess va all true fun s => s.pubsAt ps fun s =>
    let miss := ps.filter fun p => !s.inL1d p.1
    match s.unservedOf false miss with
    | l :: ls => s.readStall (l :: ls) false
    | [] =>
      s.readFirst .scalar (s.hart.orders.filter fun o => o.reads && o.after == .scalar) ps fun s =>
        match s.consumedBy .scalar false miss with
        | some u => .trap (consumed u)
        | none => k ((s.fillL1d hint miss).fillL2 (hint != 0) miss) (s.pieceBytes all)

/-- A scalar load: `put` writes the registers from the value read (R121, R122). -/
def State.scaLoad (s : State) (va : Word) (size align : Nat) (hint : BitVec 2) (put : State → Nat → State) : Res :=
  whenAligned va align (
    s.prepare (s.scaMode .read) [⟨0, va, size⟩] fun s map => s.scaRead map va size hint fun s bs => .ok (put s (leNat bs)))

/-- A stall that is not reported: the word waits (R344). -/
def Res.unreported : Res → Res
  | .trap t => if t.code = 0x11 then .wait (.trunk [t.tval.toNat] false) else .trap t
  | .ok s => .ok s
  | .wait w => .wait w
  | .replay p => .replay p
  | .hold s w => .hold s w
  | .susp s t m => .susp s t m
  | .pause s w m => .pause s w m
  | .keep g w => .keep g w

/-- A scalar store of some bytes in single-copy atomic units of u bytes (R121 to R123). It reports no stall, that of its walk neither
(R344). -/
def State.scaStore (s : State) (va : Word) (align u : Nat) (bs : List Byte) : Res :=
  whenAligned va align (
    let m := s.scaMode .write
    let ts : List Touch := [⟨0, va, bs.length⟩]
    ((s.prepare m ts fun s _ => .ok s).unreported).andThen fun _ => s.prepare m ts fun s map =>
      let ps := scaPieces map va bs.length
      let part := fun (p : Word × Nat × Nat) => (bs.drop (p.1 - va).toNat).take p.2.2
      match ps.filter inRegs with
      | [] => s.pubsAt (ps.map fun p => p.2) fun s => .ok (s.addWrites (s.runWrites .scalar map u va (wholeBytes bs)))
      | regs => s.regAccess va ps false fun s => s.pubsAt ((ps.filter fun p => !inRegs p).map fun p => p.2) fun s =>
        s.settlePieces .scalar [] false true false fun s =>
          let t := regs.foldl (fun (t : State) p => t.regWrite (p.2.1 - regsBase) (part p)) s
          .ok (t.addWrites ((ps.filter fun p => !inRegs p).flatMap fun p => t.runWrites .scalar map u p.1 (wholeBytes (part p)))))

/-- A load of one register. -/
def State.load (s : State) (d a : BitVec 5) (h : BitVec 2) (i : BitVec 10) (size : Nat) (f : Nat → Word) : Out :=
  s.word fun s => s.scaLoad (s.scaAddr a i size) size size h fun s v => s.setX d (f v)

/-- A store of one register. -/
def State.store (s : State) (d a : BitVec 5) (i : BitVec 10) (size u : Nat) : Out :=
  s.word fun s => s.scaStore (s.scaAddr a i size) size u (leBytes size (s.x d).toNat)

/-- SEXT(v, w) (R1). -/
def sext (w v : Nat) : Word := (BitVec.ofNat w v).signExtend 64

/-- Load byte, sign-extended (R121). -/
def execLb (d a : BitVec 5) (h : BitVec 2) (i : BitVec 10) (s : State) : Out := s.load d a h i 1 (sext 8)

/-- Load byte, zero-extended (R121). -/
def execLbu (d a : BitVec 5) (h : BitVec 2) (i : BitVec 10) (s : State) : Out := s.load d a h i 1 (BitVec.ofNat 64)

/-- Load halfword, sign-extended (R121). -/
def execLh (d a : BitVec 5) (h : BitVec 2) (i : BitVec 10) (s : State) : Out := s.load d a h i 2 (sext 16)

/-- Load halfword, zero-extended (R121). -/
def execLhu (d a : BitVec 5) (h : BitVec 2) (i : BitVec 10) (s : State) : Out := s.load d a h i 2 (BitVec.ofNat 64)

/-- Load word, sign-extended (R121). -/
def execLw (d a : BitVec 5) (h : BitVec 2) (i : BitVec 10) (s : State) : Out := s.load d a h i 4 (sext 32)

/-- Load word, zero-extended (R121). -/
def execLwu (d a : BitVec 5) (h : BitVec 2) (i : BitVec 10) (s : State) : Out := s.load d a h i 4 (BitVec.ofNat 64)

/-- Load doubleword (R121). -/
def execLd (d a : BitVec 5) (h : BitVec 2) (_t : BitVec 1) (i : BitVec 10) (s : State) : Out := s.load d a h i 8 (BitVec.ofNat 64)

/-- Load pair (R121): 16-byte alignment with .a16, else 8 (R122). -/
def execLdp (d a : BitVec 5) (h : BitVec 2) (t : BitVec 1) (i : BitVec 10) (s : State) : Out :=
  s.word fun s => s.scaLoad (s.scaAddr a i 16) 16 (if t = 1 then 16 else 8) h fun s v =>
    (s.setX d (BitVec.ofNat 64 v)).setX (d + 1) (BitVec.ofNat 64 (v / 2 ^ 64))

/-- Store byte (R121). -/
def execSb (d a : BitVec 5) (_h : BitVec 2) (i : BitVec 10) (s : State) : Out := s.store d a i 1 1

/-- Store halfword (R121). -/
def execSh (d a : BitVec 5) (_h : BitVec 2) (i : BitVec 10) (s : State) : Out := s.store d a i 2 2

/-- Store word (R121). -/
def execSw (d a : BitVec 5) (_h : BitVec 2) (i : BitVec 10) (s : State) : Out := s.store d a i 4 4

/-- Store doubleword (R121): one unit with .a8, else two of 4 bytes (R123). -/
def execSd (d a : BitVec 5) (_h : BitVec 2) (t : BitVec 1) (i : BitVec 10) (s : State) : Out :=
  s.store d a i 8 (if t = 1 then 8 else 4)

/-- Store pair (R121): one unit of 16 bytes with .a16, else four of 4 (R123). -/
def execSdp (d a : BitVec 5) (_h : BitVec 2) (t : BitVec 1) (i : BitVec 10) (s : State) : Out :=
  s.word fun s => s.scaStore (s.scaAddr a i 16) (if t = 1 then 16 else 8) (if t = 1 then 16 else 4)
    (leBytes 8 (s.x d).toNat ++ leBytes 8 (s.x (d + 1)).toNat)

/-! ### Atomics -/

/-- Bytes of a scalar atomic: 4 for .w, 8 for .d (R126). -/
def atomSize (w : BitVec 1) : Nat := if w = 1 then 4 else 8

/-- rl: every earlier scalar access of the hart is performed at the stated scope first; CORE scope is reached in the core's queue
(R128, R230, R239). -/
def State.scaRelease (s : State) (r : BitVec 1) (scope : BitVec 2) (k : State → Res) : Res :=
  if r = 0 then k s
  else if scope = 0 then s.afterAccepted (fun w => w.cls == .scalar) true k
  else s.afterWrites (fun w => w.cls == .scalar) true (scope == 3) true k

/-- The sequence tag that rd+1 receives: of the write that this access makes, or of the latest write of the line; all ones where
no tags are kept (R129, R233). -/
def State.tagFor (s : State) (pa : Nat) (wrote : Bool) : Word :=
  if (regionOf pa).hasTags then BitVec.zeroExtend 64 (if wrote then s.tag (lineOf pa) + 1 else s.tag (lineOf pa))
  else BitVec.allOnes 64

/-- rd and, with q, rd+1 (R126, R129). -/
def State.putOld (s : State) (d : BitVec 5) (u : BitVec 1) (n old : Nat) (tag : Word) : State :=
  let t := s.setX d (sext (8 * n) old)
  if u = 1 then t.setX (d + 1) tag else t

/-- The page of a scalar atomic, readable and, where it writes, writable (R122, R126). -/
def State.atomPage (s : State) (va : Word) (n : Nat) (reads writes : Bool) (k : State → PageMap → Res) : Res :=
  whenAligned va n (
    let ts : List Touch := [⟨0, va, n⟩]
    if writes then
      s.prepare (s.scaMode .write) ts fun s map =>
        if reads then s.prepare (s.scaMode .read) ts fun s map => k s map else k s map
    else s.prepare (s.scaMode .read) ts k)

/-- The L1D of the hart's core drops its copy of a line (R126). -/
def State.leaveL1d (s : State) (pa : Nat) : State :=
  { s with l1d := s.l1d.filter fun l => !(l.1 == s.hart.core && overlaps l.2 64 (lineOf pa) 128) }

/-- A scalar read-modify-write at its ordering point: `op` gives the value written, or none (R126 to R129). -/
def State.scaAtomic (s : State) (d a : BitVec 5) (r w u : BitVec 1) (scope : BitVec 2) (reads writes : Bool)
    (op : State → Nat → Option Nat) : Out :=
  s.word fun s => Res.committing (
    let n := atomSize w
    let va := s.x a
    s.atomPage va n reads writes fun s map =>
      s.scaRelease r scope fun s =>
        let pa := physOf map va
        if regionOf pa = .regs then
          s.regAccess va [(va, pa, n)] reads fun s => s.settlePieces .scalar [] reads writes reads fun s =>
            let old := leNat (s.regRead (pa - regsBase) n)
            let t := match op s old with
              | some v => s.regWrite (pa - regsBase) (leBytes n v)
              | none => s
            .ok (if reads then t.putOld d u n old (BitVec.allOnes 64) else t)
        else s.pubsAt [(pa, n)] fun s =>
          match s.unservedOf (!reads) [(pa, n)] with
          | l :: ls => if reads then s.readStall (l :: ls) false else .wait (.trunk (l :: ls) true)
          | [] =>
            s.settlePieces .scalar [(pa, n)] reads writes reads fun t =>
              match if reads then t.consumedBy .scalar true [(pa, n)] else none with
              | some k => .trap (consumed k)
              | none =>
                let old := leNat (t.bytesAfter .scalar [] pa n)
                let new := op t old
                let ws := match new with
                  | some v => (t.runWrites .scalar map n va (wholeBytes (leBytes n v))).map fun k => { k with now := true }
                  | none => []
                if ws.all fun k => t.canPerform t.wq (t.wq.filter fun w => w.part) k then
                  .ok ((if reads then t.putOld d u n old (t.tagFor pa new.isSome) else t).leaveL1d pa |>.addWrites ws)
                else .wait .writes)

/-- An atomic that always writes. -/
def State.scaOp (s : State) (op : AtomOp) (d a b : BitVec 5) (r w u : BitVec 1) (scope : BitVec 2) : Out :=
  s.scaAtomic d a r w u scope true true fun s old =>
    some (op.apply (8 * atomSize w) old ((s.x b).toNat % 2 ^ (8 * atomSize w)))

/-- Atomic add (R126). -/
def execAadd (d a b : BitVec 5) (_q r w u : BitVec 1) (sc : BitVec 2) (s : State) : Out := s.scaOp .add d a b r w u sc

/-- Atomic and (R126). -/
def execAand (d a b : BitVec 5) (_q r w u : BitVec 1) (sc : BitVec 2) (s : State) : Out := s.scaOp .and d a b r w u sc

/-- Atomic or (R126). -/
def execAor (d a b : BitVec 5) (_q r w u : BitVec 1) (sc : BitVec 2) (s : State) : Out := s.scaOp .or d a b r w u sc

/-- Atomic exclusive or (R126). -/
def execAxor (d a b : BitVec 5) (_q r w u : BitVec 1) (sc : BitVec 2) (s : State) : Out := s.scaOp .xor d a b r w u sc

/-- Atomic signed minimum (R126). -/
def execAmin (d a b : BitVec 5) (_q r w u : BitVec 1) (sc : BitVec 2) (s : State) : Out := s.scaOp .min d a b r w u sc

/-- Atomic signed maximum (R126). -/
def execAmax (d a b : BitVec 5) (_q r w u : BitVec 1) (sc : BitVec 2) (s : State) : Out := s.scaOp .max d a b r w u sc

/-- Atomic unsigned minimum (R126). -/
def execAminu (d a b : BitVec 5) (_q r w u : BitVec 1) (sc : BitVec 2) (s : State) : Out := s.scaOp .minu d a b r w u sc

/-- Atomic unsigned maximum (R126). -/
def execAmaxu (d a b : BitVec 5) (_q r w u : BitVec 1) (sc : BitVec 2) (s : State) : Out := s.scaOp .maxu d a b r w u sc

/-- Atomic swap (R126). -/
def execAswap (d a b : BitVec 5) (_q r w u : BitVec 1) (sc : BitVec 2) (s : State) : Out := s.scaOp .swap d a b r w u sc

/-- Compare-and-swap: no write where the compare fails (R126). -/
def execAcas (d a b : BitVec 5) (_q r w u : BitVec 1) (sc : BitVec 2) (s : State) : Out :=
  s.scaAtomic d a r w u sc true true fun s old =>
    let m := 2 ^ (8 * atomSize w)
    if old = (s.x d).toNat % m then some ((s.x b).toNat % m) else none

/-- Load at the ordering point (R127). -/
def execAld (d a : BitVec 5) (_q w u : BitVec 1) (sc : BitVec 2) (s : State) : Out :=
  s.scaAtomic d a 0 w u sc true false fun _ _ => none

/-- Store at the ordering point (R127). -/
def execAst (a b : BitVec 5) (r w : BitVec 1) (sc : BitVec 2) (s : State) : Out :=
  s.scaAtomic 0 a r w 0 sc false true fun s _ => some ((s.x b).toNat % 2 ^ (8 * atomSize w))

/-! ### Fences -/

/-- A fence: it holds back the hart's later accesses that its pairs and classes name until the earlier writes they name are performed
at its scope, and itself waits for nothing (R130; log entry 13). Reads of the hart are performed as they execute, so the pairs rr and rw
hold. -/
def State.fenceOn (s : State) (m : BitVec 4) (scope : BitVec 2) (pairs : List (Cls × Cls)) : Out :=
  s.word fun s => Res.committing (.ok (
    if m.getLsbD 0 || m.getLsbD 1 then
      s.order (pairs.map fun p => ⟨s.hart.seq, p.1, p.2, scope != 0, scope == 3, m.getLsbD 1, m.getLsbD 0, false⟩)
    else s))

/-- fence: each class against itself (R130). -/
def execFence (m : BitVec 4) (sc : BitVec 2) (s : State) : Out := s.fenceOn m sc [(.scalar, .scalar), (.vector, .vector)]

/-- fence.sv: earlier scalar accesses before later vector ones (R130). -/
def execFenceSv (m : BitVec 4) (sc : BitVec 2) (s : State) : Out := s.fenceOn m sc [(.scalar, .vector)]

/-- fence.vs: earlier vector accesses before later scalar ones (R130). -/
def execFenceVs (m : BitVec 4) (sc : BitVec 2) (s : State) : Out := s.fenceOn m sc [(.vector, .scalar)]

/-- Acknowledgements of the current hart's writes that are on their way back from the drawer (R131, R226). -/
def State.acksDue (s : State) : List TrunkReq :=
  (s.trunks.toList.flatMap fun t => t.flying.map fun f => f.1).filter fun r =>
    r.posted && r.gang == s.hart.gangid && r.hartix == s.hart.hartix

/-- Every earlier write of the hart is performed at SYSTEM scope, publications included (R131, R397, R402). -/
def State.allPerformed (s : State) (k : State → Res) : Res :=
  s.afterWrites (fun _ => true) false true true fun s => s.afterPubs (fun _ => true) fun s => s.afterWrites (fun _ => true) false true true k

/-- fence.w: every earlier write of the hart is acknowledged, publications included (R131, R247, R402). -/
def execFenceW (_sc : BitVec 2) (s : State) : Out :=
  s.word fun s => Res.committing (s.allPerformed fun s =>
    match s.acksDue with
    | [] => .ok s
    | rs =>
      match rs.find? fun r => s.conv.expired == some .writes && s.stallthr.toNat < s.cycle - r.since with
      | some r => .trap (stalledAt r.line)
      | none => .wait .writes)

/-- fence.i: the core's L1I is discarded (R132). -/
def execFenceI (s : State) : Out :=
  s.word fun s => Res.committing (.ok { s with l1i := s.l1i.filter fun l => l.core != s.hart.core })

end Sys2Proof.Machine
end

