-- ==== Sys2Proof/Machine/System.lean ====
section
/-! DEFINITION. The CSRs and the system group: MAJ 30 (R133 to R137, R256, R288 to R294, R312, R313, R331, R334, R391, R397). -/

namespace Sys2Proof.Machine

/-! ### The CSR map -/

/-- A CSR of a bank of registers. -/
def bankAt {α : Type} {n : Nat} (v : Vector α n) (i : Nat) (f : α → Word) : Word := (v[i]?.map f).getD 0

/-- TSTATUS and the other narrow CSRs as 64-bit values. -/
def widen {n : Nat} (b : BitVec n) : Word := b.zeroExtend 64

/-- The value of a CSR, none for a number that is not assigned (R137, Table 9). -/
def State.csr (s : State) (c : BitVec 12) : Option Word :=
  let h := s.hart
  match c.toNat with
  | 0x010 => some (bankAt h.mfc 0 widen)
  | 0x011 => some (bankAt h.mfc 1 widen)
  | 0x012 => some (bankAt h.mfc 2 widen)
  | 0x013 => some (bankAt h.mfc 3 widen)
  | 0x020 => some (bankAt h.mb 0 widen)
  | 0x021 => some (bankAt h.mb 1 widen)
  | 0x022 => some (bankAt h.mb 2 widen)
  | 0x023 => some (bankAt h.mb 3 widen)
  | 0x024 => some (bankAt h.mb 4 widen)
  | 0x025 => some (bankAt h.mb 5 widen)
  | 0x026 => some (bankAt h.mb 6 widen)
  | 0x027 => some (bankAt h.mb 7 widen)
  | 0x030 => some (bankAt h.ts 0 id)
  | 0x031 => some (bankAt h.ts 1 id)
  | 0x032 => some (bankAt h.ts 2 id)
  | 0x033 => some (bankAt h.ts 3 id)
  | 0x040 => some (widen h.vcarry)
  | 0x041 => some h.pcarry
  | 0x060 => some h.wmark
  | 0x061 => some h.wwait
  | 0x080 => some h.psvlo
  | 0x081 => some h.psvhi
  | 0x090 => some (widen h.mck)
  | 0x0A0 => some (widen h.flags)
  | 0x400 => some (widen h.vl)
  | 0x401 => some (widen h.vtype)
  | 0x402 => some (widen h.mvl)
  | 0x403 => some (widen h.vstart)
  | 0x404 => some h.lanesCsr
  | 0x410 => some (widen h.hartix)
  | 0x411 => some (widen h.gangsz)
  | 0x412 => some (widen h.gangid)
  | 0x413 => some h.coreid
  | 0x420 => some (bankAt h.rpc 0 id)
  | 0x421 => some (bankAt h.rpc 1 id)
  | 0x422 => some (bankAt h.rpc 2 id)
  | 0x423 => some (bankAt h.rpc 3 id)
  | 0x424 => some (bankAt h.rpc 4 id)
  | 0x425 => some h.rpcx
  | 0x430 => some (BitVec.ofNat 64 s.cycle)
  | 0x431 => some h.convoys
  | 0x432 => some s.time
  | 0x800 => some h.tvec
  | 0x801 => some (widen h.tcause)
  | 0x802 => some h.tepc
  | 0x803 => some h.tval
  | 0x804 => some (widen h.tstatus)
  | 0x805 => some (widen h.wbase)
  | 0x806 => some h.tscratch
  | 0x810 => some (widen (s.lprOf h.core))
  | 0x811 => some (widen h.route)
  | 0x812 => some (widen h.prio)
  | 0x820 => some (widen h.ptbase)
  | 0x821 => some (widen h.prtbase)
  | 0x822 => some (widen h.fplist)
  | 0x823 => some (widen h.hotbase)
  | 0x830 => some (if h.det then 1 else 0)
  | 0x831 => some ((if h.prot then 1 else 0) ||| (widen h.retry <<< 16))
  | 0x832 => some h.rewindCsr
  | 0x840 => some (widen h.dbgctl)
  | 0xC00 => some devid
  | 0xC01 => some manifestCsr
  | 0xC02 => some s.sliceMap
  | _ => none

/-- The state with a read/write CSR written: reserved and read-only bits keep their value (R3, R133). -/
def State.setCsr (s : State) (c : BitVec 12) (w : Word) : State :=
  let h := s.hart
  let put := fun (h : Hart) => ({ s with hart := h } : State)
  let mfc := fun (i : Fin 4) => put { h with mfc := h.mfc.set i (w.extractLsb' 0 27) }
  let mb := fun (i : Fin 8) => put { h with mb := h.mb.set i (w.extractLsb' 0 53) }
  let ts := fun (i : Fin 4) => put { h with ts := h.ts.set i w }
  match c.toNat with
  | 0x010 => mfc 0
  | 0x011 => mfc 1
  | 0x012 => mfc 2
  | 0x013 => mfc 3
  | 0x020 => mb 0
  | 0x021 => mb 1
  | 0x022 => mb 2
  | 0x023 => mb 3
  | 0x024 => mb 4
  | 0x025 => mb 5
  | 0x026 => mb 6
  | 0x027 => mb 7
  | 0x030 => ts 0
  | 0x031 => ts 1
  | 0x032 => ts 2
  | 0x033 => ts 3
  | 0x040 => put { h with vcarry := w.extractLsb' 0 32 }
  | 0x041 => put { h with pcarry := w }
  | 0x060 => put { h with wmark := w }
  | 0x061 => put { h with wwait := w }
  | 0x080 => put { h with psvlo := w }
  | 0x081 => put { h with psvhi := w }
  | 0x090 => put { h with mck := w.extractLsb' 0 6 }
  | 0x0A0 => put { h with flags := (h.flags &&& 0x080) ||| (w.extractLsb' 0 10 &&& 0x37F) }
  | 0x800 => put { h with tvec := (h.tvec &&& 0x3F) ||| (w &&& ~~~(0x3F#64)) }
  | 0x801 => put { h with tcause := w.extractLsb' 0 11 }
  | 0x802 => put { h with tepc := w }
  | 0x803 => put { h with tval := w }
  | 0x804 => put { h with tstatus := w.extractLsb' 0 7 }
  | 0x805 => put { h with wbase := (h.wbase &&& 0x3F) ||| (w.extractLsb' 0 52 &&& ~~~(0x3F#52)) }
  | 0x806 => put { h with tscratch := w }
  | 0x810 => s.setLpr h.core ((s.lprOf h.core &&& 0x8888) ||| (w.extractLsb' 0 16 &&& 0x7777))
  | 0x811 => put { h with route := w.extractLsb' 0 6 }
  | 0x812 => put { h with prio := w.extractLsb' 0 3 }
  | 0x820 => put { h with ptbase := (h.ptbase &&& 0xFFFF) ||| (w.extractLsb' 0 61 &&& ~~~(0xFFFF#61)) }
  | 0x821 => put { h with prtbase := w.extractLsb' 0 52 }
  | 0x822 => put { h with fplist := w.extractLsb' 0 52 }
  | 0x823 => put { h with hotbase := w.extractLsb' 0 52 }
  | 0x832 => put { h with rewEn := w.getLsbD 0, rewLimit := w.extractLsb' 1 3 }
  | 0x840 => put { h with dbgctl := w.extractLsb' 0 57 }
  | _ => s

/-- A CSR instruction (R133, R134): `new` gives the value written, if one is. -/
def State.csrOp (s : State) (d : BitVec 5) (c : BitVec 12) (new : Option (Word → Word)) : Out :=
  s.word fun s => Res.committing (
    match s.csr c with
    | none => .trap s.illegal
    | some old =>
      if new.isSome && c.getLsbD 10 then .trap s.illegal
      else if 0x800 ≤ c.toNat ∧ s.hart.priv = .u then .trap s.denied
      else
        let t := match new with | some f => s.setCsr c (f old) | none => s
        .ok (t.setX d old))

/-- csrrw (R133). -/
def execCsrrw (d a : BitVec 5) (c : BitVec 12) (s : State) : Out :=
  let v := s.x a
  s.csrOp d c (some fun _ => v)

/-- csrrs (R133). -/
def execCsrrs (d a : BitVec 5) (c : BitVec 12) (s : State) : Out :=
  let v := s.x a
  s.csrOp d c (if a = 0 then none else some fun old => old ||| v)

/-- csrrc (R133). -/
def execCsrrc (d a : BitVec 5) (c : BitVec 12) (s : State) : Out :=
  let v := s.x a
  s.csrOp d c (if a = 0 then none else some fun old => old &&& ~~~v)

/-! ### The system group -/

/-- A word of the system group that only privilege S may run (R103, R345). -/
def State.super (s : State) (f : State → Res) : Out := s.word fun s => Res.committing (guard s.needS (f s))

/-- The order of the forms on translations and page tables, that of a scalar atomic at DEVICE scope with aq and rl: the hart's earlier
scalar accesses are performed first (R128, R239, R289, and chapter 14 under its Table 6). -/
def State.asRelease (s : State) (k : State → Res) : Res := s.afterWrites (fun w => w.cls == .scalar) true false true k

/-- sys (R313, R334): its convoy retires, and the trap follows. -/
def execSys (a : BitVec 5) (s : State) : Out :=
  s.word fun s => Res.committing (.ok { s with conv := { s.conv with after := some (Trap.plain 0x12 (s.x a)) } })

/-- A field of the Waybill as the hart reads it (R328). -/
def State.waybillNat (s : State) (off n : Nat) : Nat := leNat (s.readBytes .scalar (s.hart.wbase.toNat + off) n)

/-- The type state and the lane count match the Waybill's (R331). -/
def State.matchesWaybill (s : State) : Bool :=
  s.waybillNat 0x0C 4 == s.hart.vl.toNat && s.waybillNat 0x20 8 == s.hart.vtype.toNat &&
    s.waybillNat 0x30 8 % 64 == s.hart.lanes

/-- The suspended convoy that TSTATUS, TCAUSE and p63 name (R331). -/
def Hart.suspension (h : Hart) : Option Resume :=
  if h.resuming then
    some ⟨h.tstatus.extractLsb' 2 4, (h.tcause.extractLsb' 8 2).toNat, h.p[63], false, h.tcause.getLsbD 10⟩
  else none

/-- tret (R331). Without RESUME the convoy at TEPC runs whole, from element 0, so that VSTART is 0 (log entry 24) and no tile buffer is held
(R332). -/
def execTret (s : State) : Out :=
  s.super fun s =>
    let h := s.hart
    if h.resuming && !s.matchesWaybill then .trap s.illegal
    else
      .ok { s with
        hart := { h with
          priv := if h.tstatus.getLsbD 0 then .s else .u
          vstart := if h.resuming then h.vstart else 0
          tstatus := h.tstatus &&& 0x3F
          copyBuf := if h.resuming then h.copyBuf else []
          stash := if h.resuming then h.stash else h.stash.filter fun k => k.1 != h.tepc }
        conv := { s.conv with npc := some h.tepc, cont := h.suspension } }

/-- brk (R334). -/
def execBrk (s : State) : Out := s.word fun _ => Res.committing (.trap (Trap.plain 0x13 0))

/-- What the LFE serves waits on a core: it has named there a group that a victim still holds, or a slot that a hart still has (R303,
R312). -/
def State.waitsOn (s : State) (core : Nat) : Bool :=
  s.named.any (fun k => k / 4 == core && s.groupHeld core (k % 4)) || s.namedSlots.any fun k => k / 4 == core && (s.hartAt k).isSome

/-- The effective priority of what the LFE serves. -/
def State.servedPrio (s : State) : Option Nat := (s.candidates.find? fun c => some c.1 == s.served).map fun c => c.2

/-- park (R312): the hart is to be switched out if a gang or hart of its priority or above waits on its core. -/
def execPark (s : State) : Out :=
  s.word fun s => Res.committing (
    let yields := s.waitsOn s.hart.core && s.servedPrio.any fun p => s.hart.prio.toNat ≤ p
    .ok (if yields then { s with hart := { s.hart with switchReq := true } } else s))

/-- The publications that a predicate names are performed, with those of their harts before them, as far as they can be (R143). -/
def State.settlePubs (s : State) (p : Pub → Bool) : State :=
  (s.pubs.filter fun q => p q && !q.poisoned).foldl (fun (t : State) q =>
    if t.pubs.contains q then State.performPubs (t.pubs.filter fun k => k.gang == q.gang && k.hartix == q.hartix) t else t) s

/-- The writes and the publications of the package that two predicates name are performed before a word goes on, and no other hart is
between two passes of a matrix instruction with a translation that a third one names (R205, R288, R294). What the hart itself holds under
REWIND goes as the word is a commit point (R383). -/
def State.settleAll (s : State) (p : Write → Bool) (q : Pub → Bool) (r : Pin → Bool) (k : State → Res) : Res :=
  let f := s.flushed p
  let t := ((f.1.releaseEverywhere p).drain p).settlePubs q
  if t.wq.any p || t.hart.held.any p || t.others.any (fun h => h.held.any p || h.rheld.any p || h.pass.any fun x => x.pins.any r) ||
      t.ended.any (fun h => h.held.any p) || t.pubs.any fun x => q x && !x.poisoned then
    if f.2 then .hold t .writes else .wait .writes
  else k t

/-- An access was translated with an entry that an invalidation names: by ASID, and by an address (R288). -/
def usedEntry (asid : Option (BitVec 9)) (va : Option Word) (t : BitVec 9 × Word × Nat) : Bool :=
  asid.all (fun k => t.1 == k) && va.all fun a => t.2.1.toNat / 2 ^ t.2.2 == a.toNat / 2 ^ t.2.2

/-- The translation that a page of a matrix instruction was found with. -/
def Pin.tr (k : Pin) : BitVec 9 × Word × Nat := (k.space.extractLsb' 52 9, k.page, k.lg)

/-- tlbinv (R288): it waits for no access but those made with the translations it drops. -/
def execTlbinv (a b : BitVec 5) (s : State) : Out :=
  s.super fun s =>
    let r := s.x b
    let asid := if r.getLsbD 9 then none else some (r.extractLsb' 0 9)
    let va := if r.getLsbD 10 then none else some (s.x a)
    let used := usedEntry asid va
    s.asRelease fun s => s.settleAll (fun w => w.tr.any used) (fun q => q.tr.any used) (fun k => used k.tr) fun s =>
      .ok (s.dropTlb fun t => asid.all (fun k => t.asid == k) && va.all t.maps)

/-- A page fault of a system form on an address. -/
def pageFault (code : BitVec 8) (va : Word) (kind : BitVec 4) : Trap := ⟨code, va, [⟨pageOf va, kind⟩], 0, false, false⟩

/-- ptcinv (R256). DESIGN CHOICE: the entries go at once, whatever permuted writes are on their way (log entry 79). -/
def execPtcinv (a : BitVec 5) (s : State) : Out :=
  s.super fun s =>
    let va := s.x a
    if va = 0 then .ok { s with ptc := s.ptc.filter fun e => e.core != s.hart.core }
    else s.prepare (s.scaMode .read) [⟨0, va, 1⟩] fun s map =>
      let psd := physOf map va
      .ok { s with ptc := s.ptc.filter fun e => e.psd != psd }

/-- A form on the entry of a physical page (R289, R293): tier H and the private drawer partitions have entries. -/
def State.onPage (s : State) (a : BitVec 5) (mask : Word) (f : State → Nat → Res) : Out :=
  s.super fun s =>
    let pa := (s.x a &&& mask).toNat / 65536 * 65536
    if s.privatePage pa then f s pa else .trap (pageFault 0x07 (s.x a) 4)

/-- An atomic on a table in memory consumes the poison of its unit (R357, R358). -/
def State.whenSound (s : State) (pa n : Nat) (k : Res) : Res :=
  match s.poisonAt pa n with
  | some u => .trap (consumed u)
  | none => k

/-- What overlaps some bytes is performed before an atomic on them, which waits for its trunk as any atomic does (R126, R226, R333, R344).
-/
def State.settleAt (s : State) (pa n : Nat) (k : State → Res) : Res :=
  match s.unservedOf false [(pa, n)] with
  | [] => s.settlePieces .scalar [(pa, n)] true true true k
  | ls => s.readStall ls false

/-- pgshare (R289). -/
def execPgshare (a : BitVec 5) (s : State) : Out :=
  s.onPage a (BitVec.allOnes 64) fun s pa => s.asRelease fun s =>
    let prt := s.hart.prtbase.toNat
    s.settleAt (countAt prt pa) 4 fun s => s.whenSound (countAt prt pa) 4 (
      let n := s.pageCount prt pa
      .ok (if n = 0xFFFFFFFF then s else s.setCount prt pa (n + 1)))

/-- pgdrop (R289). -/
def execPgdrop (a : BitVec 5) (s : State) : Out :=
  s.onPage a (BitVec.allOnes 64) fun s pa => s.asRelease fun s =>
    let prt := s.hart.prtbase.toNat
    s.settleAt (countAt prt pa) 4 fun s => s.whenSound (countAt prt pa) 4 (
      let n := s.pageCount prt pa
      if n = 0 ∨ n = 0xFFFFFFFF then .ok s
      else
        let t := s.setCount prt pa (n - 1)
        let list := s.hart.fplist.toNat
        .ok (if n = 1 ∧ list ≠ 0 then t.fpPush list (BitVec.ofNat 64 pa) else t))

/-- pghot (R293). -/
def execPghot (d a : BitVec 5) (s : State) : Out :=
  s.onPage a (BitVec.ofNat 64 (2 ^ 52 - 1)) fun s pa => s.asRelease fun s =>
    let table := s.hart.hotbase.toNat
    let sel := (s.x a).toNat % 4
    if table = 0 then .ok (s.setX d 0)
    else
      let at_ := table + 16 * pageIndex pa
      let ks := if sel = 3 then [0, 1, 2] else [sel]
      s.settleAt at_ 12 fun s => s.whenSound at_ 12 (
        let sum := ks.foldl (fun n k => n + Memory.value s.mem (at_ + 4 * k) 4) 0
        let t := ks.foldl (fun (t : State) k => t.poke (at_ + 4 * k) (leBytes 4 0) 4) s
        .ok (t.setX d (BitVec.ofNat 64 sum)))

/-- A physical page that may receive a moved page (R294). -/
def State.moveTarget (s : State) (pa : Nat) : Bool := s.privatePage pa || regionOf pa == .cxl

/-- pgmove (R294): the hart waits until its move has committed. A stalled copy that was abandoned is its stall fault (R371). -/
def execPgmove (a b : BitVec 5) (s : State) : Out :=
  s.super fun s =>
    let va := s.x a
    let new := (s.x b).toNat
    let begun := match s.hart.status with | .waiting (.move v at_ e n) _ => some (Why.move v at_ e n) | _ => none
    match s.conv.expired with
    | some (.move _ _ e n) => .trap (stalledAt ((s.moveBlocked (ptePa e) n).getD (ptePa e)))
    | _ =>
      match begun with
      | some w => if s.pageMoves.any fun m => m.hart == s.hart.id then .wait w else .ok s
      | none =>
        if new % 65536 ≠ 0 ∨ !s.moveTarget new then .trap (pageFault 0x07 va 4)
        else if !canonical va then .trap (pageFault 0x06 va 2)
        else
          match s.walk s.hart.ptbase va with
          | .bad => .trap (pageFault 0x06 va 1)
          | .denied => .trap (pageFault 0x07 va 4)
          | .poisoned u => .trap (consumed u)
          | .blocked pa => s.readStall [lineOf pa] false
          | .leaf e lg at_ =>
            if lg ≠ 16 ∨ pteSh e then .trap (pageFault 0x07 va 3)
            else if ptePa e = new then .trap (pageFault 0x07 va 4)
            else if pteM e then .wait .otherMove
            else s.asRelease fun s =>
              let old := ptePa e
              s.settleAll (fun w => overlaps old 65536 w.pa w.bytes.length) (fun q => overlaps old 65536 q.pa 8)
                (fun k => overlaps old 65536 k.pa 65536) fun _ => .wait (.move (pageOf va) at_ e new)

/-- mfcmp (R390, R391). -/
def execMfcmp (d a : BitVec 5) (s : State) : Out :=
  s.word fun s => Res.committing (
    let va := s.x a
    if va.toNat % 64 ≠ 0 then .trap (Trap.plain 0x03 va)
    else
      let ts : List Touch := [⟨0, va, 2048⟩]
      s.prepare (s.scaMode .read) ts fun s map => s.scaRead map va 2048 0 fun s bs =>
        let at_ := fun (o n : Nat) => (bs.drop o).take n
        let zero := fun (o n : Nat) => (at_ o n).all fun b => b == 0
        let mask := leNat (at_ 4 4)
        let r : Int :=
          if leNat (at_ 0 4) ≠ 1 ∨ mask % 2 ≠ 0 ∨ 2 ^ 14 ≤ mask ∨ !zero 0x148 0x38 ∨ !zero 0x78C 0x74 then -2
          else
            match s.mbox.keys with
            | none => -3
            | some (e, l) =>
              if !Config.manifestVerifies (at_ 0 0x180) (at_ 0x180 0x60) (at_ 0x1E0 0x5AC) e l then -1
              else
                (((s.manifestFields (some s.hart)).find? fun f => mask / 2 ^ f.1 % 2 == 1 && at_ f.2.1 f.2.2.length != f.2.2).map
                  fun f => (f.1 : Int)).getD 0
        .ok (s.setX d (BitVec.ofInt 64 r)))

/-- halt (R397). -/
def execHalt (s : State) : Out :=
  s.super fun s => s.allPerformed fun s =>
    let t := s.pushEvent 2 s.hart (s.hart.pc + BitVec.ofNat 64 (4 * s.conv.len))
    .ok { t with conv := { t.conv with final := some .halted } }

end Sys2Proof.Machine
end

