-- ==== Sys2Proof/Machine/Words.lean ====
section
/-! DEFINITION. Running the instruction word itself: the fields of R78 to R104 read once more, each row going straight to the meaning
that `exec` gives its instruction, for the code generator builds no constructor of an index above 244 (see Sys2Proof.Decode). -/

namespace Sys2Proof.Machine

/-- An illegal word (R104). -/
def State.badWord (s : State) : Out := s.word fun s => .trap s.illegal

/-- Words of MAJ 1 (R82). -/
def runMaj1 (w : BitVec 32) (s : State) : Out :=
  match (w.extractLsb' 0 11).toNat with
  | 0 => execAdd (w.extractLsb' 21 5) (w.extractLsb' 16 5) (w.extractLsb' 11 5) s
  | 1 => execSub (w.extractLsb' 21 5) (w.extractLsb' 16 5) (w.extractLsb' 11 5) s
  | 2 => execAnd (w.extractLsb' 21 5) (w.extractLsb' 16 5) (w.extractLsb' 11 5) s
  | 3 => execOr (w.extractLsb' 21 5) (w.extractLsb' 16 5) (w.extractLsb' 11 5) s
  | 4 => execXor (w.extractLsb' 21 5) (w.extractLsb' 16 5) (w.extractLsb' 11 5) s
  | 5 => execAndn (w.extractLsb' 21 5) (w.extractLsb' 16 5) (w.extractLsb' 11 5) s
  | 6 => execOrn (w.extractLsb' 21 5) (w.extractLsb' 16 5) (w.extractLsb' 11 5) s
  | 7 => execSll (w.extractLsb' 21 5) (w.extractLsb' 16 5) (w.extractLsb' 11 5) s
  | 8 => execSrl (w.extractLsb' 21 5) (w.extractLsb' 16 5) (w.extractLsb' 11 5) s
  | 9 => execSra (w.extractLsb' 21 5) (w.extractLsb' 16 5) (w.extractLsb' 11 5) s
  | 10 => execRotl (w.extractLsb' 21 5) (w.extractLsb' 16 5) (w.extractLsb' 11 5) s
  | 11 => execRotr (w.extractLsb' 21 5) (w.extractLsb' 16 5) (w.extractLsb' 11 5) s
  | 12 => execSlt (w.extractLsb' 21 5) (w.extractLsb' 16 5) (w.extractLsb' 11 5) s
  | 13 => execSltu (w.extractLsb' 21 5) (w.extractLsb' 16 5) (w.extractLsb' 11 5) s
  | 14 => execMin (w.extractLsb' 21 5) (w.extractLsb' 16 5) (w.extractLsb' 11 5) s
  | 15 => execMax (w.extractLsb' 21 5) (w.extractLsb' 16 5) (w.extractLsb' 11 5) s
  | 16 => execMinu (w.extractLsb' 21 5) (w.extractLsb' 16 5) (w.extractLsb' 11 5) s
  | 17 => execMaxu (w.extractLsb' 21 5) (w.extractLsb' 16 5) (w.extractLsb' 11 5) s
  | 18 => execMul (w.extractLsb' 21 5) (w.extractLsb' 16 5) (w.extractLsb' 11 5) s
  | 19 => execMulh (w.extractLsb' 21 5) (w.extractLsb' 16 5) (w.extractLsb' 11 5) s
  | 20 => execMulhu (w.extractLsb' 21 5) (w.extractLsb' 16 5) (w.extractLsb' 11 5) s
  | 21 => execDiv (w.extractLsb' 21 5) (w.extractLsb' 16 5) (w.extractLsb' 11 5) s
  | 22 => execDivu (w.extractLsb' 21 5) (w.extractLsb' 16 5) (w.extractLsb' 11 5) s
  | 23 => execRem (w.extractLsb' 21 5) (w.extractLsb' 16 5) (w.extractLsb' 11 5) s
  | 24 => execRemu (w.extractLsb' 21 5) (w.extractLsb' 16 5) (w.extractLsb' 11 5) s
  | 25 => if w.extractLsb' 11 5 = 0 then execClz (w.extractLsb' 21 5) (w.extractLsb' 16 5) s else s.badWord
  | 26 => if w.extractLsb' 11 5 = 0 then execCtz (w.extractLsb' 21 5) (w.extractLsb' 16 5) s else s.badWord
  | 27 => if w.extractLsb' 11 5 = 0 then execPopc (w.extractLsb' 21 5) (w.extractLsb' 16 5) s else s.badWord
  | 28 => if w.extractLsb' 11 5 = 0 then execSextb (w.extractLsb' 21 5) (w.extractLsb' 16 5) s else s.badWord
  | 29 => if w.extractLsb' 11 5 = 0 then execSexth (w.extractLsb' 21 5) (w.extractLsb' 16 5) s else s.badWord
  | 30 => if w.extractLsb' 11 5 = 0 then execSextw (w.extractLsb' 21 5) (w.extractLsb' 16 5) s else s.badWord
  | 31 => if w.extractLsb' 11 5 = 0 then execZextw (w.extractLsb' 21 5) (w.extractLsb' 16 5) s else s.badWord
  | _ => s.badWord

/-- Words of MAJ 2 (R82). -/
def runMaj2 (w : BitVec 32) (s : State) : Out :=
  match (w.extractLsb' 13 3).toNat with
  | 0 => execAddi (w.extractLsb' 21 5) (w.extractLsb' 16 5) (w.extractLsb' 0 13) s
  | 1 => execAndi (w.extractLsb' 21 5) (w.extractLsb' 16 5) (w.extractLsb' 0 13) s
  | 2 => execOri (w.extractLsb' 21 5) (w.extractLsb' 16 5) (w.extractLsb' 0 13) s
  | 3 => execXori (w.extractLsb' 21 5) (w.extractLsb' 16 5) (w.extractLsb' 0 13) s
  | 4 => execSlti (w.extractLsb' 21 5) (w.extractLsb' 16 5) (w.extractLsb' 0 13) s
  | 5 => execSltiu (w.extractLsb' 21 5) (w.extractLsb' 16 5) (w.extractLsb' 0 13) s
  | 6 =>
    match (w.extractLsb' 6 2).toNat with
    | 0 => if w.extractLsb' 8 5 = 0 then execSlli (w.extractLsb' 21 5) (w.extractLsb' 16 5) (w.extractLsb' 0 6) s else s.badWord
    | 1 => if w.extractLsb' 8 5 = 0 then execSrli (w.extractLsb' 21 5) (w.extractLsb' 16 5) (w.extractLsb' 0 6) s else s.badWord
    | 2 => if w.extractLsb' 8 5 = 0 then execSrai (w.extractLsb' 21 5) (w.extractLsb' 16 5) (w.extractLsb' 0 6) s else s.badWord
    | _ => s.badWord
  | 7 => execMuli (w.extractLsb' 21 5) (w.extractLsb' 16 5) (w.extractLsb' 0 13) s
  | _ => s.badWord

/-- Words of MAJ 3 (R82). -/
def runMaj3 (w : BitVec 32) (s : State) : Out :=
  match (w.extractLsb' 20 1).toNat with
  | 0 => execMovi (w.extractLsb' 21 5) (w.extractLsb' 0 20) s
  | 1 => execMovh (w.extractLsb' 21 5) (w.extractLsb' 0 20) s
  | _ => s.badWord

/-- Words of MAJ 4 (R82). -/
def runMaj4 (w : BitVec 32) (s : State) : Out :=
  execSmb (w.extractLsb' 21 5) (w.extractLsb' 18 3) (w.extractLsb' 15 3) (w.extractLsb' 12 3) (w.extractLsb' 9 3)
        (w.extractLsb' 1 8) (w.extractLsb' 0 1) s

/-- Words of MAJ 5 (R82). -/
def runMaj5 (w : BitVec 32) (s : State) : Out :=
  match (w.extractLsb' 13 3).toNat with
  | 0 => execBeq (w.extractLsb' 21 5) (w.extractLsb' 16 5) (w.extractLsb' 0 13) s
  | 1 => execBne (w.extractLsb' 21 5) (w.extractLsb' 16 5) (w.extractLsb' 0 13) s
  | 2 => execBlt (w.extractLsb' 21 5) (w.extractLsb' 16 5) (w.extractLsb' 0 13) s
  | 3 => execBge (w.extractLsb' 21 5) (w.extractLsb' 16 5) (w.extractLsb' 0 13) s
  | 4 => execBltu (w.extractLsb' 21 5) (w.extractLsb' 16 5) (w.extractLsb' 0 13) s
  | 5 => execBgeu (w.extractLsb' 21 5) (w.extractLsb' 16 5) (w.extractLsb' 0 13) s
  | _ => s.badWord

/-- Words of MAJ 6 (R82). -/
def runMaj6 (w : BitVec 32) (s : State) : Out :=
  execJal (w.extractLsb' 21 5) (w.extractLsb' 0 21) s

/-- Words of MAJ 7 (R82). -/
def runMaj7 (w : BitVec 32) (s : State) : Out :=
  match (w.extractLsb' 13 3).toNat with
  | 0 => execJalr (w.extractLsb' 21 5) (w.extractLsb' 16 5) (w.extractLsb' 0 13) s
  | _ => s.badWord

/-- Words of MAJ 8 (R82). -/
def runMaj8 (w : BitVec 32) (s : State) : Out :=
  match (w.extractLsb' 13 3).toNat with
  | 0 => if w.extractLsb' 10 1 = 0 then (if hintOk (w.extractLsb' 11 2) then execLb (w.extractLsb' 21 5) (w.extractLsb' 16 5)
      (w.extractLsb' 11 2) (w.extractLsb' 0 10) s else s.badWord) else s.badWord
  | 1 => if w.extractLsb' 10 1 = 0 then (if hintOk (w.extractLsb' 11 2) then execLbu (w.extractLsb' 21 5) (w.extractLsb' 16
      5) (w.extractLsb' 11 2) (w.extractLsb' 0 10) s else s.badWord) else s.badWord
  | 2 => if w.extractLsb' 10 1 = 0 then (if hintOk (w.extractLsb' 11 2) then execLh (w.extractLsb' 21 5) (w.extractLsb' 16 5)
      (w.extractLsb' 11 2) (w.extractLsb' 0 10) s else s.badWord) else s.badWord
  | 3 => if w.extractLsb' 10 1 = 0 then (if hintOk (w.extractLsb' 11 2) then execLhu (w.extractLsb' 21 5) (w.extractLsb' 16
      5) (w.extractLsb' 11 2) (w.extractLsb' 0 10) s else s.badWord) else s.badWord
  | 4 => if w.extractLsb' 10 1 = 0 then (if hintOk (w.extractLsb' 11 2) then execLw (w.extractLsb' 21 5) (w.extractLsb' 16 5)
      (w.extractLsb' 11 2) (w.extractLsb' 0 10) s else s.badWord) else s.badWord
  | 5 => if w.extractLsb' 10 1 = 0 then (if hintOk (w.extractLsb' 11 2) then execLwu (w.extractLsb' 21 5) (w.extractLsb' 16
      5) (w.extractLsb' 11 2) (w.extractLsb' 0 10) s else s.badWord) else s.badWord
  | 6 => (if hintOk (w.extractLsb' 11 2) then execLd (w.extractLsb' 21 5) (w.extractLsb' 16 5) (w.extractLsb' 11 2)
      (w.extractLsb' 10 1) (w.extractLsb' 0 10) s else s.badWord)
  | 7 => (if hintOk (w.extractLsb' 11 2) && !(w.extractLsb' 21 5).getLsbD 0 then execLdp (w.extractLsb' 21 5) (w.extractLsb'
      16 5) (w.extractLsb' 11 2) (w.extractLsb' 10 1) (w.extractLsb' 0 10) s else s.badWord)
  | _ => s.badWord

/-- Words of MAJ 9 (R82). -/
def runMaj9 (w : BitVec 32) (s : State) : Out :=
  match (w.extractLsb' 13 3).toNat with
  | 0 => if w.extractLsb' 10 1 = 0 then (if hintOk (w.extractLsb' 11 2) then execSb (w.extractLsb' 21 5) (w.extractLsb' 16 5)
      (w.extractLsb' 11 2) (w.extractLsb' 0 10) s else s.badWord) else s.badWord
  | 1 => if w.extractLsb' 10 1 = 0 then (if hintOk (w.extractLsb' 11 2) then execSh (w.extractLsb' 21 5) (w.extractLsb' 16 5)
      (w.extractLsb' 11 2) (w.extractLsb' 0 10) s else s.badWord) else s.badWord
  | 2 => if w.extractLsb' 10 1 = 0 then (if hintOk (w.extractLsb' 11 2) then execSw (w.extractLsb' 21 5) (w.extractLsb' 16 5)
      (w.extractLsb' 11 2) (w.extractLsb' 0 10) s else s.badWord) else s.badWord
  | 3 => (if hintOk (w.extractLsb' 11 2) then execSd (w.extractLsb' 21 5) (w.extractLsb' 16 5) (w.extractLsb' 11 2)
      (w.extractLsb' 10 1) (w.extractLsb' 0 10) s else s.badWord)
  | 4 => (if hintOk (w.extractLsb' 11 2) && !(w.extractLsb' 21 5).getLsbD 0 then execSdp (w.extractLsb' 21 5) (w.extractLsb'
      16 5) (w.extractLsb' 11 2) (w.extractLsb' 10 1) (w.extractLsb' 0 10) s else s.badWord)
  | _ => s.badWord

/-- Words of MAJ 10 (R82). -/
def runMaj10 (w : BitVec 32) (s : State) : Out :=
  match (w.extractLsb' 7 4).toNat with
  | 0 => if w.extractLsb' 0 1 = 0 then (if pairOk (w.extractLsb' 3 1) (w.extractLsb' 21 5) then execAadd (w.extractLsb' 21 5)
      (w.extractLsb' 16 5) (w.extractLsb' 11 5) (w.extractLsb' 6 1) (w.extractLsb' 5 1) (w.extractLsb' 4 1) (w.extractLsb' 3
      1) (w.extractLsb' 1 2) s else s.badWord) else s.badWord
  | 1 => if w.extractLsb' 0 1 = 0 then (if pairOk (w.extractLsb' 3 1) (w.extractLsb' 21 5) then execAand (w.extractLsb' 21 5)
      (w.extractLsb' 16 5) (w.extractLsb' 11 5) (w.extractLsb' 6 1) (w.extractLsb' 5 1) (w.extractLsb' 4 1) (w.extractLsb' 3
      1) (w.extractLsb' 1 2) s else s.badWord) else s.badWord
  | 2 => if w.extractLsb' 0 1 = 0 then (if pairOk (w.extractLsb' 3 1) (w.extractLsb' 21 5) then execAor (w.extractLsb' 21 5)
      (w.extractLsb' 16 5) (w.extractLsb' 11 5) (w.extractLsb' 6 1) (w.extractLsb' 5 1) (w.extractLsb' 4 1) (w.extractLsb' 3
      1) (w.extractLsb' 1 2) s else s.badWord) else s.badWord
  | 3 => if w.extractLsb' 0 1 = 0 then (if pairOk (w.extractLsb' 3 1) (w.extractLsb' 21 5) then execAxor (w.extractLsb' 21 5)
      (w.extractLsb' 16 5) (w.extractLsb' 11 5) (w.extractLsb' 6 1) (w.extractLsb' 5 1) (w.extractLsb' 4 1) (w.extractLsb' 3
      1) (w.extractLsb' 1 2) s else s.badWord) else s.badWord
  | 4 => if w.extractLsb' 0 1 = 0 then (if pairOk (w.extractLsb' 3 1) (w.extractLsb' 21 5) then execAmin (w.extractLsb' 21 5)
      (w.extractLsb' 16 5) (w.extractLsb' 11 5) (w.extractLsb' 6 1) (w.extractLsb' 5 1) (w.extractLsb' 4 1) (w.extractLsb' 3
      1) (w.extractLsb' 1 2) s else s.badWord) else s.badWord
  | 5 => if w.extractLsb' 0 1 = 0 then (if pairOk (w.extractLsb' 3 1) (w.extractLsb' 21 5) then execAmax (w.extractLsb' 21 5)
      (w.extractLsb' 16 5) (w.extractLsb' 11 5) (w.extractLsb' 6 1) (w.extractLsb' 5 1) (w.extractLsb' 4 1) (w.extractLsb' 3
      1) (w.extractLsb' 1 2) s else s.badWord) else s.badWord
  | 6 => if w.extractLsb' 0 1 = 0 then (if pairOk (w.extractLsb' 3 1) (w.extractLsb' 21 5) then execAminu (w.extractLsb' 21
      5) (w.extractLsb' 16 5) (w.extractLsb' 11 5) (w.extractLsb' 6 1) (w.extractLsb' 5 1) (w.extractLsb' 4 1) (w.extractLsb'
      3 1) (w.extractLsb' 1 2) s else s.badWord) else s.badWord
  | 7 => if w.extractLsb' 0 1 = 0 then (if pairOk (w.extractLsb' 3 1) (w.extractLsb' 21 5) then execAmaxu (w.extractLsb' 21
      5) (w.extractLsb' 16 5) (w.extractLsb' 11 5) (w.extractLsb' 6 1) (w.extractLsb' 5 1) (w.extractLsb' 4 1) (w.extractLsb'
      3 1) (w.extractLsb' 1 2) s else s.badWord) else s.badWord
  | 8 => if w.extractLsb' 0 1 = 0 then (if pairOk (w.extractLsb' 3 1) (w.extractLsb' 21 5) then execAswap (w.extractLsb' 21
      5) (w.extractLsb' 16 5) (w.extractLsb' 11 5) (w.extractLsb' 6 1) (w.extractLsb' 5 1) (w.extractLsb' 4 1) (w.extractLsb'
      3 1) (w.extractLsb' 1 2) s else s.badWord) else s.badWord
  | 9 => if w.extractLsb' 0 1 = 0 then (if pairOk (w.extractLsb' 3 1) (w.extractLsb' 21 5) then execAcas (w.extractLsb' 21 5)
      (w.extractLsb' 16 5) (w.extractLsb' 11 5) (w.extractLsb' 6 1) (w.extractLsb' 5 1) (w.extractLsb' 4 1) (w.extractLsb' 3
      1) (w.extractLsb' 1 2) s else s.badWord) else s.badWord
  | 10 => if w.extractLsb' 11 5 = 0 ∧ w.extractLsb' 5 1 = 0 ∧ w.extractLsb' 0 1 = 0 then (if pairOk (w.extractLsb' 3 1)
      (w.extractLsb' 21 5) then execAld (w.extractLsb' 21 5) (w.extractLsb' 16 5) (w.extractLsb' 6 1) (w.extractLsb' 4 1)
      (w.extractLsb' 3 1) (w.extractLsb' 1 2) s else s.badWord) else s.badWord
  | 11 => if w.extractLsb' 21 5 = 0 ∧ w.extractLsb' 6 1 = 0 ∧ w.extractLsb' 3 1 = 0 ∧ w.extractLsb' 0 1 = 0 then execAst
      (w.extractLsb' 16 5) (w.extractLsb' 11 5) (w.extractLsb' 5 1) (w.extractLsb' 4 1) (w.extractLsb' 1 2) s else s.badWord
  | _ => s.badWord

/-- Words of MAJ 11 (R82). -/
def runMaj11 (w : BitVec 32) (s : State) : Out :=
  match (w.extractLsb' 13 3).toNat with
  | 0 => if w.extractLsb' 16 10 = 0 ∧ w.extractLsb' 0 7 = 0 then (if (w.extractLsb' 9 4) != 0 then execFence (w.extractLsb' 9
      4) (w.extractLsb' 7 2) s else s.badWord) else s.badWord
  | 1 => if w.extractLsb' 16 10 = 0 ∧ w.extractLsb' 0 7 = 0 then (if (w.extractLsb' 9 4) != 0 then execFenceSv (w.extractLsb'
      9 4) (w.extractLsb' 7 2) s else s.badWord) else s.badWord
  | 2 => if w.extractLsb' 16 10 = 0 ∧ w.extractLsb' 0 7 = 0 then (if (w.extractLsb' 9 4) != 0 then execFenceVs (w.extractLsb'
      9 4) (w.extractLsb' 7 2) s else s.badWord) else s.badWord
  | 3 => if w.extractLsb' 16 10 = 0 ∧ w.extractLsb' 9 4 = 0 ∧ w.extractLsb' 0 7 = 0 then execFenceW (w.extractLsb' 7 2) s
      else s.badWord
  | 4 => if w.extractLsb' 16 10 = 0 ∧ w.extractLsb' 0 13 = 0 then execFenceI s else s.badWord
  | _ => s.badWord

/-- Words of MAJ 12 (R82). -/
def runMaj12 (w : BitVec 32) (s : State) : Out :=
  match (w.extractLsb' 13 3).toNat with
  | 0 => (if Sys2Proof.vtypeOk (w.extractLsb' 0 13) then execVsetvli (w.extractLsb' 21 5) (w.extractLsb' 16 5) (w.extractLsb'
      0 13) s else s.badWord)
  | 1 => if w.extractLsb' 5 8 = 0 then execVsetvl (w.extractLsb' 21 5) (w.extractLsb' 16 5) (w.extractLsb' 0 5) s else s.badWord
  | 2 => (if Sys2Proof.vtypeOk (w.extractLsb' 0 13) then execVsetvlw (w.extractLsb' 21 5) (w.extractLsb' 16 5) (w.extractLsb'
      0 13) s else s.badWord)
  | 3 => if w.extractLsb' 16 10 = 0 ∧ w.extractLsb' 0 13 = 0 then execVrel s else s.badWord
  | _ => s.badWord

/-- Words of MAJ 13 (R82). -/
def runMaj13 (w : BitVec 32) (s : State) : Out :=
  match (w.extractLsb' 0 4).toNat with
  | 0 => execVaddVV (w.extractLsb' 21 5) (w.extractLsb' 16 5) (w.extractLsb' 11 5) (w.extractLsb' 7 4) (w.extractLsb' 4 3) s
  | 1 => execVsubVV (w.extractLsb' 21 5) (w.extractLsb' 16 5) (w.extractLsb' 11 5) (w.extractLsb' 7 4) (w.extractLsb' 4 3) s
  | 2 => execVsaddVV (w.extractLsb' 21 5) (w.extractLsb' 16 5) (w.extractLsb' 11 5) (w.extractLsb' 7 4) (w.extractLsb' 4 3) s
  | 3 => execVssubVV (w.extractLsb' 21 5) (w.extractLsb' 16 5) (w.extractLsb' 11 5) (w.extractLsb' 7 4) (w.extractLsb' 4 3) s
  | 4 => execVmulVV (w.extractLsb' 21 5) (w.extractLsb' 16 5) (w.extractLsb' 11 5) (w.extractLsb' 7 4) (w.extractLsb' 4 3) s
  | 5 => execVmulhVV (w.extractLsb' 21 5) (w.extractLsb' 16 5) (w.extractLsb' 11 5) (w.extractLsb' 7 4) (w.extractLsb' 4 3) s
  | 6 => execVandVV (w.extractLsb' 21 5) (w.extractLsb' 16 5) (w.extractLsb' 11 5) (w.extractLsb' 7 4) (w.extractLsb' 4 3) s
  | 7 => execVorVV (w.extractLsb' 21 5) (w.extractLsb' 16 5) (w.extractLsb' 11 5) (w.extractLsb' 7 4) (w.extractLsb' 4 3) s
  | 8 => execVxorVV (w.extractLsb' 21 5) (w.extractLsb' 16 5) (w.extractLsb' 11 5) (w.extractLsb' 7 4) (w.extractLsb' 4 3) s
  | 9 => execVsllVV (w.extractLsb' 21 5) (w.extractLsb' 16 5) (w.extractLsb' 11 5) (w.extractLsb' 7 4) (w.extractLsb' 4 3) s
  | 10 => execVsrlVV (w.extractLsb' 21 5) (w.extractLsb' 16 5) (w.extractLsb' 11 5) (w.extractLsb' 7 4) (w.extractLsb' 4 3) s
  | 11 => execVsraVV (w.extractLsb' 21 5) (w.extractLsb' 16 5) (w.extractLsb' 11 5) (w.extractLsb' 7 4) (w.extractLsb' 4 3) s
  | 12 => execVminVV (w.extractLsb' 21 5) (w.extractLsb' 16 5) (w.extractLsb' 11 5) (w.extractLsb' 7 4) (w.extractLsb' 4 3) s
  | 13 => execVmaxVV (w.extractLsb' 21 5) (w.extractLsb' 16 5) (w.extractLsb' 11 5) (w.extractLsb' 7 4) (w.extractLsb' 4 3) s
  | 14 => execVminuVV (w.extractLsb' 21 5) (w.extractLsb' 16 5) (w.extractLsb' 11 5) (w.extractLsb' 7 4) (w.extractLsb' 4 3) s
  | 15 => execVmaxuVV (w.extractLsb' 21 5) (w.extractLsb' 16 5) (w.extractLsb' 11 5) (w.extractLsb' 7 4) (w.extractLsb' 4 3) s
  | _ => s.badWord

/-- Words of MAJ 14 (R82). -/
def runMaj14 (w : BitVec 32) (s : State) : Out :=
  match (w.extractLsb' 0 4).toNat with
  | 0 => execVaddVX (w.extractLsb' 21 5) (w.extractLsb' 16 5) (w.extractLsb' 11 5) (w.extractLsb' 7 4) (w.extractLsb' 4 3) s
  | 1 => execVsubVX (w.extractLsb' 21 5) (w.extractLsb' 16 5) (w.extractLsb' 11 5) (w.extractLsb' 7 4) (w.extractLsb' 4 3) s
  | 2 => execVsaddVX (w.extractLsb' 21 5) (w.extractLsb' 16 5) (w.extractLsb' 11 5) (w.extractLsb' 7 4) (w.extractLsb' 4 3) s
  | 3 => execVssubVX (w.extractLsb' 21 5) (w.extractLsb' 16 5) (w.extractLsb' 11 5) (w.extractLsb' 7 4) (w.extractLsb' 4 3) s
  | 4 => execVmulVX (w.extractLsb' 21 5) (w.extractLsb' 16 5) (w.extractLsb' 11 5) (w.extractLsb' 7 4) (w.extractLsb' 4 3) s
  | 5 => execVmulhVX (w.extractLsb' 21 5) (w.extractLsb' 16 5) (w.extractLsb' 11 5) (w.extractLsb' 7 4) (w.extractLsb' 4 3) s
  | 6 => execVandVX (w.extractLsb' 21 5) (w.extractLsb' 16 5) (w.extractLsb' 11 5) (w.extractLsb' 7 4) (w.extractLsb' 4 3) s
  | 7 => execVorVX (w.extractLsb' 21 5) (w.extractLsb' 16 5) (w.extractLsb' 11 5) (w.extractLsb' 7 4) (w.extractLsb' 4 3) s
  | 8 => execVxorVX (w.extractLsb' 21 5) (w.extractLsb' 16 5) (w.extractLsb' 11 5) (w.extractLsb' 7 4) (w.extractLsb' 4 3) s
  | 9 => execVsllVX (w.extractLsb' 21 5) (w.extractLsb' 16 5) (w.extractLsb' 11 5) (w.extractLsb' 7 4) (w.extractLsb' 4 3) s
  | 10 => execVsrlVX (w.extractLsb' 21 5) (w.extractLsb' 16 5) (w.extractLsb' 11 5) (w.extractLsb' 7 4) (w.extractLsb' 4 3) s
  | 11 => execVsraVX (w.extractLsb' 21 5) (w.extractLsb' 16 5) (w.extractLsb' 11 5) (w.extractLsb' 7 4) (w.extractLsb' 4 3) s
  | 12 => execVminVX (w.extractLsb' 21 5) (w.extractLsb' 16 5) (w.extractLsb' 11 5) (w.extractLsb' 7 4) (w.extractLsb' 4 3) s
  | 13 => execVmaxVX (w.extractLsb' 21 5) (w.extractLsb' 16 5) (w.extractLsb' 11 5) (w.extractLsb' 7 4) (w.extractLsb' 4 3) s
  | 14 => execVminuVX (w.extractLsb' 21 5) (w.extractLsb' 16 5) (w.extractLsb' 11 5) (w.extractLsb' 7 4) (w.extractLsb' 4 3) s
  | 15 => execVmaxuVX (w.extractLsb' 21 5) (w.extractLsb' 16 5) (w.extractLsb' 11 5) (w.extractLsb' 7 4) (w.extractLsb' 4 3) s
  | _ => s.badWord

/-- Words of MAJ 15 (R82). -/
def runMaj15 (w : BitVec 32) (s : State) : Out :=
  match (w.extractLsb' 0 4).toNat with
  | 0 => execVaddi (w.extractLsb' 21 5) (w.extractLsb' 16 5) (w.extractLsb' 12 4) (w.extractLsb' 4 8) s
  | 1 => execVandi (w.extractLsb' 21 5) (w.extractLsb' 16 5) (w.extractLsb' 12 4) (w.extractLsb' 4 8) s
  | 2 => execVori (w.extractLsb' 21 5) (w.extractLsb' 16 5) (w.extractLsb' 12 4) (w.extractLsb' 4 8) s
  | 3 => execVxori (w.extractLsb' 21 5) (w.extractLsb' 16 5) (w.extractLsb' 12 4) (w.extractLsb' 4 8) s
  | 4 => execVslli (w.extractLsb' 21 5) (w.extractLsb' 16 5) (w.extractLsb' 12 4) (w.extractLsb' 4 8) s
  | 5 => execVsrli (w.extractLsb' 21 5) (w.extractLsb' 16 5) (w.extractLsb' 12 4) (w.extractLsb' 4 8) s
  | 6 => execVsrai (w.extractLsb' 21 5) (w.extractLsb' 16 5) (w.extractLsb' 12 4) (w.extractLsb' 4 8) s
  | 7 => execVrsubi (w.extractLsb' 21 5) (w.extractLsb' 16 5) (w.extractLsb' 12 4) (w.extractLsb' 4 8) s
  | 8 => execVmini (w.extractLsb' 21 5) (w.extractLsb' 16 5) (w.extractLsb' 12 4) (w.extractLsb' 4 8) s
  | 9 => execVmaxi (w.extractLsb' 21 5) (w.extractLsb' 16 5) (w.extractLsb' 12 4) (w.extractLsb' 4 8) s
  | 10 => if w.extractLsb' 16 5 = 0 then execVmvi (w.extractLsb' 21 5) (w.extractLsb' 12 4) (w.extractLsb' 4 8) s else s.badWord
  | 11 => execVmixi (w.extractLsb' 21 5) (w.extractLsb' 16 5) (w.extractLsb' 12 4) (w.extractLsb' 4 8) s
  | _ => s.badWord

/-- Words of MAJ 16 (R82). -/
def runMaj16 (w : BitVec 32) (s : State) : Out :=
  match (w.extractLsb' 0 4).toNat with
  | 0 => execVfadd (w.extractLsb' 21 5) (w.extractLsb' 16 5) (w.extractLsb' 11 5) (w.extractLsb' 7 4) (w.extractLsb' 4 3) s
  | 1 => execVfsub (w.extractLsb' 21 5) (w.extractLsb' 16 5) (w.extractLsb' 11 5) (w.extractLsb' 7 4) (w.extractLsb' 4 3) s
  | 2 => execVfmul (w.extractLsb' 21 5) (w.extractLsb' 16 5) (w.extractLsb' 11 5) (w.extractLsb' 7 4) (w.extractLsb' 4 3) s
  | 3 => execVfdiv (w.extractLsb' 21 5) (w.extractLsb' 16 5) (w.extractLsb' 11 5) (w.extractLsb' 7 4) (w.extractLsb' 4 3) s
  | 4 => execVfmac (w.extractLsb' 21 5) (w.extractLsb' 16 5) (w.extractLsb' 11 5) (w.extractLsb' 7 4) (w.extractLsb' 4 3) s
  | 5 => execVfnmac (w.extractLsb' 21 5) (w.extractLsb' 16 5) (w.extractLsb' 11 5) (w.extractLsb' 7 4) (w.extractLsb' 4 3) s
  | 6 => execVfmin (w.extractLsb' 21 5) (w.extractLsb' 16 5) (w.extractLsb' 11 5) (w.extractLsb' 7 4) (w.extractLsb' 4 3) s
  | 7 => execVfmax (w.extractLsb' 21 5) (w.extractLsb' 16 5) (w.extractLsb' 11 5) (w.extractLsb' 7 4) (w.extractLsb' 4 3) s
  | 8 => if w.extractLsb' 16 5 = 0 then execVfsqrt (w.extractLsb' 21 5) (w.extractLsb' 11 5) (w.extractLsb' 7 4)
      (w.extractLsb' 4 3) s else s.badWord
  | 9 => if w.extractLsb' 16 5 = 0 then execVfcvt (w.extractLsb' 21 5) (w.extractLsb' 11 5) (w.extractLsb' 7 4)
      (w.extractLsb' 4 3) s else s.badWord
  | 10 => if w.extractLsb' 16 5 = 0 then execVfabs (w.extractLsb' 21 5) (w.extractLsb' 11 5) (w.extractLsb' 7 4)
      (w.extractLsb' 4 3) s else s.badWord
  | 11 => if w.extractLsb' 16 5 = 0 then execVfneg (w.extractLsb' 21 5) (w.extractLsb' 11 5) (w.extractLsb' 7 4)
      (w.extractLsb' 4 3) s else s.badWord
  | 12 => execVfsgnj (w.extractLsb' 21 5) (w.extractLsb' 16 5) (w.extractLsb' 11 5) (w.extractLsb' 7 4) (w.extractLsb' 4 3) s
  | 13 => if w.extractLsb' 16 5 = 0 then execVfclass (w.extractLsb' 21 5) (w.extractLsb' 11 5) (w.extractLsb' 7 4)
      (w.extractLsb' 4 3) s else s.badWord
  | _ => s.badWord

/-- Words of MAJ 17 (R82). -/
def runMaj17 (w : BitVec 32) (s : State) : Out :=
  match (w.extractLsb' 0 4).toNat with
  | 0 => execVfaddVX (w.extractLsb' 21 5) (w.extractLsb' 16 5) (w.extractLsb' 11 5) (w.extractLsb' 7 4) (w.extractLsb' 4 3) s
  | 1 => execVfsubVX (w.extractLsb' 21 5) (w.extractLsb' 16 5) (w.extractLsb' 11 5) (w.extractLsb' 7 4) (w.extractLsb' 4 3) s
  | 2 => execVfmulVX (w.extractLsb' 21 5) (w.extractLsb' 16 5) (w.extractLsb' 11 5) (w.extractLsb' 7 4) (w.extractLsb' 4 3) s
  | 3 => execVfmacVX (w.extractLsb' 21 5) (w.extractLsb' 16 5) (w.extractLsb' 11 5) (w.extractLsb' 7 4) (w.extractLsb' 4 3) s
  | 4 => execVfminVX (w.extractLsb' 21 5) (w.extractLsb' 16 5) (w.extractLsb' 11 5) (w.extractLsb' 7 4) (w.extractLsb' 4 3) s
  | 5 => execVfmaxVX (w.extractLsb' 21 5) (w.extractLsb' 16 5) (w.extractLsb' 11 5) (w.extractLsb' 7 4) (w.extractLsb' 4 3) s
  | 6 => execVfrsubVX (w.extractLsb' 21 5) (w.extractLsb' 16 5) (w.extractLsb' 11 5) (w.extractLsb' 7 4) (w.extractLsb' 4 3) s
  | 7 => execVfrdivVX (w.extractLsb' 21 5) (w.extractLsb' 16 5) (w.extractLsb' 11 5) (w.extractLsb' 7 4) (w.extractLsb' 4 3) s
  | _ => s.badWord

/-- Words of MAJ 18 (R82). -/
def runMaj18 (w : BitVec 32) (s : State) : Out :=
  match (w.extractLsb' 0 7).toNat with
  | 0 => execVcmpeq (w.extractLsb' 21 5) (w.extractLsb' 16 5) (w.extractLsb' 11 5) (w.extractLsb' 7 4) s
  | 1 => execVcmpne (w.extractLsb' 21 5) (w.extractLsb' 16 5) (w.extractLsb' 11 5) (w.extractLsb' 7 4) s
  | 2 => execVcmplt (w.extractLsb' 21 5) (w.extractLsb' 16 5) (w.extractLsb' 11 5) (w.extractLsb' 7 4) s
  | 3 => execVcmpltu (w.extractLsb' 21 5) (w.extractLsb' 16 5) (w.extractLsb' 11 5) (w.extractLsb' 7 4) s
  | 4 => execVcmple (w.extractLsb' 21 5) (w.extractLsb' 16 5) (w.extractLsb' 11 5) (w.extractLsb' 7 4) s
  | 5 => execVcmpleu (w.extractLsb' 21 5) (w.extractLsb' 16 5) (w.extractLsb' 11 5) (w.extractLsb' 7 4) s
  | 6 => execVfcmpeq (w.extractLsb' 21 5) (w.extractLsb' 16 5) (w.extractLsb' 11 5) (w.extractLsb' 7 4) s
  | 7 => execVfcmplt (w.extractLsb' 21 5) (w.extractLsb' 16 5) (w.extractLsb' 11 5) (w.extractLsb' 7 4) s
  | 8 => execVfcmple (w.extractLsb' 21 5) (w.extractLsb' 16 5) (w.extractLsb' 11 5) (w.extractLsb' 7 4) s
  | 9 => execVfcmpun (w.extractLsb' 21 5) (w.extractLsb' 16 5) (w.extractLsb' 11 5) (w.extractLsb' 7 4) s
  | 16 => execVredsum (w.extractLsb' 21 5) (w.extractLsb' 16 5) (w.extractLsb' 11 5) (w.extractLsb' 7 4) s
  | 17 => execVredmin (w.extractLsb' 21 5) (w.extractLsb' 16 5) (w.extractLsb' 11 5) (w.extractLsb' 7 4) s
  | 18 => execVredmax (w.extractLsb' 21 5) (w.extractLsb' 16 5) (w.extractLsb' 11 5) (w.extractLsb' 7 4) s
  | 19 => execVredminu (w.extractLsb' 21 5) (w.extractLsb' 16 5) (w.extractLsb' 11 5) (w.extractLsb' 7 4) s
  | 20 => execVredmaxu (w.extractLsb' 21 5) (w.extractLsb' 16 5) (w.extractLsb' 11 5) (w.extractLsb' 7 4) s
  | 21 => execVredand (w.extractLsb' 21 5) (w.extractLsb' 16 5) (w.extractLsb' 11 5) (w.extractLsb' 7 4) s
  | 22 => execVredor (w.extractLsb' 21 5) (w.extractLsb' 16 5) (w.extractLsb' 11 5) (w.extractLsb' 7 4) s
  | 23 => execVredxor (w.extractLsb' 21 5) (w.extractLsb' 16 5) (w.extractLsb' 11 5) (w.extractLsb' 7 4) s
  | 24 => execVfredsum (w.extractLsb' 21 5) (w.extractLsb' 16 5) (w.extractLsb' 11 5) (w.extractLsb' 7 4) s
  | 25 => execVfredmin (w.extractLsb' 21 5) (w.extractLsb' 16 5) (w.extractLsb' 11 5) (w.extractLsb' 7 4) s
  | 26 => execVfredmax (w.extractLsb' 21 5) (w.extractLsb' 16 5) (w.extractLsb' 11 5) (w.extractLsb' 7 4) s
  | 32 => execVperm (w.extractLsb' 21 5) (w.extractLsb' 16 5) (w.extractLsb' 11 5) (w.extractLsb' 7 4) s
  | 33 => execVslideup (w.extractLsb' 21 5) (w.extractLsb' 16 5) (w.extractLsb' 11 5) (w.extractLsb' 7 4) s
  | 34 => execVslidedown (w.extractLsb' 21 5) (w.extractLsb' 16 5) (w.extractLsb' 11 5) (w.extractLsb' 7 4) s
  | 35 => if w.extractLsb' 16 5 = 0 then execVcompress (w.extractLsb' 21 5) (w.extractLsb' 11 5) (w.extractLsb' 7 4) s else
      s.badWord
  | 36 => if w.extractLsb' 16 5 = 0 then execVexpand (w.extractLsb' 21 5) (w.extractLsb' 11 5) (w.extractLsb' 7 4) s else
      s.badWord
  | 37 => if w.extractLsb' 11 10 = 0 then execVid (w.extractLsb' 21 5) (w.extractLsb' 7 4) s else s.badWord
  | 38 => if w.extractLsb' 11 5 = 0 then execVsplat (w.extractLsb' 21 5) (w.extractLsb' 16 5) (w.extractLsb' 7 4) s else s.badWord
  | 39 => if w.extractLsb' 7 4 = 0 then execVext (w.extractLsb' 21 5) (w.extractLsb' 16 5) (w.extractLsb' 11 5) s else s.badWord
  | 40 => if w.extractLsb' 7 4 = 0 then execVins (w.extractLsb' 21 5) (w.extractLsb' 16 5) (w.extractLsb' 11 5) s else s.badWord
  | 41 => if w.extractLsb' 16 5 = 0 then execVmv (w.extractLsb' 21 5) (w.extractLsb' 11 5) (w.extractLsb' 7 4) s else s.badWord
  | 42 => execVmix (w.extractLsb' 21 5) (w.extractLsb' 16 5) (w.extractLsb' 11 5) (w.extractLsb' 7 4) s
  | _ => s.badWord

/-- Words of MAJ 19 (R82). -/
def runMaj19 (w : BitVec 32) (s : State) : Out :=
  match (w.extractLsb' 0 8).toNat with
  | 0 => execPand (w.extractLsb' 20 6) (w.extractLsb' 14 6) (w.extractLsb' 8 6) s
  | 1 => execPor (w.extractLsb' 20 6) (w.extractLsb' 14 6) (w.extractLsb' 8 6) s
  | 2 => execPxor (w.extractLsb' 20 6) (w.extractLsb' 14 6) (w.extractLsb' 8 6) s
  | 3 => execPandn (w.extractLsb' 20 6) (w.extractLsb' 14 6) (w.extractLsb' 8 6) s
  | 4 => if w.extractLsb' 8 6 = 0 then execPnot (w.extractLsb' 20 6) (w.extractLsb' 14 6) s else s.badWord
  | 5 => if w.extractLsb' 8 12 = 0 then execPset (w.extractLsb' 20 6) s else s.badWord
  | 6 => if w.extractLsb' 8 12 = 0 then execPclr (w.extractLsb' 20 6) s else s.badWord
  | 7 => if w.extractLsb' 8 6 = 0 then execPmv (w.extractLsb' 20 6) (w.extractLsb' 14 6) s else s.badWord
  | 8 => if w.extractLsb' 25 1 = 0 ∧ w.extractLsb' 8 6 = 0 then execPfirst (w.extractLsb' 20 5) (w.extractLsb' 14 6) s else
      s.badWord
  | 9 => if w.extractLsb' 25 1 = 0 ∧ w.extractLsb' 8 6 = 0 then execPcount (w.extractLsb' 20 5) (w.extractLsb' 14 6) s else
      s.badWord
  | 10 => if w.extractLsb' 19 1 = 0 ∧ w.extractLsb' 8 6 = 0 then execPld (w.extractLsb' 20 6) (w.extractLsb' 14 5) s else
      s.badWord
  | 11 => if w.extractLsb' 19 7 = 0 then execPst (w.extractLsb' 14 5) (w.extractLsb' 8 6) s else s.badWord
  | 12 => if w.extractLsb' 19 1 = 0 ∧ w.extractLsb' 8 6 = 0 then execPsetx (w.extractLsb' 20 6) (w.extractLsb' 14 5) s else
      s.badWord
  | _ => s.badWord

/-- Words of MAJ 20 (R82). -/
def runMaj20 (w : BitVec 32) (s : State) : Out :=
  match (w.extractLsb' 3 2).toNat with
  | 0 => if w.extractLsb' 11 5 = 0 then (if (w.extractLsb' 0 2) != 3 then execVld (w.extractLsb' 21 5) (w.extractLsb' 16 5)
      (w.extractLsb' 7 4) (w.extractLsb' 5 2) (w.extractLsb' 2 1) (w.extractLsb' 0 2) s else s.badWord) else s.badWord
  | 1 => (if (w.extractLsb' 0 2) != 3 then execVlds (w.extractLsb' 21 5) (w.extractLsb' 16 5) (w.extractLsb' 11 5)
      (w.extractLsb' 7 4) (w.extractLsb' 5 2) (w.extractLsb' 2 1) (w.extractLsb' 0 2) s else s.badWord)
  | 2 => if w.extractLsb' 11 5 = 0 then (if (w.extractLsb' 0 2) != 3 then execVldff (w.extractLsb' 21 5) (w.extractLsb' 16 5)
      (w.extractLsb' 7 4) (w.extractLsb' 5 2) (w.extractLsb' 2 1) (w.extractLsb' 0 2) s else s.badWord) else s.badWord
  | 3 => (if (w.extractLsb' 0 2) != 3 then execVldz (w.extractLsb' 21 5) (w.extractLsb' 16 5) (w.extractLsb' 11 5)
      (w.extractLsb' 7 4) (w.extractLsb' 5 2) (w.extractLsb' 2 1) (w.extractLsb' 0 2) s else s.badWord)
  | _ => s.badWord

/-- Words of MAJ 21 (R82). -/
def runMaj21 (w : BitVec 32) (s : State) : Out :=
  match (w.extractLsb' 3 2).toNat with
  | 0 => if w.extractLsb' 11 5 = 0 then (if (w.extractLsb' 0 2) != 3 then execVst (w.extractLsb' 21 5) (w.extractLsb' 16 5)
      (w.extractLsb' 7 4) (w.extractLsb' 5 2) (w.extractLsb' 2 1) (w.extractLsb' 0 2) s else s.badWord) else s.badWord
  | 1 => (if (w.extractLsb' 0 2) != 3 then execVsts (w.extractLsb' 21 5) (w.extractLsb' 16 5) (w.extractLsb' 11 5)
      (w.extractLsb' 7 4) (w.extractLsb' 5 2) (w.extractLsb' 2 1) (w.extractLsb' 0 2) s else s.badWord)
  | 3 => (if (w.extractLsb' 0 2) != 3 then execVstz (w.extractLsb' 21 5) (w.extractLsb' 16 5) (w.extractLsb' 11 5)
      (w.extractLsb' 7 4) (w.extractLsb' 5 2) (w.extractLsb' 2 1) (w.extractLsb' 0 2) s else s.badWord)
  | _ => s.badWord

/-- Words of MAJ 22 (R82). -/
def runMaj22 (w : BitVec 32) (s : State) : Out :=
  execVgat (w.extractLsb' 21 5) (w.extractLsb' 16 5) (w.extractLsb' 11 5) (w.extractLsb' 7 4) (w.extractLsb' 5 2)
        (w.extractLsb' 3 2) (w.extractLsb' 2 1) (w.extractLsb' 1 1) (w.extractLsb' 0 1) s

/-- Words of MAJ 23 (R82). -/
def runMaj23 (w : BitVec 32) (s : State) : Out :=
  if w.extractLsb' 2 1 = 0 then execVsca (w.extractLsb' 21 5) (w.extractLsb' 16 5) (w.extractLsb' 11 5) (w.extractLsb' 7 4)
        (w.extractLsb' 5 2) (w.extractLsb' 3 2) (w.extractLsb' 1 1) (w.extractLsb' 0 1) s else s.badWord

/-- Words of MAJ 24 (R82). -/
def runMaj24 (w : BitVec 32) (s : State) : Out :=
  match (w.extractLsb' 0 3).toNat with
  | 0 => execVaadd (w.extractLsb' 21 5) (w.extractLsb' 16 5) (w.extractLsb' 11 5) (w.extractLsb' 7 4) (w.extractLsb' 6 1)
      (w.extractLsb' 5 1) (w.extractLsb' 3 2) s
  | 1 => execVaand (w.extractLsb' 21 5) (w.extractLsb' 16 5) (w.extractLsb' 11 5) (w.extractLsb' 7 4) (w.extractLsb' 6 1)
      (w.extractLsb' 5 1) (w.extractLsb' 3 2) s
  | 2 => execVaor (w.extractLsb' 21 5) (w.extractLsb' 16 5) (w.extractLsb' 11 5) (w.extractLsb' 7 4) (w.extractLsb' 6 1)
      (w.extractLsb' 5 1) (w.extractLsb' 3 2) s
  | 3 => execVaxor (w.extractLsb' 21 5) (w.extractLsb' 16 5) (w.extractLsb' 11 5) (w.extractLsb' 7 4) (w.extractLsb' 6 1)
      (w.extractLsb' 5 1) (w.extractLsb' 3 2) s
  | 4 => execVamin (w.extractLsb' 21 5) (w.extractLsb' 16 5) (w.extractLsb' 11 5) (w.extractLsb' 7 4) (w.extractLsb' 6 1)
      (w.extractLsb' 5 1) (w.extractLsb' 3 2) s
  | 5 => execVamax (w.extractLsb' 21 5) (w.extractLsb' 16 5) (w.extractLsb' 11 5) (w.extractLsb' 7 4) (w.extractLsb' 6 1)
      (w.extractLsb' 5 1) (w.extractLsb' 3 2) s
  | 6 => execVaminu (w.extractLsb' 21 5) (w.extractLsb' 16 5) (w.extractLsb' 11 5) (w.extractLsb' 7 4) (w.extractLsb' 6 1)
      (w.extractLsb' 5 1) (w.extractLsb' 3 2) s
  | 7 => execVamaxu (w.extractLsb' 21 5) (w.extractLsb' 16 5) (w.extractLsb' 11 5) (w.extractLsb' 7 4) (w.extractLsb' 6 1)
      (w.extractLsb' 5 1) (w.extractLsb' 3 2) s
  | _ => s.badWord

/-- Words of MAJ 25 (R82). -/
def runMaj25 (w : BitVec 32) (s : State) : Out :=
  match (w.extractLsb' 0 3).toNat with
  | 0 => execVuadd (w.extractLsb' 21 5) (w.extractLsb' 16 5) (w.extractLsb' 11 5) (w.extractLsb' 7 4) (w.extractLsb' 6 1)
      (w.extractLsb' 5 1) (w.extractLsb' 3 2) s
  | 1 => execVuand (w.extractLsb' 21 5) (w.extractLsb' 16 5) (w.extractLsb' 11 5) (w.extractLsb' 7 4) (w.extractLsb' 6 1)
      (w.extractLsb' 5 1) (w.extractLsb' 3 2) s
  | 2 => execVuor (w.extractLsb' 21 5) (w.extractLsb' 16 5) (w.extractLsb' 11 5) (w.extractLsb' 7 4) (w.extractLsb' 6 1)
      (w.extractLsb' 5 1) (w.extractLsb' 3 2) s
  | 3 => execVuxor (w.extractLsb' 21 5) (w.extractLsb' 16 5) (w.extractLsb' 11 5) (w.extractLsb' 7 4) (w.extractLsb' 6 1)
      (w.extractLsb' 5 1) (w.extractLsb' 3 2) s
  | 4 => execVumin (w.extractLsb' 21 5) (w.extractLsb' 16 5) (w.extractLsb' 11 5) (w.extractLsb' 7 4) (w.extractLsb' 6 1)
      (w.extractLsb' 5 1) (w.extractLsb' 3 2) s
  | 5 => execVumax (w.extractLsb' 21 5) (w.extractLsb' 16 5) (w.extractLsb' 11 5) (w.extractLsb' 7 4) (w.extractLsb' 6 1)
      (w.extractLsb' 5 1) (w.extractLsb' 3 2) s
  | 6 => execVuminu (w.extractLsb' 21 5) (w.extractLsb' 16 5) (w.extractLsb' 11 5) (w.extractLsb' 7 4) (w.extractLsb' 6 1)
      (w.extractLsb' 5 1) (w.extractLsb' 3 2) s
  | 7 => execVumaxu (w.extractLsb' 21 5) (w.extractLsb' 16 5) (w.extractLsb' 11 5) (w.extractLsb' 7 4) (w.extractLsb' 6 1)
      (w.extractLsb' 5 1) (w.extractLsb' 3 2) s
  | _ => s.badWord

/-- Words of MAJ 26 (R82). -/
def runMaj26 (w : BitVec 32) (s : State) : Out :=
  match (w.extractLsb' 0 4).toNat with
  | 0 => execMma (w.extractLsb' 21 5) (w.extractLsb' 16 5) (w.extractLsb' 11 5) (w.extractLsb' 9 2) (w.extractLsb' 8 1)
      (w.extractLsb' 7 1) (w.extractLsb' 4 3) s
  | 1 => execMmaz (w.extractLsb' 21 5) (w.extractLsb' 16 5) (w.extractLsb' 11 5) (w.extractLsb' 9 2) (w.extractLsb' 8 1)
      (w.extractLsb' 7 1) (w.extractLsb' 4 3) s
  | 2 => execMms (w.extractLsb' 21 5) (w.extractLsb' 16 5) (w.extractLsb' 11 5) (w.extractLsb' 9 2) (w.extractLsb' 8 1)
      (w.extractLsb' 7 1) (w.extractLsb' 4 3) s
  | 3 => execMmai (w.extractLsb' 21 5) (w.extractLsb' 16 5) (w.extractLsb' 11 5) (w.extractLsb' 9 2) (w.extractLsb' 8 1)
      (w.extractLsb' 7 1) (w.extractLsb' 4 3) s
  | 4 => execMmaiz (w.extractLsb' 21 5) (w.extractLsb' 16 5) (w.extractLsb' 11 5) (w.extractLsb' 9 2) (w.extractLsb' 8 1)
      (w.extractLsb' 7 1) (w.extractLsb' 4 3) s
  | _ => s.badWord

/-- Words of MAJ 27 (R82). -/
def runMaj27 (w : BitVec 32) (s : State) : Out :=
  if w.extractLsb' 21 5 = 0 ∧ w.extractLsb' 0 16 = 0 then execVcp (w.extractLsb' 16 5) s else s.badWord

/-- Words of MAJ 28 (R82). -/
def runMaj28 (w : BitVec 32) (s : State) : Out :=
  match (w.extractLsb' 0 4).toNat with
  | 0 => if w.extractLsb' 21 5 = 0 ∧ w.extractLsb' 6 10 = 0 then (if (w.extractLsb' 4 2) != 0 then execPsbind (w.extractLsb'
      16 5) (w.extractLsb' 4 2) s else s.badWord) else s.badWord
  | 1 => if w.extractLsb' 6 20 = 0 then (if (w.extractLsb' 4 2) != 0 then execPsfree (w.extractLsb' 4 2) s else s.badWord)
      else s.badWord
  | 2 => if w.extractLsb' 6 15 = 0 then (if (w.extractLsb' 4 2) != 0 then execPsver (w.extractLsb' 21 5) (w.extractLsb' 4 2)
      s else s.badWord) else s.badWord
  | 3 => if w.extractLsb' 21 5 = 0 ∧ w.extractLsb' 6 5 = 0 then (if (w.extractLsb' 4 2) != 0 then execPsexp (w.extractLsb' 16
      5) (w.extractLsb' 11 5) (w.extractLsb' 4 2) s else s.badWord) else s.badWord
  | 4 => if w.extractLsb' 21 5 = 0 ∧ w.extractLsb' 6 10 = 0 then (if (w.extractLsb' 4 2) != 0 then execPsimp (w.extractLsb'
      16 5) (w.extractLsb' 4 2) s else s.badWord) else s.badWord
  | 5 => if w.extractLsb' 6 20 = 0 then (if (w.extractLsb' 4 2) != 0 then execPsord (w.extractLsb' 4 2) s else s.badWord)
      else s.badWord
  | 6 => if w.extractLsb' 21 5 = 0 ∧ w.extractLsb' 6 10 = 0 then (if (w.extractLsb' 4 2) != 0 then execPswait (w.extractLsb'
      16 5) (w.extractLsb' 4 2) s else s.badWord) else s.badWord
  | 7 => if w.extractLsb' 21 5 = 0 ∧ w.extractLsb' 6 10 = 0 then (if (w.extractLsb' 4 2) != 0 then execPsrec (w.extractLsb'
      16 5) (w.extractLsb' 4 2) s else s.badWord) else s.badWord
  | 8 => if w.extractLsb' 6 15 = 0 then (if (w.extractLsb' 4 2) != 0 then execPsstat (w.extractLsb' 21 5) (w.extractLsb' 4 2)
      s else s.badWord) else s.badWord
  | _ => s.badWord

/-- Words of MAJ 29 (R82). -/
def runMaj29 (w : BitVec 32) (s : State) : Out :=
  match (w.extractLsb' 0 11).toNat with
  | 0 => if w.extractLsb' 21 5 = 0 ∧ w.extractLsb' 11 5 = 0 then execGbar (w.extractLsb' 16 5) s else s.badWord
  | 1 => if w.extractLsb' 21 5 = 0 ∧ w.extractLsb' 11 5 = 0 then execGarr (w.extractLsb' 16 5) s else s.badWord
  | 2 => if w.extractLsb' 21 5 = 0 ∧ w.extractLsb' 11 5 = 0 then execGdrop (w.extractLsb' 16 5) s else s.badWord
  | 3 => if w.extractLsb' 21 5 = 0 ∧ w.extractLsb' 11 5 = 0 then execGwait (w.extractLsb' 16 5) s else s.badWord
  | 4 => execLaunch (w.extractLsb' 21 5) (w.extractLsb' 16 5) (w.extractLsb' 11 5) s
  | 5 => if w.extractLsb' 11 5 = 0 then execVxsend (w.extractLsb' 21 5) (w.extractLsb' 16 5) s else s.badWord
  | 6 => if w.extractLsb' 11 5 = 0 then execVxrecv (w.extractLsb' 21 5) (w.extractLsb' 16 5) s else s.badWord
  | 7 => if w.extractLsb' 11 15 = 0 then execExit s else s.badWord
  | _ => s.badWord

/-- Words of MAJ 30 (R82). -/
def runMaj30 (w : BitVec 32) (s : State) : Out :=
  match (w.extractLsb' 13 3).toNat with
  | 0 => if w.extractLsb' 12 1 = 0 then (if csrOk (w.extractLsb' 0 12) true then execCsrrw (w.extractLsb' 21 5)
      (w.extractLsb' 16 5) (w.extractLsb' 0 12) s else s.badWord) else s.badWord
  | 1 => if w.extractLsb' 12 1 = 0 then (if csrOk (w.extractLsb' 0 12) ((w.extractLsb' 16 5) != 0) then execCsrrs
      (w.extractLsb' 21 5) (w.extractLsb' 16 5) (w.extractLsb' 0 12) s else s.badWord) else s.badWord
  | 2 => if w.extractLsb' 12 1 = 0 then (if csrOk (w.extractLsb' 0 12) ((w.extractLsb' 16 5) != 0) then execCsrrc
      (w.extractLsb' 21 5) (w.extractLsb' 16 5) (w.extractLsb' 0 12) s else s.badWord) else s.badWord
  | 7 =>
    match (w.extractLsb' 0 8).toNat with
    | 0 => if w.extractLsb' 21 5 = 0 ∧ w.extractLsb' 8 5 = 0 then execSys (w.extractLsb' 16 5) s else s.badWord
    | 1 => if w.extractLsb' 16 10 = 0 ∧ w.extractLsb' 8 5 = 0 then execTret s else s.badWord
    | 2 => if w.extractLsb' 16 10 = 0 ∧ w.extractLsb' 8 5 = 0 then execBrk s else s.badWord
    | 3 => if w.extractLsb' 16 10 = 0 ∧ w.extractLsb' 8 5 = 0 then execPark s else s.badWord
    | 4 => if w.extractLsb' 21 5 = 0 then execTlbinv (w.extractLsb' 16 5) (w.extractLsb' 8 5) s else s.badWord
    | 5 => if w.extractLsb' 21 5 = 0 ∧ w.extractLsb' 8 5 = 0 then execPtcinv (w.extractLsb' 16 5) s else s.badWord
    | 6 => if w.extractLsb' 21 5 = 0 ∧ w.extractLsb' 8 5 = 0 then execPgshare (w.extractLsb' 16 5) s else s.badWord
    | 7 => if w.extractLsb' 21 5 = 0 ∧ w.extractLsb' 8 5 = 0 then execPgdrop (w.extractLsb' 16 5) s else s.badWord
    | 8 => if w.extractLsb' 21 5 = 0 then execPgmove (w.extractLsb' 16 5) (w.extractLsb' 8 5) s else s.badWord
    | 9 => if w.extractLsb' 8 5 = 0 then execPghot (w.extractLsb' 21 5) (w.extractLsb' 16 5) s else s.badWord
    | 10 => if w.extractLsb' 8 5 = 0 then execMfcmp (w.extractLsb' 21 5) (w.extractLsb' 16 5) s else s.badWord
    | 11 => if w.extractLsb' 16 10 = 0 ∧ w.extractLsb' 8 5 = 0 then execHalt s else s.badWord
    | _ => s.badWord
  | _ => s.badWord

/-- Words of MAJ 31 (R82). -/
def runMaj31 (w : BitVec 32) (s : State) : Out :=
  match (w.extractLsb' 0 3).toNat with
  | 0 => execVaswap (w.extractLsb' 21 5) (w.extractLsb' 16 5) (w.extractLsb' 11 5) (w.extractLsb' 7 4) (w.extractLsb' 6 1)
      (w.extractLsb' 5 1) (w.extractLsb' 3 2) s
  | 1 => execVacas (w.extractLsb' 21 5) (w.extractLsb' 16 5) (w.extractLsb' 11 5) (w.extractLsb' 7 4) (w.extractLsb' 6 1)
      (w.extractLsb' 5 1) (w.extractLsb' 3 2) s
  | 2 => if w.extractLsb' 5 1 = 0 then execVwaitEq (w.extractLsb' 21 5) (w.extractLsb' 16 5) (w.extractLsb' 11 5)
      (w.extractLsb' 7 4) (w.extractLsb' 6 1) (w.extractLsb' 3 2) s else s.badWord
  | 3 => if w.extractLsb' 5 1 = 0 then execVwaitNe (w.extractLsb' 21 5) (w.extractLsb' 16 5) (w.extractLsb' 11 5)
      (w.extractLsb' 7 4) (w.extractLsb' 6 1) (w.extractLsb' 3 2) s else s.badWord
  | 4 => if w.extractLsb' 5 1 = 0 then execVwaitGe (w.extractLsb' 21 5) (w.extractLsb' 16 5) (w.extractLsb' 11 5)
      (w.extractLsb' 7 4) (w.extractLsb' 6 1) (w.extractLsb' 3 2) s else s.badWord
  | 5 => if w.extractLsb' 5 1 = 0 then execVwaitGeu (w.extractLsb' 21 5) (w.extractLsb' 16 5) (w.extractLsb' 11 5)
      (w.extractLsb' 7 4) (w.extractLsb' 6 1) (w.extractLsb' 3 2) s else s.badWord
  | _ => s.badWord

/-- A word in the state of its hart, read from its major opcode on (R82): what `exec` does with its instruction, and the illegal
instruction where it holds none (R104). -/
def runWord (w : BitVec 32) (s : State) : Out :=
  match (w.extractLsb' 26 5).toNat with
  | 1 => runMaj1 w s
  | 2 => runMaj2 w s
  | 3 => runMaj3 w s
  | 4 => runMaj4 w s
  | 5 => runMaj5 w s
  | 6 => runMaj6 w s
  | 7 => runMaj7 w s
  | 8 => runMaj8 w s
  | 9 => runMaj9 w s
  | 10 => runMaj10 w s
  | 11 => runMaj11 w s
  | 12 => runMaj12 w s
  | 13 => runMaj13 w s
  | 14 => runMaj14 w s
  | 15 => runMaj15 w s
  | 16 => runMaj16 w s
  | 17 => runMaj17 w s
  | 18 => runMaj18 w s
  | 19 => runMaj19 w s
  | 20 => runMaj20 w s
  | 21 => runMaj21 w s
  | 22 => runMaj22 w s
  | 23 => runMaj23 w s
  | 24 => runMaj24 w s
  | 25 => runMaj25 w s
  | 26 => runMaj26 w s
  | 27 => runMaj27 w s
  | 28 => runMaj28 w s
  | 29 => runMaj29 w s
  | 30 => runMaj30 w s
  | 31 => runMaj31 w s
  | _ => s.badWord

end Sys2Proof.Machine
end

