-- ==== Sys2Proof/Machine/Convoy.lean ====
section
/-! DEFINITION. Running one convoy of the current hart: its words are fetched, judged and run, their causes are brought together, and
the convoy retires, traps, waits, is suspended or takes one element step (R27 to R30, R184, R190, R324, R329 to R331, R337 to R339,
R398 to R400). -/

namespace Sys2Proof.Machine

/-! ### Classes of words -/

/-- The unit classes (R29, Table 8). -/
inductive UnitClass where
  | sc
  | sm
  | va
  | pr
  | vl
  | vw
  | mx
  | cp
  | sy
  deriving DecidableEq, Repr

/-- MAJ of a word (R78). -/
def majOf (w : BitVec 32) : Nat := (w.extractLsb' 26 5).toNat

/-- The class of a word; MAJ 0 has none (R29). -/
def unitClass (w : BitVec 32) : Option UnitClass :=
  match majOf w with
  | 1 | 2 | 3 | 4 | 5 | 6 | 7 | 12 => some .sc
  | 8 | 9 | 10 | 11 => some .sm
  | 13 | 14 | 15 | 16 | 17 => some .va
  | 18 | 19 => some .pr
  | 20 | 22 => some .vl
  | 21 | 23 | 24 | 25 | 31 => some .vw
  | 26 => some .mx
  | 27 | 28 => some .cp
  | 29 | 30 => some .sy
  | _ => none

/-- Words that end their convoy: smb, branches, jumps, length-setting instructions, vrel and class SY (R29). -/
def endsConvoy (w : BitVec 32) : Bool :=
  match majOf w with
  | 4 | 5 | 6 | 7 | 12 | 29 | 30 => true
  | _ => false

/-- A convoy that keeps R27 and R29. -/
def convoyOk (ws : List (BitVec 32)) : Bool :=
  (ws.getLast?.any isLast) && ws.dropLast.all (fun w => !endsConvoy w) &&
    ([.sc, .sm, .pr, .vl, .vw, .mx, .cp, .sy] : List UnitClass).all (fun c => (ws.countP fun w => unitClass w == some c) ≤ 1) &&
    (ws.countP fun w => unitClass w == some .va) ≤ 2

/-- vxsend or vxrecv. -/
def exchanges (w : BitVec 32) : Bool := majOf w == 29 && (w.extractLsb' 0 11 == 5 || w.extractLsb' 0 11 == 6)

/-- A vector convoy (R29). -/
def isVector (ws : List (BitVec 32)) : Bool :=
  ws.any fun w => exchanges w || !(unitClass w == some .sc || unitClass w == some .sm || unitClass w == some .sy || unitClass w == none)

/-- vwait (R184). -/
def isVwait (w : BitVec 32) : Bool := majOf w == 31 && 2 ≤ (w.extractLsb' 0 3).toNat

/-- A word that writes memory in the write phase (R190, R330). -/
def writesMemory (w : BitVec 32) : Bool :=
  match majOf w with
  | 9 | 21 | 23 | 24 | 25 | 27 => true
  | 10 => (w.extractLsb' 7 4).toNat != 10
  | 19 => (w.extractLsb' 0 8).toNat == 11
  | 28 => (w.extractLsb' 0 4).toNat == 3
  | 31 => (w.extractLsb' 0 3).toNat < 2
  | _ => false

/-- A word of the read phase (R190). -/
def readsMemory (w : BitVec 32) : Bool :=
  match majOf w with
  | 8 | 20 | 22 | 26 | 27 => true
  | 19 => (w.extractLsb' 0 8).toNat == 10
  | _ => false

/-- A word that makes its convoy a commit point, whatever it does: a scalar atomic, a fence, a MAJ 24, 25, 28, 29, 30 or 31 form, and a
gather or scatter that names a permuted-set slot (R383). -/
def commitWord (w : BitVec 32) : Bool :=
  match majOf w with
  | 10 | 11 | 24 | 25 | 28 | 29 | 30 | 31 => true
  | 22 | 23 => w.extractLsb' 3 2 != 0
  | _ => false

/-- vldz or vstz. -/
def isStream (w : BitVec 32) : Bool := (majOf w == 20 || majOf w == 21) && (w.extractLsb' 3 2).toNat == 3

/-- vcp. -/
def isCopy (w : BitVec 32) : Bool := majOf w == 27

/-! ### Fetching and judging -/

/-- What fetching a convoy answers. -/
inductive Words where
  | words (ws : List (BitVec 32))
  | trap (k : Nat) (t : Trap)
  | wait (why : Why)

/-- Up to n words of the convoy at pc from word k on (R27). -/
def State.fetchFrom (s : State) : Nat → Nat → Words
  | 0, _ => .words []
  | n + 1, k =>
    match s.fetch (s.hart.pc + BitVec.ofNat 64 (4 * k)) with
    | .trap t => .trap k t
    | .wait why => .wait why
    | .word w =>
      if isLast w then .words [w]
      else
        match s.fetchFrom n (k + 1) with
        | .words ws => .words (w :: ws)
        | .trap j t => .trap j t
        | .wait why => .wait why

/-- The words of the convoy at pc. -/
def State.fetchWords (s : State) : Words := s.fetchFrom 4 0

/-! ### Registers that a word writes -/

/-- Registers that a word may write: scalar, vector and predicate registers, and VL. -/
structure Dests where
  xs : List Nat
  vs : List Nat
  ps : List Nat
  vl : Bool

/-- The registers a word may write. A vector register group is taken up to 16 registers from vd, the longest tile. -/
def destsOf (w : BitVec 32) : Dests :=
  let d := (w.extractLsb' 21 5).toNat
  let a := (w.extractLsb' 16 5).toNat
  let group := (List.range 16).map fun k => d + k
  let len := isStream w || (majOf w == 20 && (w.extractLsb' 3 2).toNat == 2)
  match majOf w with
  | 1 | 2 | 3 | 6 | 7 | 28 | 29 | 30 => ⟨[d], [], [], false⟩
  | 4 => ⟨[d, 12, 13, 14, 15], [], [], true⟩
  | 8 | 10 => ⟨[d, d + 1], [], [], false⟩
  | 12 => ⟨[d], [], [], true⟩
  | 13 | 14 | 15 | 16 | 17 | 22 | 24 | 26 => ⟨[], group, [], false⟩
  | 31 => if isVwait w then ⟨[], [], [], false⟩ else ⟨[], group, [], false⟩
  | 18 => ⟨[d], group, [d], false⟩
  | 19 => ⟨[(w.extractLsb' 20 5).toNat], [], [(w.extractLsb' 20 6).toNat], false⟩
  | 20 => ⟨if isStream w then [a] else [], group, [], len⟩
  | 21 => ⟨if isStream w then [a] else [], [], [], len⟩
  | _ => ⟨[], [], [], false⟩

/-- A hart with some registers taken from another state of it. -/
def Hart.take (h src : Hart) (d : Dests) : Hart :=
  { h with
    x := d.xs.foldl (fun (x : Vector Word 32) k => x.setIfInBounds k (src.x[k]?.getD 0)) h.x
    v := d.vs.foldl (fun (v : Vector VReg 32) k => v.setIfInBounds k (src.v[k]?.getD 0)) h.v
    side := d.vs.foldl (fun (v : Vector Side 32) k => v.setIfInBounds k (src.side[k]?.getD 0)) h.side
    p := d.ps.foldl (fun (p : Vector Pred 64) k => p.setIfInBounds k (src.p[k]?.getD 0)) h.p
    vl := if d.vl then src.vl else h.vl }

/-- The hart with every bit of the registers a word may write turned over: what depends on them changes. -/
def Hart.upset (h : Hart) (w : BitVec 32) : Hart :=
  h.take { h with
    x := h.x.map fun v => ~~~v
    v := h.v.map fun v => ~~~v
    side := h.side.map fun v => ~~~v
    p := h.p.map fun v => ~~~v
    vl := ~~~h.vl } (destsOf w)

/-! ### Running the words -/

/-- The state an answer carries, or another one where it carries none. -/
def Out.stateOr (pre : State) : Out → State
  | .next s => s
  | .fault _ | .refused _ => pre

/-- The words of a convoy run so far. `s` has the effects of those that are complete, which `done` names. Once a word has stopped, `alt`
is the same state with the registers that such a word would write turned over: a cause of a later word counts only if it arises in
both, so that it does not depend on a result that is not there. `first` is the state at the first stop. -/
structure Sweep where
  s : State
  alt : Option State
  done : BitVec 4
  traps : List (Nat × Trap)
  wait : Option Why
  pass : Option Pass
  susp : Option (Nat × Trap × Pred)
  hold : Option (Nat × Why)
  pause : Option (Nat × Why × Pred)
  first : Option State

/-- No word has run. -/
def Sweep.start (s : State) : Sweep := ⟨s, none, 0, [], none, none, none, none, none, none⟩

/-- The state in which word k executes. -/
def State.atWord (s : State) (k : Nat) : State :=
  { s with conv := { s.conv with
      idx := k, traps := [], wait := none, nextPass := none, susp := none, hold := none, pause := none } }

/-- A word stopped part way, with what it has done so far. -/
def Convoy.parted (c : Convoy) : Bool := c.susp.isSome || c.hold.isSome || c.pause.isSome

/-- A word stopped. -/
def Convoy.stopped (c : Convoy) : Bool := !c.traps.isEmpty || c.wait.isSome || c.nextPass.isSome || c.parted

/-- A state with the registers of a stopped word turned over. -/
def State.upset (s : State) (w : BitVec 32) : State := { s with hart := s.hart.upset w }

/-- The VL that later words of the convoy see (R173). -/
def State.seeLate (s : State) : State :=
  match s.conv.lateVl with
  | some n => if s.conv.parted then { s with hart := { s.hart with vl := n } } else s
  | none => s

/-- The convoy stopped part way at some word. -/
def Sweep.parted (z : Sweep) : Bool := z.susp.isSome || z.hold.isSome || z.pause.isSome

/-- A later word of a convoy that stopped part way is left for its resumption: one that writes memory, one that needs a result of the
stopped word, and where the convoy only waits, any but a word of the read phase (R190, R330, R333; log entry 84). -/
def Sweep.leaves (z : Sweep) (w : BitVec 32) (t u : State) : Bool :=
  z.parted && (writesMemory w || (z.susp.isNone && !readsMemory w) ||
    z.s.hart.take t.hart (destsOf w) != z.s.hart.take u.hart (destsOf w))

/-- A wait that may end in what the Outrider finds, or in data for a read: an access of its word is not translated, or not read (R339). -/
def Why.early : Why → Bool
  | .trunk _ _ | .migration _ => true
  | .lanes _ | .handover | .watermark _ | .watch | .version | .sketch | .barrier | .push | .pop | .writes | .accept
  | .otherMove | .move _ _ _ _ | .row => false

/-- What a convoy waits for, with the wait of one more word. -/
def joinWait (a : Option Why) (b : Why) : Why :=
  match a with
  | some w => if b.early && !w.early then b else w
  | none => b

/-- One word is run (R28, R330, R339). -/
def Sweep.word (z : Sweep) (k : Nat) (w : BitVec 32) : Sweep :=
  if z.s.conv.skip.getLsbD k then z
  else
    let t := Out.stateOr z.s (runWord w (z.s.atWord k))
    let c := t.conv
    match z.alt with
    | none =>
      if c.stopped then
        { z with
          s := t.seeLate
          alt := some (t.seeLate.upset w)
          traps := z.traps ++ c.traps
          wait := c.wait
          pass := c.nextPass
          susp := c.susp
          hold := c.hold
          pause := c.pause
          first := some z.s }
      else { z with s := t, done := z.done ||| (1#4 <<< k) }
    | some b =>
      let u := Out.stateOr b (runWord w (b.atWord k))
      if c.stopped || u.conv.stopped || z.leaves w t u then
        { z with
          s := { z.s with conv := { z.s.conv with pins := c.pins } }
          alt := some (b.upset w)
          traps := if c.traps == u.conv.traps then z.traps ++ c.traps else z.traps
          wait := match c.wait with
            | some b => if c.wait == u.conv.wait && (!z.parted || readsMemory w) then some (joinWait z.wait b) else z.wait
            | none => z.wait }
      else { z with s := t, alt := some u, done := z.done ||| (1#4 <<< k) }

/-- The words of the convoy that are complete (R330). -/
def Sweep.complete (z : Sweep) : BitVec 4 := z.done ||| z.s.conv.skip

/-- The state in which a convoy stops part way: VL is as it was, where a suspended word is still to write it (R173, R330). -/
def Sweep.stopState (z : Sweep) : State :=
  match z.s.conv.lateVl, z.first with
  | some n, some f => if z.s.hart.vl = n then { z.s with hart := { z.s.hart with vl := f.hart.vl } } else z.s
  | _, _ => z.s

/-- The state before a convoy that waits, with what its waiting gather has read (R271). -/
def State.waitFor (s : State) (z : Sweep) (why : Why) : State :=
  { s with hart := { s.hart with gathered := z.s.hart.gathered } }.waitNow why

/-- The pass that follows, with the words and the translations of the convoy (R205). -/
def Sweep.nextOf (z : Sweep) (ws : List (BitVec 32)) (p : Pass) : Pass :=
  { p with words := ws, pins := p.pins ++ (z.s.conv.pins.getD []).filter fun k => !p.pins.contains k }

/-- The convoy goes on with another pass of its matrix instruction (R205). -/
def State.passOf (s : State) (ws : List (BitVec 32)) (z : Sweep) (p : Pass) : State := s.setPass (z.nextOf ws p)

/-- vwait comes before every other word of its convoy (R184). -/
def wordOrder (ws : List (BitVec 32)) : List Nat :=
  let ks := List.range ws.length
  (ks.filter fun k => ws[k]?.any isVwait) ++ ks.filter fun k => !ws[k]?.any isVwait

/-- The words of a convoy run in order. -/
def State.sweep (s : State) (ws : List (BitVec 32)) : Sweep :=
  (wordOrder ws).foldl (fun z k => z.word k (ws[k]?.getD 0)) (Sweep.start s)

/-- The first cause in the order of R324: class, then word. -/
def bestTrap : List (Nat × Trap) → Option (Nat × Trap)
  | [] => none
  | e :: r =>
    match bestTrap r with
    | none => some e
    | some f =>
      let a := causeRank e.2.code
      let b := causeRank f.2.code
      some (if b < a ∨ (a = b ∧ f.1 < e.1) then f else e)

/-- A cause of the class counts in the stage that the convoy has reached: while vwait waits, no other word has started, and only what is
found at issue or at dispatch counts (R184); and while an access of a word is still to be translated or read, no cause of execution
counts, for the one that goes before it may come yet (R324, R339). -/
def Sweep.counts (z : Sweep) (rank : Nat) : Bool :=
  match z.wait with
  | some w => if w = .watch then rank ≤ 4 else if w.early then rank ≤ 6 else true
  | none => true

/-- The cause that the convoy reports (R324, R339). -/
def Sweep.cause (z : Sweep) : Option (Nat × Trap) := bestTrap (z.traps.filter fun e => z.counts (causeRank e.2.code))

/-- Pages that the words of a convoy found faulty (R328). -/
def Sweep.pages (z : Sweep) : List Page := z.traps.flatMap fun e => if causeRank e.2.code = 6 then e.2.pages else []

/-- The words run with the page list of the whole convoy known, for the element mask (R328). -/
def State.sweepPages (s : State) (ws : List (BitVec 32)) : Sweep :=
  let z := s.sweep ws
  match z.cause with
  | some (_, t) =>
    let ps := z.pages
    if causeRank t.code = 6 ∧ ps.length ≠ t.pages.length then
      let told : State := { s with conv := { s.conv with pages := ps.map fun (p : Page) => p.va } }
      let q := told.sweep ws
      { q with traps := q.traps.map fun e => if causeRank e.2.code = 6 then (e.1, { e.2 with pages := ps }) else e }
    else z
  | none => z

/-- The illegal convoy (R29, R324). -/
def illegalConvoy (ws : List (BitVec 32)) : Trap := Trap.plain 0x01 (BitVec.zeroExtend 64 (ws[0]?.getD 0))

/-- A word whose illegal-instruction trap comes from what its operands hold, the word itself being legal: vsetvl, vxsend or vxrecv, and
tret (R91, R310, R331, R341). -/
def State.operandIllegal (s : State) (w : BitVec 32) : Bool :=
  (majOf w == 12 && w.extractLsb' 13 3 == 1 && w.extractLsb' 5 8 == 0) ||
    (exchanges w && w.extractLsb' 11 5 == 0 && (w.extractLsb' 21 5).toNat % lmulOf s.hart.vtype == 0) || w.extractLsb' 0 31 == 0x7800E001#31

/-- The words run. A word illegal as a word goes before one that is so for what its operands hold, and where every word is legal as a word,
an illegal convoy does (R27, R29, R324, R341). -/
def State.judge (s : State) (ws : List (BitVec 32)) : Sweep :=
  let z := s.sweepPages ws
  let bad := fun (e : Nat × Trap) => e.2.code == 0x01 && !s.operandIllegal (ws[e.1]?.getD 0)
  if z.traps.any bad then { z with traps := z.traps.filter fun e => e.2.code != 0x01 || bad e }
  else if convoyOk ws then z
  else { z with traps := (0, illegalConvoy ws) :: z.traps }

/-! ### The end of a convoy -/

/-- Elements of the word that an element step or a suspension names: its active elements, or every element below VL where it has no
mask of elements, as vcompress has none; none for a scalar word (R330, R400). -/
def Hart.elementsOf (h : Hart) (w : BitVec 32) : Pred :=
  let low : Pred := BitVec.ofNat 8192 (2 ^ h.vln - 1)
  let masked := fun (lo : Nat) => (h.p[(w.extractLsb' lo 4).toNat]?.getD 0 ||| (if (w.extractLsb' lo 4) = 0 then BitVec.allOnes 8192 else 0)) &&& low
  if isStream w || (majOf w == 18 && (w.extractLsb' 0 7).toNat == 35) then low
  else
    match majOf w with
    | 13 | 14 | 16 | 17 | 18 | 20 | 21 | 22 | 23 | 24 | 25 | 31 => masked 7
    | 15 => masked 12
    | 19 | 26 | 27 | 28 => low
    | _ => 0

/-- A cause of a convoy: the convoy is squashed, but one that a suspension left in its write phase is suspended again at the word
that the cause struck (R329, R330). -/
def State.fail (s : State) (ws : List (BitVec 32)) (z : Sweep) (k : Nat) (t : Trap) : State :=
  match s.conv.only with
  | some (j, left) =>
    if s.conv.wph then
      let q := z.first.getD s
      q.suspendAt t k (if k = j then left else q.hart.elementsOf (ws[k]?.getD 0)) (s.conv.skip ||| z.done)
    else s.squash t k
  | none => s.squash t k

/-- Bytes of writes that the complete words of the convoy leave (R382). -/
def Sweep.pend (z : Sweep) : List Write := z.s.conv.pend

/-- The convoy is a commit point, or its pgmove begins, or its writes are more than the buffer of held writes takes (R382, R383). -/
def Sweep.commits (z : Sweep) : Bool :=
  z.s.conv.commit || 65536 < writeBytes z.pend || match z.wait with | some (.move _ _ _ _) => true | _ => false

/-- The last word of the convoy is a length-setting instruction that waits, and all the others are complete: they are not to run again,
for the grant may change while the hart stands there (R28, R39, R139, R141). -/
def Sweep.stands (z : Sweep) (n : Nat) : Bool :=
  (match z.wait with
    | some (.lanes _) | some .handover | some (.watermark _) => true
    | _ => false) && z.pass.isNone && !z.parted && (List.range (n - 1)).all fun k => z.complete.getLsbD k

/-- The end of a convoy whose words have run. `s` is the state before it. -/
def State.conclude (s : State) (ws : List (BitVec 32)) (z : Sweep) : State :=
  match z.cause with
  | some (k, t) => (if z.commits then s.commit else s).fail ws z k t
  | none =>
    match z.wait, z.pass, z.susp, z.pause, z.hold with
    | some why, some p, _, _, _ => { s with hart := { s.hart with pass := some (z.nextOf ws p) } }.waitFor z why
    | some why, none, _, _, _ =>
      if z.stands ws.length then z.stopState.holdOn z.complete (ws.length - 1) why else s.waitFor z why
    | none, some p, _, _, _ => s.passOf ws z p
    | none, none, some (k, t, rest), _, _ => z.stopState.suspendAt t k rest z.complete
    | none, none, none, some (k, why, rest), _ => (z.stopState.beginWait why).pauseAt why k rest z.complete
    | none, none, none, none, some (k, why) => z.stopState.holdOn z.complete k why
    | none, none, none, none, none => z.s.retire s.hart

/-- The words of a convoy run; one that is a commit point, or whose writes would overflow the buffer of held writes, runs from the forced
checkpoint at the boundary before it (R382, R383). -/
def State.runMany (s : State) (ws : List (BitVec 32)) : State :=
  let z := s.judge ws
  if z.cause.isNone && s.checksFirst z.commits z.pend then s.forceCheck.conclude ws (s.forceCheck.judge ws)
  else s.conclude ws z

/-! ### Element steps -/

/-- A word that one element group at a time performs (R400). -/
def stepsByGroup (w : BitVec 32) : Bool :=
  match majOf w with
  | 13 | 14 | 15 | 16 | 17 | 22 | 23 | 25 => true
  | 18 =>
    let f := (w.extractLsb' 0 7).toNat
    f < 16 || (32 ≤ f && f != 39 && f != 40)
  | 20 | 21 => !isStream w
  | _ => false

/-- Elements of the lowest element group that has one of some elements (R32, R400). -/
def Hart.lowestGroup (h : Hart) (m : Pred) : Pred :=
  match (List.range 8192).find? fun k => m.getLsbD k with
  | none => 0
  | some k =>
    let n := h.lanes
    BitVec.ofNat 8192 ((2 ^ n - 1) * 2 ^ (k / n * n))

/-- A word takes a step of the read phase next: of vcp that is the step which fills the tile buffer (R400). -/
def stepReads (w : BitVec 32) (filled : Bool) : Bool := readsMemory w && !(isCopy w && filled)

/-- The words not yet complete, in the order of their steps: vwait, then those of the read phase, then the others (R184, R190, R400). -/
def stepOrder (ws : List (BitVec 32)) (skip : BitVec 4) (filled : Bool) : List Nat :=
  let ks := (wordOrder ws).filter fun k => !skip.getLsbD k
  let reads := fun (k : Nat) => stepReads (ws[k]?.getD 0) filled
  (ks.filter fun k => ws[k]?.any isVwait) ++ (ks.filter reads) ++ ks.filter fun k => !ws[k]?.any isVwait && !reads k

/-- Elements of some groups copied from one state of the registers to another, for a word whose result is a vector group or a
predicate. -/
def Hart.takeGroup (h src : Hart) (w : BitVec 32) (m : Pred) : Hart :=
  let d := (w.extractLsb' 21 5).toNat
  let es := (List.range 8192).filter fun k => m.getLsbD k
  if majOf w = 18 ∧ (w.extractLsb' 0 7).toNat < 16 then
    { h with p := h.p.setIfInBounds d ((h.p[d]?.getD 0 &&& ~~~m) ||| (src.p[d]?.getD 0 &&& m)) }
  else
    let h := es.foldl (fun (h : Hart) e => h.setElem h.sew d e (src.elem h.sew d e)) h
    (es.filter fun e => e % 8 == 0).foldl (fun (h : Hart) e => h.setEntry h.sew d (e / 16) (src.entry h.sew d (e / 16))) h

/-- The registers a word reads in its step: results of words that follow it in the convoy, and come before it in the order of the
steps, are not there; nor are those of its own earlier steps (R28, R400). -/
def State.stepFile (s : State) (ws : List (BitVec 32)) (k : Nat) (own : Bool) : Hart :=
  match s.conv.base with
  | none => s.hart
  | some c =>
    let old := { s.hart with x := c.x, v := c.v, side := c.side, p := c.p, vl := c.vl }
    let later := (List.range ws.length).filter fun j => k < j && s.conv.skip.getLsbD j
    let h := later.foldl (fun (h : Hart) j => h.take old (destsOf (ws[j]?.getD 0))) s.hart
    if own then h.take old (destsOf (ws[k]?.getD 0)) else h

/-- The words before word k that are still to take their steps (R400). -/
def State.stepsBefore (s : State) (k : Nat) : List Nat := (List.range k).filter fun j => !s.conv.skip.getLsbD j

/-- The registers that word k reads in its steps: a word of the read phase sees what the words before it would write, and its accesses are
ordered as a fence among them says (R28, R130, R400). No word of the convoy is cut short for this, whatever VSTART says. -/
def State.viewOf (s : State) (ws : List (BitVec 32)) (k : Nat) (own : Bool) : Hart :=
  if stepReads (ws[k]?.getD 0) s.conv.filled then
    let before := s.stepsBefore k
    if before.isEmpty then s.hart
    else
      let scratch : State := { s with conv := { s.conv with only := some (4, 0) } }
      let h := (before.foldl (fun (z : Sweep) j => z.word j (ws[j]?.getD 0)) (Sweep.start scratch)).s.hart
      { before.foldl (fun (t : Hart) j => t.take h (destsOf (ws[j]?.getD 0))) s.hart with orders := h.orders }
  else s.stepFile ws k own

/-- A fence.w before word k that is still to take its step: no access of the word is performed before it completes (R131, R247). -/
def State.fenceBefore (s : State) (ws : List (BitVec 32)) (k : Nat) : Option Nat :=
  if stepReads (ws[k]?.getD 0) s.conv.filled then
    (s.stepsBefore k).find? fun j => ws[j]?.any fun w => majOf w == 11 && (w.extractLsb' 13 3).toNat == 3
  else none

/-- The state with another current hart. -/
def State.withHart (s : State) (h : Hart) : State := { s with hart := h }

/-- The registers after a step: results of words that follow the stepped one stay. -/
def State.keepLater (s : State) (ws : List (BitVec 32)) (k : Nat) (h : Hart) : Hart :=
  let later := (List.range ws.length).filter fun j => k < j && s.conv.skip.getLsbD j
  later.foldl (fun (h : Hart) j => h.take s.hart (destsOf (ws[j]?.getD 0))) h

/-- The registers as a checkpoint holds them. -/
def Hart.unstep (h : Hart) (c : Check) : Hart :=
  { h with
    x := c.x
    v := c.v
    side := c.side
    p := c.p
    vl := c.vl
    flags := c.flags
    psvlo := c.psvlo
    psvhi := c.psvhi
    rpc := c.rpc
    rpcx := c.rpcx }

/-- A cause of a stepped word. Before the read phase is over it squashes the convoy, whose steps have then left no trace; after a step,
in the words that follow the read phase, it suspends the convoy with the elements left (R329, R330). -/
def State.failStep (s : State) (w : BitVec 32) (k : Nat) (t : Trap) (left : Pred) : State :=
  if stepReads w s.conv.filled || s.conv.only.isNone then
    (match s.conv.base with | some c => s.withHart (s.hart.unstep c) | none => s).squash t k
  else s.suspendAt t k left s.conv.skip

/-- The debug event after a step that leaves some of the convoy: word k is the next one, with some elements left (R399). -/
def State.stopStep (s : State) (k : Nat) (rest : Pred) (skip : BitVec 4) (base : Option Check) (begun : Bool) : State :=
  { s with conv := { s.conv with base := base, begun := begun } }.suspendAt (Trap.plain 0x16 2) k rest skip

/-- What follows a step of word k that left some elements, or none. -/
def State.afterStep (s : State) (ws : List (BitVec 32)) (pre : Hart) (k : Nat) (left : Pred) (more : Bool) (base : Check) : State :=
  let skip := s.conv.skip
  if more then s.stopStep k left skip (some base) true
  else
    let skip := if s.conv.fillOnly then skip else skip ||| (1#4 <<< k)
    match stepOrder ws skip s.conv.filled with
    | [] =>
      let sys := s.conv.after.isSome
      let t := { s with conv := { s.conv with len := ws.length } }.retire pre
      if sys || t.hart.status == .gone || t.hart.id != pre.id then t
      else t.takeTrap (Trap.plain 0x16 2) pre.pc 0 false t.hart.pc none
    | j :: _ =>
      let w := ws[j]?.getD 0
      let next := { s with conv := { s.conv with skip := skip } }.viewOf ws j false
      let rest := if isCopy w && s.conv.filled then BitVec.ofNat 8192 (2 ^ s.hart.copyBuf.length - 1) else next.elementsOf w
      s.stopStep j rest skip s.conv.base (isCopy w && s.conv.filled)

/-- What a fence.w makes of a step of word k of the read phase, where the fence stands before it and does not complete yet (R131, R247). -/
def State.stepGate (s : State) (ws : List (BitVec 32)) (k : Nat) : Option State :=
  (s.fenceBefore ws k).bind fun j =>
    let c := (Out.stateOr s (runWord (ws[j]?.getD 0) (s.atWord j))).conv
    match c.traps, c.wait, c.hold with
    | (_, t) :: _, _, _ => some (s.failStep (ws[k]?.getD 0) j t 0)
    | [], some why, _ => some (s.waitNow why)
    | [], none, some (_, why) => some (s.waitNow why)
    | [], none, none => none

/-- A step of word k under element step (R399, R400). `s` is the state before it. -/
def State.stepWord (s : State) (ws : List (BitVec 32)) (k : Nat) : State :=
  let w := ws[k]?.getD 0
  let begun := s.conv.begun
  let reads := stepReads w s.conv.filled
  let file := s.viewOf ws k (begun && !reads && !writesMemory w)
  let left := match s.conv.only with
    | some (j, m) => if j = k then m else file.elementsOf w
    | none => file.elementsOf w
  let fill := isCopy w && !s.conv.filled
  let group := if stepsByGroup w || (isCopy w && !fill) then s.hart.lowestGroup left else BitVec.allOnes 8192
  let now := if fill then 0 else if stepsByGroup w || isCopy w then left &&& group else left
  let rest := left &&& ~~~now
  let more := !fill && rest != 0
  -- elements that the mask leaves out take their zero under MA with their group, or with the last step
  let spare := ~~~(file.elementsOf w) &&& (if more || fill then group else BitVec.allOnes 8192)
  let ready := { s with
    hart := file
    conv := { s.conv with only := some (k, now ||| spare), fillOnly := fill, partly := more || fill, begun := begun || !fill && isCopy w } }
  let q := (Sweep.start ready).word k w
  let part := q.stopState.withHart (s.keepLater ws k q.stopState.hart)
  match q.traps, q.wait, q.pass, q.susp, q.pause with
  | (_, t) :: _, _, _, _, _ => s.failStep w k t left
  | [], some why, _, _, _ => s.waitFor q why
  | [], none, some p, _, _ => s.passOf ws q p
  | [], none, none, some (_, t, m), _ => part.suspendAt t k (m ||| rest) s.conv.skip
  | [], none, none, none, some (_, why, m) => (part.beginWait why).pauseAt why k (m ||| rest) s.conv.skip
  | [], none, none, none, none =>
    let whole := Out.stateOr ready (runWord w ({ ready with conv := { ready.conv with only := some (4, 0) } }.atWord k))
    let out :=
      if reads then s.hart.take q.s.hart (destsOf w)
      else if stepsByGroup w && !writesMemory w then
        if more then s.hart.takeGroup whole.hart w group else s.keepLater ws k whole.hart
      else s.keepLater ws k q.s.hart
    let out := { out with
      copyBuf := q.s.hart.copyBuf
      held := q.s.hart.held
      rheld := q.s.hart.rheld
      status := q.s.hart.status
      arrived := q.s.hart.arrived
      switchReq := q.s.hart.switchReq }
    let done := if reads || more then s.conv.base.getD (s.hart.checkpoint s.hart.pc true)
      else (if stepsByGroup w then whole.hart else q.s.hart).checkpoint s.hart.pc true
    let t := { q.s with
      hart := out
      conv := { q.s.conv with only := s.conv.only, base := some done, filled := s.conv.filled || fill, partly := false } }
    match q.hold with
    | some (_, why) => t.holdOn s.conv.skip k why
    | none => t.afterStep ws s.hart k rest more (if reads then done else file.checkpoint s.hart.pc true)

/-- One step of a convoy under element step (R399, R400). `s` is the state before it. -/
def State.stepOnce (s : State) (ws : List (BitVec 32)) : State :=
  match stepOrder ws s.conv.skip s.conv.filled with
  | [] => { s with conv := { s.conv with len := ws.length } }.retire s.hart
  | k :: _ => (s.stepGate ws k).getD (s.stepWord ws k)

/-- Element step (R399, R400): what is found before execution is found for the whole convoy first. No word ends its convoy alone
here, so the convoy counts as one of more than one word. -/
def State.runStep (s : State) (ws : List (BitVec 32)) : State :=
  let s := { s with conv := { s.conv with len := 0 } }
  let z := s.judge ws
  match z.cause with
  | some (k, t) => if s.conv.only.isNone && causeRank t.code ≤ 6 then s.fail ws z k t else s.stepOnce ws
  | none => s.stepOnce ws

/-! ### One convoy -/

/-- The translations that the words of a convoy are to keep: those of its earlier passes, where it has a matrix instruction; that
instruction by itself keeps its own (R205). -/
def Hart.pinsFor (h : Hart) (ws : List (BitVec 32)) : Option (List Pin) :=
  match h.pass with
  | some p => some p.pins
  | none => if 1 < ws.length && ws.any fun w => majOf w == 26 then some [] else none

/-- The convoy of the current hart before its words run: what a resumption leaves to do (R331). -/
def State.beginConvoy (s : State) (ws : List (BitVec 32)) : State :=
  let n := ws.length
  let commit := ws.any commitWord
  let s := { s with conv := { s.conv with pins := s.hart.pinsFor ws } }
  match s.hart.resume with
  | none => { s with conv := { s.conv with len := n, commit := commit } }
  | some r =>
    let k := s.hart.carry
    { s with conv := { s.conv with
      len := n
      skip := r.cvd
      only := some (r.word, r.rest)
      hot := k.hot
      samples := k.samples
      pubs := k.pubs
      vers := k.vers
      tiles := k.tiles
      npc := k.npc
      after := k.after
      final := k.final
      cont := k.cont
      strip := k.strip
      commit := k.commit || commit
      wph := r.wph
      base := k.base
      begun := k.begun
      filled := k.filled
      undo := k.undo } }

/-- The words of the convoy run. A convoy of one word is that word's meaning. -/
def State.runWords (s : State) (ws : List (BitVec 32)) : State :=
  let t := s.beginConvoy ws
  if s.hart.stepping 2 then t.runStep ws
  else
    match ws with
    | [w] =>
      if !isLast w then t.runMany ws
      else if t.conv.skip.getLsbD 0 then t.retire t.hart
      else Out.stateOr t (runWord w t)
    | _ => t.runMany ws

/-- The instruction breakpoint matches the convoy that is about to issue (R398, R399). -/
def Hart.breaks (h : Hart) : Bool :=
  h.dbgctl.getLsbD 2 && !h.dbgctl.getLsbD 3 && h.priv == .u && !h.tip && h.status == .running && h.resume.isNone &&
    h.pc.extractLsb' 2 53 == h.dbgctl.extractLsb' 4 53

/-- A fetch that has waited too long (R295, R333). -/
def fetchExpired (va : Word) : Why → Trap
  | .trunk ls _ => stalledAt (ls.headD 0)
  | .lanes _ | .handover | .watermark _ | .watch | .version | .sketch | .barrier | .push | .pop | .writes | .accept | .migration _
  | .otherMove | .move _ _ _ _ | .row => ⟨0x09, va, [⟨pageOf va, 7⟩], 0, false, false⟩

/-- The words of the convoy that is to issue: those of the convoy whose pass is to follow another (R205), or those at pc. -/
def State.convoyWords (s : State) : Words :=
  match s.hart.pass with
  | some p => .words p.words
  | none => s.fetchWords

/-- A pass that the convoy has left keeps its words (R205). -/
def State.nameWords (s : State) (ws : List (BitVec 32)) : State :=
  match s.hart.pass with
  | some p => if p.words.isEmpty then { s with hart := { s.hart with pass := some { p with words := ws } } } else s
  | none => s

/-! ### Mirrors -/

/-- RETRY of the hart advances (R375, R378). -/
def Hart.countRetry (h : Hart) : Hart :=
  { h with
    retry := if h.retry = BitVec.allOnes 32 then h.retry else h.retry + 1
    retried := true }

/-- A word writes, or gives the load-store unit, what a mismatch site names: a vector register, a predicate, a store datum, index or
address, a scalar result, or an accepted tile (R377, R378). A register group is taken up to 16 registers from vd. -/
def comparedAt (w : BitVec 32) (site : Nat) : Bool :=
  let d := (w.extractLsb' 21 5).toNat
  let f := (w.extractLsb' 0 7).toNat
  let g := (w.extractLsb' 0 8).toNat
  let m := majOf w
  if site < 0x20 then
    decide (d ≤ site) && decide (site < d + 16) &&
      ([13, 14, 15, 16, 17, 20, 22, 24].contains m || (m == 18 && decide (16 ≤ f) && f != 39) || (m == 31 && !isVwait w) ||
        (exchanges w && w.extractLsb' 0 11 == 6))
  else if 0x40 ≤ site ∧ site < 0x80 then
    (m == 18 && decide (f < 16) && d == site - 0x40) ||
      (m == 19 && !([8, 9, 11].contains g) && (w.extractLsb' 20 6).toNat == site - 0x40)
  else if site = 0x80 then [20, 21, 22, 23, 24, 25, 27, 31].contains m || (m == 19 && (g == 10 || g == 11))
  else if site = 0x81 then (m == 18 && f == 39) || (m == 19 && (g == 8 || g == 9))
  else site == 0x82 && m == 26

/-- A cause goes before a mismatch of a site at word k (R324, R387): one found before execution, a data-path fault of a lower word, and a
failing checksum, whose pass is checked before its tile is accepted. Between a checksum and a mismatch elsewhere the order in which they
are found decides (log entry 85). -/
def beforeMismatch (k site : Nat) (e : Nat × Trap) : Bool :=
  causeRank e.2.code ≤ 6 || (if e.2.code = 0x15 then site == 0x82 else e.1 < k)

/-- A mismatch at word k (R378): the convoy is squashed and run once more from its first word, and the second time the hart takes a machine
check. `tval` names the site and the primary lane. -/
def State.mismatchAt (s : State) (k : Nat) (tval : BitVec 12) : State :=
  if s.hart.retried then { s.squash (Trap.plain 0x14 (BitVec.zeroExtend 64 tval)) k with conv := Convoy.fresh }
  else { s with hart := { s.hart.countRetry with pass := none, gathered := [], status := .running } }

/-- The four primary lanes of every lane group, in a register (R376). -/
def primaryLanes : VReg := BitVec.ofNat 8192 ((2 ^ 1024 - 1) * (1 + 2 ^ 2048 + 2 ^ 4096 + 2 ^ 6144))

/-- A register with its primary lanes and their mirrors exchanged (R376). -/
def mirrored (r : VReg) : VReg := ((r &&& primaryLanes) <<< 1024) ||| ((r >>> 1024) &&& primaryLanes)

/-- The hart as its mirror lanes run it (R376). -/
def Hart.mirror (h : Hart) : Hart := { h with v := h.v.map mirrored }

/-- The lowest set bit of a register. -/
def lowestBit (r : VReg) : Option Nat := (List.range 8192).find? fun k => r.getLsbD k

/-- The bits of register k in which the two copies differ, and which one of them has written: `pre` is the hart before. -/
def mirrorBits (pre a b : Hart) (k : Nat) : VReg :=
  let at_ := fun (h : Hart) => h.v[k]?.getD 0
  (at_ a ^^^ at_ b) &&& ((at_ a ^^^ at_ pre) ||| (at_ b ^^^ mirrored (at_ pre))) &&& primaryLanes

/-- The first mismatch that the two copies of some words show, as TVAL names it: `pre` is the hart before them, and `a` and `b` are what
the primary lanes and the mirrors made of them (R377, R378). DESIGN CHOICE: a bit that both copies leave as it was counts as not
written (log entry 95). -/
def mirrorSite (pre : Hart) (a b : Sweep) : Option (BitVec 12) :=
  let put := fun (site lane : Nat) => BitVec.ofNat 12 (site + 256 * lane)
  let writes := fun (z : Sweep) => z.s.hart.held ++ z.s.conv.pend
  let n := pre.plane
  if a.traps != b.traps then some (put 0x80 0)
  else if writes a != writes b then
    some (put 0x80 ((((writes a).zip (writes b)).find? fun e => e.1 != e.2).elim 0 fun e => e.1.lo % n))
  else
    match (List.range 32).find? fun k => mirrorBits pre a.s.hart b.s.hart k != 0 || (a.s.hart.side[k]?) != (b.s.hart.side[k]?) with
    | some k =>
      let l := ((lowestBit (mirrorBits pre a.s.hart b.s.hart k)).getD 0) / 256
      some (put k (4 * (l / 8) + l % 4))
    | none =>
      match (List.range 64).find? fun k => (a.s.hart.p[k]?) != (b.s.hart.p[k]?) with
      | some k => some (put (0x40 + k) (((lowestBit (a.s.hart.p[k]?.getD 0 ^^^ b.s.hart.p[k]?.getD 0)).getD 0) % n))
      | none => if a.s.hart.x != b.s.hart.x then some (put 0x81 0) else none

/-- The words run in both copies, one after the other, until a mismatch shows: its word, and TVAL. -/
def mirrorScan (ws : List (BitVec 32)) (pre : Hart) : List Nat → Sweep → Sweep → Option (Nat × BitVec 12)
  | [], _, _ => none
  | k :: r, a, b =>
    let w := ws[k]?.getD 0
    let a := a.word k w
    let b := b.word k w
    match mirrorSite pre a b with
    | some t => some (k, if majOf w = 26 then (t &&& 0xF00) ||| 0x82 else t)
    | none => mirrorScan ws pre r a b

/-- The mismatch that the vector convoy of a protected hart finds where the copies of a register differ, as they may in restored state: at
the first write-back that depends on it (R377, R379). -/
def State.mirrorFault (s : State) (ws : List (BitVec 32)) : Option (Nat × BitVec 12) :=
  if !s.hart.prot || s.hart.resume.isSome || !isVector ws || (s.hart.v.all fun r => mirrored r == r) then none
  else
    let t := s.beginConvoy ws
    match mirrorScan ws s.hart (wordOrder ws) (Sweep.start t) (Sweep.start { t with hart := t.hart.mirror }) with
    | none => none
    | some e => if (t.judge ws).cause.any (beforeMismatch e.1 (e.2.toNat % 256)) then none else some e

/-! ### The interlock table -/

/-- Entries of the interlock table that the hart's retired vector instructions still hold, for their writes (R236). -/
def Hart.entriesUsed (h : Hart) : Nat := (((h.held.filter fun w => w.cls == .vector).map fun w => w.seq).eraseDups).length

/-- A vector convoy finds a free entry of the interlock table: where all 16 are in use, the writes of the oldest instruction are accepted
first (R236). -/
def State.makeEntry (s : State) (ws : List (BitVec 32)) : State :=
  if s.hart.entriesUsed < 16 || !isVector ws then s
  else
    match s.hart.held.find? fun w => w.cls == .vector with
    | some o => s.release fun w => w.cls == .vector && w.seq == o.seq
    | none => s

/-- The convoy at pc of the current hart, which may issue one. -/
def State.runConvoy (s : State) : State :=
  if s.hart.breaks then s.takeTrap (Trap.plain 0x16 3) s.hart.pc 0 false s.hart.pc none
  else
    match s.convoyWords with
    | .trap k t => s.squash t k
    | .wait why => if s.conv.expired = some why then s.squash (fetchExpired s.hart.pc why) 0 else s.waitNow why
    | .words ws =>
      let s := s.makeEntry ws
      if 16 ≤ s.hart.entriesUsed ∧ isVector ws then s.waitNow .writes
      else
        match s.mirrorFault ws with
        | some e => s.mismatchAt e.1 e.2
        | none => (s.runWords ws).nameWords ws

/-- The current hart issues its convoy, or goes on with the one it waits at, or with the delivery of its trap (R401); nothing of the convoy
stays behind. -/
def State.runHart (s : State) : State :=
  match s.hart.due with
  | some d => s.deliver d
  | none =>
    match s.hart.status with
    | .running | .waiting _ _ => { s.runConvoy with conv := Convoy.fresh }
    | .halted | .doubleTrap | .gone => s

/-- The current hart runs its convoy with a wait of it ended as too long. -/
def State.runExpired (s : State) (why : Why) : State := { s with conv := { Convoy.fresh with expired := some why } }.runHart

end Sys2Proof.Machine
end

