-- ==== Sys2Proof/Machine/Outside.lean ====
section
/-! DEFINITION. Requests from outside the module, and the moves of pages that hold them: the host, CXL pool agents and peer modules
(R13, R230, R241, R294, R295, R358, R370, R371, R393). -/

namespace Sys2Proof.Machine

/-! ### One request -/

/-- Bytes with their addresses, as runs of consecutive addresses. -/
def addressRuns : List (Nat × Byte) → List (Nat × List Byte)
  | [] => []
  | (a, b) :: r =>
    match addressRuns r with
    | (c, bs) :: t => if c = a + 1 then (a, b :: bs) :: t else (a, [b]) :: (c, bs) :: t
    | [] => [(a, [b])]

/-- A run of bytes written from outside, to registers or to memory. DESIGN CHOICE: it stamps one tag for each 8 bytes, aligned where they
are (R248; log entry 89). -/
def State.outsideRun (s : State) (r : Nat × List Byte) : State :=
  match regionOf r.1 with
  | .regs => s.regWrite (r.1 - regsBase) r.2
  | .hbm | .drawer | .cxl | .tcm _ | .csp _ | .serai _ | .reserved => s.poke r.1 r.2 8

/-- The first address of a request. -/
def Outside.first (o : Outside) : Nat := o.at_.headD 0

/-- The bytes that a request reads, and whether one of them lies in a poisoned unit (R358). -/
def State.outsideBytes (s : State) (o : Outside) : List Byte × Bool :=
  match regionOf o.first with
  | .regs => (s.regRead (o.first - regsBase) o.at_.length, false)
  | .hbm | .drawer | .cxl | .tcm _ | .csp _ | .serai _ | .reserved =>
    (o.at_.map fun a => Memory.get s.mem a, o.at_.any fun a => (s.poisonAt a 1).isSome)

/-- A request from outside performed: a host read answers its requester; an atomic that reads poison writes nothing (R13, R358, R370). -/
def State.outside (s : State) (o : Outside) : State :=
  let r := s.outsideBytes o
  match o.kind.toNat with
  | 0 => if o.rq.isSome then { s with hostRead := r } else s
  | 1 => (addressRuns (o.at_.zip o.bytes)).foldl State.outsideRun s
  | k =>
    let n := o.at_.length
    if (n ≠ 4 ∧ n ≠ 8) ∨ o.first % n ≠ 0 ∨ r.2 then s
    else s.poke o.first (leBytes n (if k = 2 then leNat r.1 + leNat o.bytes else leNat o.bytes)) n

/-- A request is a write of a launch queue's TAIL (R241, R298). -/
def Outside.rings (o : Outside) : Bool := o.kind == 1 && o.at_.any fun a => regsBase + 0x100000 ≤ a && a < regsBase + 0x101000

/-- A request waits: it reaches a line that pgmove has marked (R295), or it follows a posted write of its requester that waits; a doorbell
does so whatever its own attribute, and a request that reads does not overtake an earlier one (R241). `before` are the requests that wait
already. -/
def State.outsideWaits (s : State) (before : List Outside) (o : Outside) : Bool :=
  (o.at_.any fun a => s.pageMoves.any fun m => m.old ≤ a && a < m.old + 65536) ||
    (o.rq.isSome && before.any fun k => k.rq == o.rq &&
      ((k.kind == 1 && !k.relaxed && (!o.relaxed || o.rings)) || (k.kind == 0 && o.kind == 0)))

/-- A request from outside arrives. -/
def State.arrive (s : State) (o : Outside) : State :=
  if s.outsideWaits s.stalled o then { s with stalled := s.stalled ++ [o] } else s.outside o

/-- The requests that wait are performed in order, as far as they can be. -/
def retryFrom : List Outside → List Outside → State → State
  | [], kept, s => { s with stalled := kept }
  | o :: r, kept, s => if s.outsideWaits kept o then retryFrom r (kept ++ [o]) s else retryFrom r kept (s.outside o)

/-- The requests that wait are tried again. -/
def State.retryOutside (s : State) : State := retryFrom s.stalled [] s

/-- A request for n bytes from an address on. -/
def Outside.at (rq : Option Nat) (relaxed : Bool) (kind : BitVec 2) (pa n : Nat) (data : List Byte) : Outside :=
  ⟨rq, relaxed, kind, (List.range n).map fun k => pa + k, data⟩

/-! ### The host and the peers -/

/-- HOST_REQUEST (R216, R241, R295, R358, R393, R403): a host write or read, of registers through BAR0 or of device memory. A read of
poison returns the EP attribute; in Talk only the mailbox answers; and no TCM is reached. DESIGN CHOICE: a request to a reserved address, or
beyond the configured size of a region, has no effect (R213; log entry 89). -/
def State.hostRequest (s : State) (rq : Nat) (relaxed write : Bool) (pa n : Nat) (data : List Byte) : State :=
  let go := s.arrive (Outside.at (some rq) relaxed (if write then 1 else 0) pa (if write then data.length else n) data)
  match regionOf pa with
  | .regs => if s.mstate = .talk ∧ (blockOf (pa - regsBase)).1 ≠ .mbox then s else go
  | .reserved | .tcm _ => s
  | .hbm | .drawer | .cxl | .csp _ | .serai _ =>
    if s.mstate = .talk ∨ !s.configured pa ∨ !s.configured (pa + (if write then data.length else n) - 1) then s else go

/-- DOORBELL (R241, R298): a requester of the host writes TAIL of a launch queue, after the posted writes that it follows. -/
def State.ring (s : State) (rq : Nat) (q : BitVec 6) (tail : BitVec 32) : State :=
  let o := Outside.at (some rq) false 1 (regsBase + 0x100008 + 64 * q.toNat) 4 (leBytes 4 tail.toNat)
  if s.outsideWaits s.stalled o then { s with stalled := s.stalled ++ [o] } else s.doorbell q tail

/-- CXL_BACK_INVALIDATION (R230): a pool agent's write to a line of tier X; the LLC's copy goes. -/
def State.cxlWrite (s : State) (pa : Nat) (data : List Byte) : State :=
  if regionOf pa = .cxl ∧ s.configured (pa + data.length - 1) then s.arrive (Outside.at none false 1 pa data.length data) else s

/-- PEER_MODULE_ACCESS (R13, R295, R370): a read (0), a write (1), an atomic add (2) or a swap (3) of another module on a region that the
modules share, applied at the drawer. -/
def State.peer (s : State) (kind : BitVec 2) (pa n : Nat) (data : List Byte) : State :=
  if s.sharedPa pa && s.sharedPa (pa + n - 1) then s.arrive (Outside.at none false kind pa n data) else s

/-! ### Moves of pages -/

/-- The first line of a moving page, old or new, whose trunk carries nothing (R371). -/
def State.pageBlocked (s : State) (m : PageMove) : Option Nat := s.moveBlocked m.old m.new

/-- The state with a move of a page changed. -/
def State.onPageMove (s : State) (id : Nat) (f : PageMove → PageMove) : State :=
  { s with pageMoves := s.pageMoves.map fun m => if m.hart = id then f m else m }

/-- The copy of a page waits on a trunk, since now or since before; or it waits no more (R371). -/
def State.copyWaits (s : State) (m : PageMove) : PageMove :=
  { m with since := (s.pageBlocked m).map fun a => m.since.getD (a, s.cycle) }

/-- A request that waits at a moving page goes to the same place of another page (R295). -/
def Outside.forward (old new : Nat) (o : Outside) : Outside :=
  { o with at_ := o.at_.map fun a => if old ≤ a ∧ a < old + 65536 then a - old + new else a }

/-- The marks of a move are released: its page is to be found at `new`, and the requests that waited go on (R295, R371). -/
def State.releaseMarks (s : State) (m : PageMove) (new : Nat) : State :=
  ({ s with
    pageMoves := s.pageMoves.filter fun k => k.hart != m.hart
    pubs := s.pubs.map fun p => if m.old ≤ p.pa ∧ p.pa < m.old + 65536 then { p with pa := p.pa - m.old + new } else p
    sets := s.sets.map fun k => { k with moves := k.moves.map fun r => { r with
      pages := r.pages.map fun p => if p.2 = m.old then (p.1, new) else p } }
    stalled := s.stalled.map (Outside.forward m.old new) } : State).retryOutside

/-- MIGRATION_COMMIT (R294, R295): the page is copied, its leaf names the new page and its tier, and stalled accesses go on there. -/
def State.migrationCommit (s : State) (id : Nat) : State :=
  match s.pageMoves.find? fun m => m.hart == id with
  | none => s
  | some m =>
    if (s.pageBlocked m).isSome || s.wq.any fun w => overlaps m.old 65536 w.pa w.bytes.length then s.onPageMove id s.copyWaits
    else
      let e := (m.leaf &&& ~~~(0xFFFFFFFFFC080#64)) ||| (BitVec.ofNat 64 m.new) ||| (tierOf m.new <<< 14)
      ((s.copyPage m.old m.new).writePte m.leafPa e).releaseMarks m m.new

/-- A move abandoned (R371): M is cleared, the marks are released, and a record of kind 0x09 is logged, which names the hart's compute die
(log entry 88). -/
def State.dropMove (s : State) (m : PageMove) : State :=
  ((s.writePte m.leafPa m.leaf).releaseMarks m m.old).log 0x09 (BitVec.ofNat 8 (m.hart / 4 / 96)) 0 0 (BitVec.ofNat 64 m.old) m.va

end Sys2Proof.Machine
end

