-- ==== Sys2Proof/Machine/Pipeline.lean ====
section
/-! DEFINITION. The turns of harts and the steps of the device that belong to one hart: waits that end, retirements, traps, faults of
long waits, passes, and what a retired convoy leaves to be done later (R30, R39, R141, R143, R144, R184, R205, R291 to R296, R301,
R307, R310, R314, R323, R325, R333, R358, R371, R378, R399, R400). -/

namespace Sys2Proof.Machine

/-! ### Turns -/

/-- The turn of the current hart: a hart of an aborted gang stops, one that is to be switched out is, at its convoy boundary, and any
other one issues its convoy (R42, R314, R336). -/
def State.turn (s : State) : State :=
  if s.abortedHere then s.stopAborted
  else if s.hart.switchReq && s.switchable s.hart && s.freeFrame.isSome then s.switchOut
  else s.runHart.standing

/-- The turn of the hart of a slot, if it meets a condition. -/
def State.turnIf (s : State) (id : Nat) (p : Hart → Bool) : State := s.atHart id fun s => if p s.hart then s.turn else s

/-- What the hart waits for, if it waits. -/
def Hart.waitsFor (h : Hart) : Option Why :=
  match h.status with
  | .waiting why _ => some why
  | .running | .halted | .doubleTrap | .gone => none

/-- The turn of the hart of a slot, kept if a condition on the hart before and after it holds. A hart that has left its slot has
retired its last convoy. -/
def State.turnKept (s : State) (id : Nat) (p : Hart → Option Hart → Bool) : State :=
  match s.focus id with
  | none => s
  | some q =>
    let t := q.turn
    if p q.hart (t.hartAt id) then t else s

/-- A convoy of the hart retired. -/
def retiredNow (h : Hart) : Option Hart → Bool
  | none => true
  | some k => k.convoys != h.convoys

/-- A trap of the hart was delivered, or stopped it (R325, R327). -/
def trappedNow (h : Hart) : Option Hart → Bool
  | none => false
  | some k => (k.status == .doubleTrap && h.status != .doubleTrap) || (!h.tip && k.tip && k.pc == k.tvec && k.priv == .s)

/-- The hart restarted from its checkpoint (R384). -/
def rewoundNow (h : Hart) : Option Hart → Bool
  | none => false
  | some k => match h.check, k.check with
    | some a, some b => b.taken == a.taken + 1
    | _, _ => false

/-- The current hart has waited for longer than a threshold (R295, R333, R371). -/
def State.overdue (s : State) (limit : Nat) : Bool :=
  match s.hart.status with
  | .waiting _ since => limit < s.cycle - since
  | .running | .halted | .doubleTrap | .gone => false

/-! ### Waits that end -/

/-- PARKED_HART_GRANT (R39). -/
def execParkedHartGrant (h : Nat) (s : State) : Out :=
  .next (s.turnIf h fun k => match k.waitsFor with | some (.lanes _) | some .handover => true | _ => false)

/-- VREL_GROUP_RELEASE (R144). -/
def execVrelGroupRelease (h : Nat) (s : State) : Out := .next (s.passOn (h / 4) (h % 4))

/-- VSETVLW_SATISFIED (R141). -/
def execVsetvlwSatisfied (h : Nat) (s : State) : Out := .next (s.turnIf h fun k => match k.waitsFor with | some (.watermark _) => true | _ => false)

/-- VWAIT_ROUND (R184). -/
def execVwaitRound (h : Nat) (s : State) : Out := .next (s.turnIf h fun k => k.waitsFor == some .watch)

/-- PSWAIT_SATISFIED (R277). -/
def execPswaitSatisfied (h : Nat) (s : State) : Out := .next (s.turnIf h fun k => k.waitsFor == some .version)

/-- LAUNCH_ACCEPT (R301). -/
def execLaunchAccept (h : Nat) (s : State) : Out :=
  .next (s.turnIf h fun k => k.waitsFor == some .writes || k.waitsFor == some .accept)

/-- VXSEND_PUSH (R310). -/
def execVxsendPush (h : Nat) (s : State) : Out := .next (s.turnIf h fun k => k.waitsFor == some .push)

/-- VXRECV_POP (R310). -/
def execVxrecvPop (h : Nat) (s : State) : Out := .next (s.turnIf h fun k => k.waitsFor == some .pop)

/-- FENCE_W_COMPLETE (R131). -/
def execFenceWComplete (h : Nat) (s : State) : Out := .next (s.turnIf h fun k => k.waitsFor == some .writes)

/-! ### Convoys -/

/-- The word that a mismatch strikes: the one it names, where that is one that its site fits, or the first such (R377, R378). -/
def mismatchWord (ws : List (BitVec 32)) (k site : Nat) : Option Nat :=
  let fits := fun (k : Nat) => ws[k]?.any fun w => comparedAt w site
  if fits k then some k else (List.range ws.length).find? fits

/-- A mismatch of the mirrors (R377, R378): it strikes the convoy of a protected hart before its write phase, at a site that one of its
words has and a primary lane of the hart, once the breakpoint that is due has been taken (R399), and at a tile only as it is accepted
(R387). Bits [13:12] of `mis` name the word, and the rest the lane and the site. -/
def State.mismatch (s : State) (mis : BitVec 14) : State :=
  let site := (mis.extractLsb' 0 8).toNat
  match s.hart.status with
  | .running | .waiting _ _ =>
    if !s.hart.prot || s.hart.due.isSome || s.hart.resume.isSome || s.hart.breaks || s.hart.plane ≤ (mis.extractLsb' 8 4).toNat then s
    else
      match s.convoyWords with
      | .trap _ _ | .wait _ => s
      | .words ws =>
        match mismatchWord ws (mis.extractLsb' 12 2).toNat site with
        | none => s
        | some k =>
          let z := (s.beginConvoy ws).judge ws
          if !isVector ws || z.cause.any (beforeMismatch k site) || (site = 0x82 && !z.done.getLsbD k) then s
          else s.mismatchAt k (mis.extractLsb' 0 12)
  | .halted | .doubleTrap | .gone => s

/-- VECTOR_CONVOY_START (R30, R378): the vector convoy at pc starts; `mis` is the mismatch its mirrors show, if they show one. -/
def execVectorConvoyStart (h : Nat) (mis : Option (BitVec 14)) (s : State) : Out :=
  .next (match mis with
    | some v => s.atHart h fun s => s.mismatch v
    | none => s.atHart h fun q =>
      match q.convoyWords with
      | .words ws => if isVector ws then q.turn else q
      | .trap _ _ | .wait _ => q)

/-- CONVOY_RETIRE (R323). -/
def execConvoyRetire (h : Nat) (s : State) : Out := .next (s.turnKept h retiredNow)

/-- ELEMENT_STEP (R400). -/
def execElementStep (h : Nat) (s : State) : Out := .next (s.turnIf h fun k => k.stepping 2)

/-- INSTRUCTION_BREAKPOINT (R399). -/
def execInstructionBreakpoint (h : Nat) (s : State) : Out := .next (s.turnIf h Hart.breaks)

/-- TRAP_DELIVERY (R325). -/
def execTrapDelivery (h : Nat) (s : State) : Out := .next (s.turnKept h trappedNow)

/-- POISON_CONSUMED (R358, R384). -/
def execPoisonConsumed (h : Nat) (s : State) : Out :=
  .next (s.turnKept h fun a b => rewoundNow a b ||
    (trappedNow a b && b.any fun k => k.tcause.extractLsb' 0 8 == 0x10 || k.status == .doubleTrap))

/-- A drawer request of the current hart for one of some lines that has been at its trunk, or on its way back, for longer than STALLTHR
(R333). -/
def State.lateRequest (s : State) (lines : List Nat) (write : Bool) : Option Nat :=
  let rs := s.trunks.toList.flatMap fun t => t.waiting ++ t.again ++ t.flying.map fun f => f.1
  lines.find? fun l => rs.any fun r => !r.posted && r.gang == s.hart.gangid && r.hartix == s.hart.hartix && r.write == write &&
    r.line == l && s.stallthr.toNat < s.cycle - r.since

/-- A write or a publication of the current hart, or the acknowledgement of one, has waited on a trunk for longer than STALLTHR (R333, R344,
R345). -/
def State.lateWrite (s : State) : Bool :=
  (s.wq.any fun w => w.mine s.hart && s.stalledWrite w) ||
    (s.ownPubs.any s.stalledPub) || s.acksDue.any fun r => s.stallthr.toNat < s.cycle - r.since

/-- STALL_FAULT (R333, R344): the hart has waited on a trunk for longer than STALLTHR. -/
def execStallFault (h : Nat) (s : State) : Out :=
  .next (s.atHart h fun s =>
    match s.hart.waitsFor with
    | some (.trunk ls w) => match s.lateRequest ls w with | some l => s.runExpired (.trunk [l] w) | none => s
    | some (.watermark ls) => match s.lateRequest ls false with | some l => s.runExpired (.watermark [l]) | none => s
    | some .writes => if s.hart.due.isNone && s.lateWrite then s.runExpired .writes else s
    | _ => s)

/-- MIGRATION_FAULT (R295): the hart has been held at a moving page for longer than MIGTHR. -/
def execMigrationFault (h : Nat) (s : State) : Out :=
  .next (s.atHart h fun s =>
    match s.hart.waitsFor with
    | some (.migration p) => if s.overdue s.migthr.toNat then s.runExpired (.migration p) else s
    | _ => s)

/-- PASS_COMPLETE (R205): one pass of the matrix instruction of the convoy at pc. -/
def execPassComplete (h : Nat) (s : State) : Out :=
  .next (s.atHart h fun s =>
    match s.convoyWords with
    | .words ws =>
      if ws.any fun w => majOf w == 26 then { s with conv := { Convoy.fresh with onePass := true } }.runHart else s
    | .trap _ _ | .wait _ => s)

/-! ### Left to be done later -/

/-- The first publication of the hart that made one in a slot is performed, once what it releases is performed and nothing keeps it from
its ordering point (R143, R239, R402). -/
def State.publishFirst (s : State) (h : Nat) : State :=
  match s.pubs.find? fun p => p.hart == h && !p.poisoned with
  | none => s
  | some k =>
    match s.pubs.find? fun p => p.gang == k.gang && p.hartix == k.hartix && !p.poisoned with
    | none => s
    | some p =>
      let t := s.readyPub p
      if t.2 && t.1.servesPub p then t.1.performPub p else s

/-- PUBLICATION (R143). -/
def execPublication (h : Nat) (s : State) : Out := .next (s.publishFirst h)

/-- EXIT_GDROP_APPLY (R307). -/
def execExitGdropApply (k : Nat) (s : State) : Out := .next (s.exitDrop k)

/-! ### Pages -/

/-- COW_RESOLUTION (R291). -/
def execCowResolution (h : Nat) (va : Word) (s : State) : Out := .next (s.cowResolve h va)

/-- PAGE_WALK (R287). -/
def execPageWalk (h : Nat) (va : Word) (s : State) : Out := .next (s.pageWalk h va)

/-- HOTNESS_ADDITION (R292). -/
def execHotnessAddition (k : Nat) (s : State) : Out := .next (s.hotnessAddition k)

/-- MIGRATION_COMMIT (R294). -/
def execMigrationCommit (h : Nat) (s : State) : Out := .next (s.migrationCommit h)

/-- MIGRATION_ABANDON (R371): a move whose copy has waited on a trunk for longer than STALLTHR is given up, and its pgmove takes the stall
fault. A copy that a trunk has begun to hold up waits from now on. -/
def execMigrationAbandon (h : Nat) (s : State) : Out :=
  .next (
    match s.pageMoves.find? fun m => m.hart == h with
    | none => s
    | some m =>
      if (s.pageBlocked m).isSome && m.since.any fun e => e.2 + s.stallthr.toNat < s.cycle then
        (s.dropMove m).atHart h fun s =>
          match s.hart.waitsFor with
          | some (.move va at_ e new) => s.runExpired (.move va at_ e new)
          | _ => s
      else s.onPageMove h s.copyWaits)

/-! ### Context switches -/

/-- RECLAIM_DEADLINE (R42). -/
def execReclaimDeadline (h : Nat) (s : State) : Out := .next (s.deadline h)

/-- FULL_CONTEXT_SWITCH (R314). -/
def execFullContextSwitch (h : Nat) (s : State) : Out := .next (s.atHart h State.switchOut)

/-- HART_RESUME (R314). -/
def execHartResume (k h : Nat) (s : State) : Out := .next (s.resumeHart k h)

/-! ### Between turns -/

/-- The recorded list at a place is applied, or waits: the place of the next one (R259). -/
def State.sampleAt (s : State) (k : Nat) : Nat × State :=
  let t := s.sketchUpdate k
  (if t.samples.length < s.samples.length then k else k + 1, t)

/-- What is on its way arrives, as far as it can: the writes of the harts, what their trunks carry, the acknowledgements of the CXL pool,
their publications, hotness additions, recorded lists, and the groups that the current hart gave up (R143, R144, R226, R230, R257,
R292). -/
def State.settle (s : State) : State :=
  let t := (s.releaseEverywhere fun _ => true).drain fun _ => true
  let t := t.serveTrunks
  let t := { t with unacked := [] }.drain fun _ => true
  let t := t.pubs.foldl (fun (t : State) p => t.publishFirst p.hart) t
  let t := t.hotPend.foldl (fun (t : State) _ => t.hotnessAddition 0) t
  let t := t.samples.foldl (fun (e : Nat × State) _ => e.2.sampleAt e.1) (0, t) |>.2
  t.passOn s.hart.core s.hart.slot

/-- A core fetches a line of instructions into its L1I, as its own queued writes leave it; a drawer line once a trunk has brought it (R132,
R226, R230). -/
def State.fillL1I (s : State) (core pa : Nat) : State :=
  let a := pa / 64 * 64
  let waits := s.overTrunk a && !(s.hart :: s.others).any fun h => h.core == core && h.got.contains (lineOf a, false)
  if !s.configured a || regionOf a == .regs || waits || (s.poisonAt a 64).isSome then s
  else { s with l1i := (s.l1i.filter fun l => !(l.core == core && l.pa == a)) ++ [⟨core, a, s.coreBytes core a 64⟩] }

/-- The core of a hart accepts the hart's held write at a place, and those that come before it (R230, R238). -/
def State.acceptAt (s : State) (id k : Nat) : State :=
  match s.hartAt id with
  | none => s
  | some h =>
    match h.held[k]? with
    | none => s
    | some w =>
      let r := s.acceptOf h fun x => x == w
      r.2.onHart id fun h => { h with held := r.1 }

/-- The drawer moves a page of tier D into its flash, or its management interface brings it back (R296). -/
def State.flash (s : State) (page : Nat) (absent : Bool) : State :=
  let rest := s.absentPages.filter fun p => p != page
  if regionOf page != .drawer || page % 65536 != 0 then s
  else { s with absentPages := if absent then rest ++ [page] else rest }

/-- The cycle counter after a step (R136; log entry 7). -/
def State.tick (s : State) : State := { s with cycle := s.cycle + 1 + Config.stepCycles s.cycle }

end Sys2Proof.Machine
end

