-- ==== Sys2Proof/Machine/Events.lean ====
section
/-! DEFINITION. The steps of the device that belong to no hart: registers, the mailbox, the launch front end, memory and links, the
renumbering unit, the host and the module states. -/

namespace Sys2Proof.Machine

/-! ### Device registers -/

/-- Registers other than the mailbox answer in every state but Talk (R393). -/
def State.unlessTalk (s t : State) : State := if s.mstate = .talk then s else t

/-- DOORBELL (R241, R298): a requester of the host writes TAIL. -/
def execDoorbell (q : HostRing) (tail : BitVec 32) (s : State) : Out := .next (s.unlessTalk (s.ring q.rq q.queue tail))

/-- GANG_ABORT (R336): harts of the gang stand at convoy boundaries, or wait, and stop. -/
def execGangAbort (id : Word) (s : State) : Out :=
  .next (s.unlessTalk (
    let t := s.abort id
    if t.abortedHere then t.stopAborted else t))

/-- DEVICE_REGISTER_WRITE (R403): 1, 2, 4 or 8 bytes at an offset of the register region. -/
def execDeviceRegisterWrite (off : BitVec 44) (lg : BitVec 2) (val : Word) (s : State) : Out :=
  .next (s.regWrite off.toNat (leBytes (2 ^ lg.toNat) val.toNat))

/-- SERAI_WRITE (R218). -/
def execSeraiWrite (d : BitVec 2) (val : Word) (s : State) : Out := .next (s.unlessTalk (s.seraiSet d.toNat (val.extractLsb' 0 5)))

/-- LLCREQ_WRITE (R228). -/
def execLlcreqWrite (val : Word) (s : State) : Out := .next (s.unlessTalk (s.llcSet (val.extractLsb' 0 8)))

/-- TGAPPLY (R222): bit 0 written as 1. -/
def execTgapply (val : Word) (s : State) : Out := .next (s.unlessTalk (if val.getLsbD 0 then s.requestChange (.tiles s.tgShadow) else s))

/-- SWAP (R225): bit 1 of the slot-table register written as 1. -/
def execSwap (val : Word) (s : State) : Out := .next (s.unlessTalk (if val.getLsbD 1 then s.requestSwap else s))

/-- RETRAIN (R369): bit 0 written as 1. -/
def execRetrain (t : BitVec 4) (val : Word) (s : State) : Out := .next (s.unlessTalk (if val.getLsbD 0 then s.retrain t else s))

/-! ### The mailbox -/

/-- GETREPORT (R395). -/
def execGetreport (s : State) : Out := .next (s.runCommand 1)

/-- GETMANIFEST (R396). -/
def execGetmanifest (s : State) : Out := .next (s.runCommand 2)

/-- INSTKEY (R396). -/
def execInstkey (s : State) : Out := .next (s.runCommand 3)

/-- FWLOAD (R396). -/
def execFwload (s : State) : Out := .next (s.runCommand 4)

/-- SWITCHOUT (R396). -/
def execSwitchout (s : State) : Out := .next (s.runCommand 5)

/-- RESUMEH (R396). -/
def execResumeh (s : State) : Out := .next (s.runCommand 6)

/-- GETEVENT (R396). -/
def execGetevent (s : State) : Out := .next (s.runCommand 7)

/-- MAILBOX_COMMAND_DONE (R396): the running command, whatever it is, ends. -/
def execMailboxCommandDone (s : State) : Out := .next (if s.mbox.busy then s.command else s)

/-! ### The launch front end -/

/-- PACKET_OFFER (R302). -/
def execPacketOffer (q : BitVec 6) (s : State) : Out := .next (s.packetOffer q)

/-- WATERMARK_READ (R22). -/
def execWatermarkRead (q : BitVec 6) (s : State) : Out := .next (s.watermarkRead q)

/-- LAUNCH_AGING (R45). -/
def execLaunchAging (q : BitVec 6) (s : State) : Out := .next (s.age q)

/-- GANG_SERVE (R302). -/
def execGangServe (s : State) : Out := .next s.serve

/-- GANG_PLACEMENT (R303). -/
def execGangPlacement (places : List Nat) (s : State) : Out := .next (s.placement places)

/-- COMPLETION_RECORD (R305). -/
def execCompletionRecord (id : Word) (s : State) : Out :=
  .next (if BitVec.zeroExtend 64 (id.extractLsb' 0 48) = id then s.completion (id.extractLsb' 0 48) else s)

/-! ### Memory -/

/-- WRITE_PERFORMED (R231). -/
def execWritePerformed (k units grow : Nat) (s : State) : Out := .next (s.writePerformed k units grow)

/-- SLICE_REQUEST (R364). -/
def execSliceRequest (core line : Nat) (write : Bool) (epoch : BitVec 32) (full : Bool) (s : State) : Out :=
  .next (s.sliceRequest core line write epoch full)

/-- RETRY_RESEND (R363). -/
def execRetryResend (k : Nat) (s : State) : Out := .next (s.retryResend k)

/-- RESERVE_EVICTION (R362). -/
def execReserveEviction (slice chunks : Nat) (s : State) : Out := .next (s.evict slice chunks)

/-- SLICE_MAP_CHANGE (R364). -/
def execSliceMapChange (lines : List Nat) (done : Bool) (s : State) : Out := .next (s.mapChange lines done)

/-- CORRECTED_ERROR (R356). -/
def execCorrectedError (k : BitVec 3) (s : State) : Out := .next (s.corrected k)

/-- POISON_CREATED (R357). -/
def execPoisonCreated (pa : Nat) (mem : BitVec 3) (packed : Bool) (s : State) : Out := .next (s.poisonCreated pa mem packed)

/-- TAG_DIRECTORY_ERROR (R359). -/
def execTagDirectoryError (line : Nat) (dirty : Bool) (s : State) : Out := .next (s.tagError line dirty)

/-- SEQUENCE_COUNTER_LOST (R365). -/
def execSequenceCounterLost (line : Nat) (s : State) : Out := .next (s.counterLost line)

/-! ### Trunks -/

/-- SLOT_BANK_SWAP (R225). -/
def execSlotBankSwap (s : State) : Out := .next s.bankSwap

/-- SLOT_DEPARTURE (R226). -/
def execSlotDeparture (t : BitVec 4) (s : State) : Out := .next (s.slotDeparture t)

/-- DRAWER_RETURN (R226). -/
def execDrawerReturn (t : BitVec 4) (s : State) : Out := .next (s.drawerReturn t)

/-- FLIT_CHECK_FAILURE (R366). -/
def execFlitCheckFailure (t : BitVec 4) (s : State) : Out := .next (s.flitFailure t)

/-- TRUNK_RETRAIN_START (R367). -/
def execTrunkRetrainStart (t : BitVec 4) (lock : Bool) (s : State) : Out := .next (s.retrainStart t lock)

/-- RETRAIN_ATTEMPT_END (R367). -/
def execRetrainAttemptEnd (t : BitVec 4) (fib : Nat) (s : State) : Out := .next (s.attemptEnd t fib)

/-! ### Agents outside -/

/-- HOST_REQUEST (R241). -/
def execHostRequest (a : HostAccess) (pa n : Nat) (data : List Byte) (s : State) : Out :=
  .next (s.hostRequest a.rq a.relaxed a.write pa n data)

/-- CXL_BACK_INVALIDATION (R230). -/
def execCxlBackInvalidation (pa : Nat) (data : List Byte) (s : State) : Out := .next (s.cxlWrite pa data)

/-- PEER_MODULE_ACCESS (R13). -/
def execPeerModuleAccess (kind : BitVec 2) (pa n : Nat) (data : List Byte) (s : State) : Out := .next (s.peer kind pa n data)

/-! ### The renumbering unit -/

/-- NUMBERING (R260). -/
def execNumbering (psd : Nat) (s : State) : Out := .next (s.numbering psd)

/-- IMPORT_VALIDATION (R261). -/
def execImportValidation (psd : Nat) (s : State) : Out := .next (s.importValidation psd)

/-- ROW_MOVE_START (R263). -/
def execRowMoveStart (psd cyc : Nat) (s : State) : Out := .next (s.rowMoveStart psd cyc)

/-- COPY_ROUND_COMPLETE (R263). -/
def execCopyRoundComplete (psd cyc : Nat) (s : State) : Out := .next (s.copyRound psd cyc)

/-- ROW_COMMIT (R267). -/
def execRowCommit (psd cyc : Nat) (s : State) : Out := .next (s.rowCommit psd cyc)

/-- PTC_ACK (R255). -/
def execPtcAck (psd row : Nat) (s : State) : Out := .next (s.ptcAck psd row)

/-- REORDER_STOP (R373). -/
def execReorderStop (psd cyc : Nat) (reason : BitVec 8) (s : State) : Out := .next (s.reorderStop psd cyc reason)

/-- SKETCH_UPDATE (R259). -/
def execSketchUpdate (k : Nat) (s : State) : Out := .next (s.sketchUpdate k)

/-! ### Module states -/

/-- MODULE_RESET (R393). -/
def execModuleReset (s : State) : Out := .next s.moduleReset

/-- BOOT_VERIFY (R394). -/
def execBootVerify (s : State) : Out := .next s.bootVerify

/-- SELFTEST_COMPLETE (R393). -/
def execSelftestComplete (s : State) : Out := .next s.selftestComplete

end Sys2Proof.Machine
end

