-- ==== Sys2Proof/Machine/Dispatch.lean ====
section
/-! DEFINITION. The meaning of every instruction: one arm per row of the opcode table. -/

namespace Sys2Proof.Machine

def exec (i : Instr) (s : State) : Host.Outcome State Fault Refusal :=
  match i with
  | .doorbell q tail => Sys2Proof.Machine.execDoorbell q tail s
  | .gangAbort id => Sys2Proof.Machine.execGangAbort id s
  | .deviceRegisterWrite off lg val => Sys2Proof.Machine.execDeviceRegisterWrite off lg val s
  | .seraiWrite d val => Sys2Proof.Machine.execSeraiWrite d val s
  | .llcreqWrite val => Sys2Proof.Machine.execLlcreqWrite val s
  | .tgapply val => Sys2Proof.Machine.execTgapply val s
  | .swap val => Sys2Proof.Machine.execSwap val s
  | .retrain t val => Sys2Proof.Machine.execRetrain t val s
  | .getreport => Sys2Proof.Machine.execGetreport s
  | .getmanifest => Sys2Proof.Machine.execGetmanifest s
  | .instkey => Sys2Proof.Machine.execInstkey s
  | .fwload => Sys2Proof.Machine.execFwload s
  | .switchout => Sys2Proof.Machine.execSwitchout s
  | .resumeh => Sys2Proof.Machine.execResumeh s
  | .getevent => Sys2Proof.Machine.execGetevent s
  | .packetOffer q => Sys2Proof.Machine.execPacketOffer q s
  | .watermarkRead q => Sys2Proof.Machine.execWatermarkRead q s
  | .launchAging q => Sys2Proof.Machine.execLaunchAging q s
  | .gangServe => Sys2Proof.Machine.execGangServe s
  | .gangPlacement places => Sys2Proof.Machine.execGangPlacement places s
  | .reclaimDeadline h => Sys2Proof.Machine.execReclaimDeadline h s
  | .fullContextSwitch h => Sys2Proof.Machine.execFullContextSwitch h s
  | .hartResume k h => Sys2Proof.Machine.execHartResume k h s
  | .completionRecord id => Sys2Proof.Machine.execCompletionRecord id s
  | .parkedHartGrant h => Sys2Proof.Machine.execParkedHartGrant h s
  | .vrelGroupRelease h => Sys2Proof.Machine.execVrelGroupRelease h s
  | .vectorConvoyStart h mis => Sys2Proof.Machine.execVectorConvoyStart h mis s
  | .convoyRetire h => Sys2Proof.Machine.execConvoyRetire h s
  | .elementStep h => Sys2Proof.Machine.execElementStep h s
  | .instructionBreakpoint h => Sys2Proof.Machine.execInstructionBreakpoint h s
  | .trapDelivery h => Sys2Proof.Machine.execTrapDelivery h s
  | .poisonConsumed h => Sys2Proof.Machine.execPoisonConsumed h s
  | .stallFault h => Sys2Proof.Machine.execStallFault h s
  | .migrationFault h => Sys2Proof.Machine.execMigrationFault h s
  | .passComplete h => Sys2Proof.Machine.execPassComplete h s
  | .cowResolution h va => Sys2Proof.Machine.execCowResolution h va s
  | .pageWalk h va => Sys2Proof.Machine.execPageWalk h va s
  | .hotnessAddition k => Sys2Proof.Machine.execHotnessAddition k s
  | .publication h => Sys2Proof.Machine.execPublication h s
  | .vsetvlwSatisfied h => Sys2Proof.Machine.execVsetvlwSatisfied h s
  | .vwaitRound h => Sys2Proof.Machine.execVwaitRound h s
  | .pswaitSatisfied h => Sys2Proof.Machine.execPswaitSatisfied h s
  | .exitGdropApply k => Sys2Proof.Machine.execExitGdropApply k s
  | .launchAccept h => Sys2Proof.Machine.execLaunchAccept h s
  | .vxsendPush h => Sys2Proof.Machine.execVxsendPush h s
  | .vxrecvPop h => Sys2Proof.Machine.execVxrecvPop h s
  | .fenceWComplete h => Sys2Proof.Machine.execFenceWComplete h s
  | .writePerformed k units grow => Sys2Proof.Machine.execWritePerformed k units grow s
  | .sliceRequest core line write epoch full => Sys2Proof.Machine.execSliceRequest core line write epoch full s
  | .retryResend k => Sys2Proof.Machine.execRetryResend k s
  | .reserveEviction slice chunks => Sys2Proof.Machine.execReserveEviction slice chunks s
  | .sliceMapChange lines done => Sys2Proof.Machine.execSliceMapChange lines done s
  | .slotBankSwap => Sys2Proof.Machine.execSlotBankSwap s
  | .slotDeparture t => Sys2Proof.Machine.execSlotDeparture t s
  | .drawerReturn t => Sys2Proof.Machine.execDrawerReturn t s
  | .flitCheckFailure t => Sys2Proof.Machine.execFlitCheckFailure t s
  | .trunkRetrainStart t lock => Sys2Proof.Machine.execTrunkRetrainStart t lock s
  | .retrainAttemptEnd t fib => Sys2Proof.Machine.execRetrainAttemptEnd t fib s
  | .correctedError k => Sys2Proof.Machine.execCorrectedError k s
  | .poisonCreated pa mem packed => Sys2Proof.Machine.execPoisonCreated pa mem packed s
  | .tagDirectoryError line dirty => Sys2Proof.Machine.execTagDirectoryError line dirty s
  | .sequenceCounterLost line => Sys2Proof.Machine.execSequenceCounterLost line s
  | .hostRequest a pa n data => Sys2Proof.Machine.execHostRequest a pa n data s
  | .cxlBackInvalidation pa data => Sys2Proof.Machine.execCxlBackInvalidation pa data s
  | .numbering psd => Sys2Proof.Machine.execNumbering psd s
  | .importValidation psd => Sys2Proof.Machine.execImportValidation psd s
  | .rowMoveStart psd cyc => Sys2Proof.Machine.execRowMoveStart psd cyc s
  | .copyRoundComplete psd cyc => Sys2Proof.Machine.execCopyRoundComplete psd cyc s
  | .rowCommit psd cyc => Sys2Proof.Machine.execRowCommit psd cyc s
  | .ptcAck psd row => Sys2Proof.Machine.execPtcAck psd row s
  | .reorderStop psd cyc reason => Sys2Proof.Machine.execReorderStop psd cyc reason s
  | .sketchUpdate k => Sys2Proof.Machine.execSketchUpdate k s
  | .migrationCommit h => Sys2Proof.Machine.execMigrationCommit h s
  | .migrationAbandon h => Sys2Proof.Machine.execMigrationAbandon h s
  | .moduleReset => Sys2Proof.Machine.execModuleReset s
  | .bootVerify => Sys2Proof.Machine.execBootVerify s
  | .selftestComplete => Sys2Proof.Machine.execSelftestComplete s
  | .peerModuleAccess kind pa n data => Sys2Proof.Machine.execPeerModuleAccess kind pa n data s
  | .mailboxCommandDone => Sys2Proof.Machine.execMailboxCommandDone s
  | .add d a b => Sys2Proof.Machine.execAdd d a b s
  | .sub d a b => Sys2Proof.Machine.execSub d a b s
  | .and d a b => Sys2Proof.Machine.execAnd d a b s
  | .or d a b => Sys2Proof.Machine.execOr d a b s
  | .xor d a b => Sys2Proof.Machine.execXor d a b s
  | .andn d a b => Sys2Proof.Machine.execAndn d a b s
  | .orn d a b => Sys2Proof.Machine.execOrn d a b s
  | .sll d a b => Sys2Proof.Machine.execSll d a b s
  | .srl d a b => Sys2Proof.Machine.execSrl d a b s
  | .sra d a b => Sys2Proof.Machine.execSra d a b s
  | .rotl d a b => Sys2Proof.Machine.execRotl d a b s
  | .rotr d a b => Sys2Proof.Machine.execRotr d a b s
  | .slt d a b => Sys2Proof.Machine.execSlt d a b s
  | .sltu d a b => Sys2Proof.Machine.execSltu d a b s
  | .min d a b => Sys2Proof.Machine.execMin d a b s
  | .max d a b => Sys2Proof.Machine.execMax d a b s
  | .minu d a b => Sys2Proof.Machine.execMinu d a b s
  | .maxu d a b => Sys2Proof.Machine.execMaxu d a b s
  | .mul d a b => Sys2Proof.Machine.execMul d a b s
  | .mulh d a b => Sys2Proof.Machine.execMulh d a b s
  | .mulhu d a b => Sys2Proof.Machine.execMulhu d a b s
  | .div d a b => Sys2Proof.Machine.execDiv d a b s
  | .divu d a b => Sys2Proof.Machine.execDivu d a b s
  | .rem d a b => Sys2Proof.Machine.execRem d a b s
  | .remu d a b => Sys2Proof.Machine.execRemu d a b s
  | .clz d a => Sys2Proof.Machine.execClz d a s
  | .ctz d a => Sys2Proof.Machine.execCtz d a s
  | .popc d a => Sys2Proof.Machine.execPopc d a s
  | .sextb d a => Sys2Proof.Machine.execSextb d a s
  | .sexth d a => Sys2Proof.Machine.execSexth d a s
  | .sextw d a => Sys2Proof.Machine.execSextw d a s
  | .zextw d a => Sys2Proof.Machine.execZextw d a s
  | .addi d a im => Sys2Proof.Machine.execAddi d a im s
  | .andi d a im => Sys2Proof.Machine.execAndi d a im s
  | .ori d a im => Sys2Proof.Machine.execOri d a im s
  | .xori d a im => Sys2Proof.Machine.execXori d a im s
  | .slti d a im => Sys2Proof.Machine.execSlti d a im s
  | .sltiu d a im => Sys2Proof.Machine.execSltiu d a im s
  | .slli d a sl => Sys2Proof.Machine.execSlli d a sl s
  | .srli d a sl => Sys2Proof.Machine.execSrli d a sl s
  | .srai d a sl => Sys2Proof.Machine.execSrai d a sl s
  | .muli d a im => Sys2Proof.Machine.execMuli d a im s
  | .movi d im => Sys2Proof.Machine.execMovi d im s
  | .movh d im => Sys2Proof.Machine.execMovh d im s
  | .smb c k l m n b p => Sys2Proof.Machine.execSmb c k l m n b p s
  | .beq a b o => Sys2Proof.Machine.execBeq a b o s
  | .bne a b o => Sys2Proof.Machine.execBne a b o s
  | .blt a b o => Sys2Proof.Machine.execBlt a b o s
  | .bge a b o => Sys2Proof.Machine.execBge a b o s
  | .bltu a b o => Sys2Proof.Machine.execBltu a b o s
  | .bgeu a b o => Sys2Proof.Machine.execBgeu a b o s
  | .jal d o => Sys2Proof.Machine.execJal d o s
  | .jalr d a im => Sys2Proof.Machine.execJalr d a im s
  | .lb d a h im => Sys2Proof.Machine.execLb d a h im s
  | .lbu d a h im => Sys2Proof.Machine.execLbu d a h im s
  | .lh d a h im => Sys2Proof.Machine.execLh d a h im s
  | .lhu d a h im => Sys2Proof.Machine.execLhu d a h im s
  | .lw d a h im => Sys2Proof.Machine.execLw d a h im s
  | .lwu d a h im => Sys2Proof.Machine.execLwu d a h im s
  | .ld d a h t im => Sys2Proof.Machine.execLd d a h t im s
  | .ldp d a h t im => Sys2Proof.Machine.execLdp d a h t im s
  | .sb d a h im => Sys2Proof.Machine.execSb d a h im s
  | .sh d a h im => Sys2Proof.Machine.execSh d a h im s
  | .sw d a h im => Sys2Proof.Machine.execSw d a h im s
  | .sd d a h t im => Sys2Proof.Machine.execSd d a h t im s
  | .sdp d a h t im => Sys2Proof.Machine.execSdp d a h t im s
  | .aadd d a b q r w u sl => Sys2Proof.Machine.execAadd d a b q r w u sl s
  | .aand d a b q r w u sl => Sys2Proof.Machine.execAand d a b q r w u sl s
  | .aor d a b q r w u sl => Sys2Proof.Machine.execAor d a b q r w u sl s
  | .axor d a b q r w u sl => Sys2Proof.Machine.execAxor d a b q r w u sl s
  | .amin d a b q r w u sl => Sys2Proof.Machine.execAmin d a b q r w u sl s
  | .amax d a b q r w u sl => Sys2Proof.Machine.execAmax d a b q r w u sl s
  | .aminu d a b q r w u sl => Sys2Proof.Machine.execAminu d a b q r w u sl s
  | .amaxu d a b q r w u sl => Sys2Proof.Machine.execAmaxu d a b q r w u sl s
  | .aswap d a b q r w u sl => Sys2Proof.Machine.execAswap d a b q r w u sl s
  | .acas d a b q r w u sl => Sys2Proof.Machine.execAcas d a b q r w u sl s
  | .ald d a q w u sl => Sys2Proof.Machine.execAld d a q w u sl s
  | .ast a b r w sl => Sys2Proof.Machine.execAst a b r w sl s
  | .fence m sl => Sys2Proof.Machine.execFence m sl s
  | .fenceSv m sl => Sys2Proof.Machine.execFenceSv m sl s
  | .fenceVs m sl => Sys2Proof.Machine.execFenceVs m sl s
  | .fenceW sl => Sys2Proof.Machine.execFenceW sl s
  | .fenceI => Sys2Proof.Machine.execFenceI s
  | .vsetvli d a v => Sys2Proof.Machine.execVsetvli d a v s
  | .vsetvl d a b => Sys2Proof.Machine.execVsetvl d a b s
  | .vsetvlw d a v => Sys2Proof.Machine.execVsetvlw d a v s
  | .vrel => Sys2Proof.Machine.execVrel s
  | .vaddVV d a b p f => Sys2Proof.Machine.execVaddVV d a b p f s
  | .vsubVV d a b p f => Sys2Proof.Machine.execVsubVV d a b p f s
  | .vsaddVV d a b p f => Sys2Proof.Machine.execVsaddVV d a b p f s
  | .vssubVV d a b p f => Sys2Proof.Machine.execVssubVV d a b p f s
  | .vmulVV d a b p f => Sys2Proof.Machine.execVmulVV d a b p f s
  | .vmulhVV d a b p f => Sys2Proof.Machine.execVmulhVV d a b p f s
  | .vandVV d a b p f => Sys2Proof.Machine.execVandVV d a b p f s
  | .vorVV d a b p f => Sys2Proof.Machine.execVorVV d a b p f s
  | .vxorVV d a b p f => Sys2Proof.Machine.execVxorVV d a b p f s
  | .vsllVV d a b p f => Sys2Proof.Machine.execVsllVV d a b p f s
  | .vsrlVV d a b p f => Sys2Proof.Machine.execVsrlVV d a b p f s
  | .vsraVV d a b p f => Sys2Proof.Machine.execVsraVV d a b p f s
  | .vminVV d a b p f => Sys2Proof.Machine.execVminVV d a b p f s
  | .vmaxVV d a b p f => Sys2Proof.Machine.execVmaxVV d a b p f s
  | .vminuVV d a b p f => Sys2Proof.Machine.execVminuVV d a b p f s
  | .vmaxuVV d a b p f => Sys2Proof.Machine.execVmaxuVV d a b p f s
  | .vaddVX d a b p f => Sys2Proof.Machine.execVaddVX d a b p f s
  | .vsubVX d a b p f => Sys2Proof.Machine.execVsubVX d a b p f s
  | .vsaddVX d a b p f => Sys2Proof.Machine.execVsaddVX d a b p f s
  | .vssubVX d a b p f => Sys2Proof.Machine.execVssubVX d a b p f s
  | .vmulVX d a b p f => Sys2Proof.Machine.execVmulVX d a b p f s
  | .vmulhVX d a b p f => Sys2Proof.Machine.execVmulhVX d a b p f s
  | .vandVX d a b p f => Sys2Proof.Machine.execVandVX d a b p f s
  | .vorVX d a b p f => Sys2Proof.Machine.execVorVX d a b p f s
  | .vxorVX d a b p f => Sys2Proof.Machine.execVxorVX d a b p f s
  | .vsllVX d a b p f => Sys2Proof.Machine.execVsllVX d a b p f s
  | .vsrlVX d a b p f => Sys2Proof.Machine.execVsrlVX d a b p f s
  | .vsraVX d a b p f => Sys2Proof.Machine.execVsraVX d a b p f s
  | .vminVX d a b p f => Sys2Proof.Machine.execVminVX d a b p f s
  | .vmaxVX d a b p f => Sys2Proof.Machine.execVmaxVX d a b p f s
  | .vminuVX d a b p f => Sys2Proof.Machine.execVminuVX d a b p f s
  | .vmaxuVX d a b p f => Sys2Proof.Machine.execVmaxuVX d a b p f s
  | .vaddi d b p im => Sys2Proof.Machine.execVaddi d b p im s
  | .vandi d b p im => Sys2Proof.Machine.execVandi d b p im s
  | .vori d b p im => Sys2Proof.Machine.execVori d b p im s
  | .vxori d b p im => Sys2Proof.Machine.execVxori d b p im s
  | .vslli d b p im => Sys2Proof.Machine.execVslli d b p im s
  | .vsrli d b p im => Sys2Proof.Machine.execVsrli d b p im s
  | .vsrai d b p im => Sys2Proof.Machine.execVsrai d b p im s
  | .vrsubi d b p im => Sys2Proof.Machine.execVrsubi d b p im s
  | .vmini d b p im => Sys2Proof.Machine.execVmini d b p im s
  | .vmaxi d b p im => Sys2Proof.Machine.execVmaxi d b p im s
  | .vmvi d p im => Sys2Proof.Machine.execVmvi d p im s
  | .vmixi d b p im => Sys2Proof.Machine.execVmixi d b p im s
  | .vfadd d a b p f => Sys2Proof.Machine.execVfadd d a b p f s
  | .vfsub d a b p f => Sys2Proof.Machine.execVfsub d a b p f s
  | .vfmul d a b p f => Sys2Proof.Machine.execVfmul d a b p f s
  | .vfdiv d a b p f => Sys2Proof.Machine.execVfdiv d a b p f s
  | .vfmac d a b p f => Sys2Proof.Machine.execVfmac d a b p f s
  | .vfnmac d a b p f => Sys2Proof.Machine.execVfnmac d a b p f s
  | .vfmin d a b p f => Sys2Proof.Machine.execVfmin d a b p f s
  | .vfmax d a b p f => Sys2Proof.Machine.execVfmax d a b p f s
  | .vfsqrt d b p f => Sys2Proof.Machine.execVfsqrt d b p f s
  | .vfcvt d b p f => Sys2Proof.Machine.execVfcvt d b p f s
  | .vfabs d b p f => Sys2Proof.Machine.execVfabs d b p f s
  | .vfneg d b p f => Sys2Proof.Machine.execVfneg d b p f s
  | .vfsgnj d a b p f => Sys2Proof.Machine.execVfsgnj d a b p f s
  | .vfclass d b p f => Sys2Proof.Machine.execVfclass d b p f s
  | .vfaddVX d a b p f => Sys2Proof.Machine.execVfaddVX d a b p f s
  | .vfsubVX d a b p f => Sys2Proof.Machine.execVfsubVX d a b p f s
  | .vfmulVX d a b p f => Sys2Proof.Machine.execVfmulVX d a b p f s
  | .vfmacVX d a b p f => Sys2Proof.Machine.execVfmacVX d a b p f s
  | .vfminVX d a b p f => Sys2Proof.Machine.execVfminVX d a b p f s
  | .vfmaxVX d a b p f => Sys2Proof.Machine.execVfmaxVX d a b p f s
  | .vfrsubVX d a b p f => Sys2Proof.Machine.execVfrsubVX d a b p f s
  | .vfrdivVX d a b p f => Sys2Proof.Machine.execVfrdivVX d a b p f s
  | .vcmpeq d a b p => Sys2Proof.Machine.execVcmpeq d a b p s
  | .vcmpne d a b p => Sys2Proof.Machine.execVcmpne d a b p s
  | .vcmplt d a b p => Sys2Proof.Machine.execVcmplt d a b p s
  | .vcmpltu d a b p => Sys2Proof.Machine.execVcmpltu d a b p s
  | .vcmple d a b p => Sys2Proof.Machine.execVcmple d a b p s
  | .vcmpleu d a b p => Sys2Proof.Machine.execVcmpleu d a b p s
  | .vfcmpeq d a b p => Sys2Proof.Machine.execVfcmpeq d a b p s
  | .vfcmplt d a b p => Sys2Proof.Machine.execVfcmplt d a b p s
  | .vfcmple d a b p => Sys2Proof.Machine.execVfcmple d a b p s
  | .vfcmpun d a b p => Sys2Proof.Machine.execVfcmpun d a b p s
  | .vredsum d a b p => Sys2Proof.Machine.execVredsum d a b p s
  | .vredmin d a b p => Sys2Proof.Machine.execVredmin d a b p s
  | .vredmax d a b p => Sys2Proof.Machine.execVredmax d a b p s
  | .vredminu d a b p => Sys2Proof.Machine.execVredminu d a b p s
  | .vredmaxu d a b p => Sys2Proof.Machine.execVredmaxu d a b p s
  | .vredand d a b p => Sys2Proof.Machine.execVredand d a b p s
  | .vredor d a b p => Sys2Proof.Machine.execVredor d a b p s
  | .vredxor d a b p => Sys2Proof.Machine.execVredxor d a b p s
  | .vfredsum d a b p => Sys2Proof.Machine.execVfredsum d a b p s
  | .vfredmin d a b p => Sys2Proof.Machine.execVfredmin d a b p s
  | .vfredmax d a b p => Sys2Proof.Machine.execVfredmax d a b p s
  | .vperm d a b p => Sys2Proof.Machine.execVperm d a b p s
  | .vslideup d a b p => Sys2Proof.Machine.execVslideup d a b p s
  | .vslidedown d a b p => Sys2Proof.Machine.execVslidedown d a b p s
  | .vcompress d b p => Sys2Proof.Machine.execVcompress d b p s
  | .vexpand d b p => Sys2Proof.Machine.execVexpand d b p s
  | .vid d p => Sys2Proof.Machine.execVid d p s
  | .vsplat d a p => Sys2Proof.Machine.execVsplat d a p s
  | .vext d a b => Sys2Proof.Machine.execVext d a b s
  | .vins d a b => Sys2Proof.Machine.execVins d a b s
  | .vmv d b p => Sys2Proof.Machine.execVmv d b p s
  | .vmix d a b p => Sys2Proof.Machine.execVmix d a b p s
  | .pand p q r => Sys2Proof.Machine.execPand p q r s
  | .por p q r => Sys2Proof.Machine.execPor p q r s
  | .pxor p q r => Sys2Proof.Machine.execPxor p q r s
  | .pandn p q r => Sys2Proof.Machine.execPandn p q r s
  | .pnot p q => Sys2Proof.Machine.execPnot p q s
  | .pset p => Sys2Proof.Machine.execPset p s
  | .pclr p => Sys2Proof.Machine.execPclr p s
  | .pmv p q => Sys2Proof.Machine.execPmv p q s
  | .pfirst d q => Sys2Proof.Machine.execPfirst d q s
  | .pcount d q => Sys2Proof.Machine.execPcount d q s
  | .pld p a => Sys2Proof.Machine.execPld p a s
  | .pst a r => Sys2Proof.Machine.execPst a r s
  | .psetx p a => Sys2Proof.Machine.execPsetx p a s
  | .vld d a p f n t => Sys2Proof.Machine.execVld d a p f n t s
  | .vlds d a b p f n t => Sys2Proof.Machine.execVlds d a b p f n t s
  | .vldff d a p f n t => Sys2Proof.Machine.execVldff d a p f n t s
  | .vldz d a b p f n t => Sys2Proof.Machine.execVldz d a b p f n t s
  | .vst d a p f n t => Sys2Proof.Machine.execVst d a p f n t s
  | .vsts d a b p f n t => Sys2Proof.Machine.execVsts d a b p f n t s
  | .vstz d a b p f n t => Sys2Proof.Machine.execVstz d a b p f n t s
  | .vgat d a b p f sl c n t => Sys2Proof.Machine.execVgat d a b p f sl c n t s
  | .vsca d a b p f sl n t => Sys2Proof.Machine.execVsca d a b p f sl n t s
  | .vaadd d a b p q r sl => Sys2Proof.Machine.execVaadd d a b p q r sl s
  | .vaand d a b p q r sl => Sys2Proof.Machine.execVaand d a b p q r sl s
  | .vaor d a b p q r sl => Sys2Proof.Machine.execVaor d a b p q r sl s
  | .vaxor d a b p q r sl => Sys2Proof.Machine.execVaxor d a b p q r sl s
  | .vamin d a b p q r sl => Sys2Proof.Machine.execVamin d a b p q r sl s
  | .vamax d a b p q r sl => Sys2Proof.Machine.execVamax d a b p q r sl s
  | .vaminu d a b p q r sl => Sys2Proof.Machine.execVaminu d a b p q r sl s
  | .vamaxu d a b p q r sl => Sys2Proof.Machine.execVamaxu d a b p q r sl s
  | .vuadd d a b p q r sl => Sys2Proof.Machine.execVuadd d a b p q r sl s
  | .vuand d a b p q r sl => Sys2Proof.Machine.execVuand d a b p q r sl s
  | .vuor d a b p q r sl => Sys2Proof.Machine.execVuor d a b p q r sl s
  | .vuxor d a b p q r sl => Sys2Proof.Machine.execVuxor d a b p q r sl s
  | .vumin d a b p q r sl => Sys2Proof.Machine.execVumin d a b p q r sl s
  | .vumax d a b p q r sl => Sys2Proof.Machine.execVumax d a b p q r sl s
  | .vuminu d a b p q r sl => Sys2Proof.Machine.execVuminu d a b p q r sl s
  | .vumaxu d a b p q r sl => Sys2Proof.Machine.execVumaxu d a b p q r sl s
  | .vaswap d a b p q r sl => Sys2Proof.Machine.execVaswap d a b p q r sl s
  | .vacas d a b p q r sl => Sys2Proof.Machine.execVacas d a b p q r sl s
  | .vwaitEq d a b p q sl => Sys2Proof.Machine.execVwaitEq d a b p q sl s
  | .vwaitNe d a b p q sl => Sys2Proof.Machine.execVwaitNe d a b p q sl s
  | .vwaitGe d a b p q sl => Sys2Proof.Machine.execVwaitGe d a b p q sl s
  | .vwaitGeu d a b p q sl => Sys2Proof.Machine.execVwaitGeu d a b p q sl s
  | .mma d a b sl t u f => Sys2Proof.Machine.execMma d a b sl t u f s
  | .mmaz d a b sl t u f => Sys2Proof.Machine.execMmaz d a b sl t u f s
  | .mms d a b sl t u f => Sys2Proof.Machine.execMms d a b sl t u f s
  | .mmai d a b sl t u f => Sys2Proof.Machine.execMmai d a b sl t u f s
  | .mmaiz d a b sl t u f => Sys2Proof.Machine.execMmaiz d a b sl t u f s
  | .vcp a => Sys2Proof.Machine.execVcp a s
  | .psbind a sl => Sys2Proof.Machine.execPsbind a sl s
  | .psfree sl => Sys2Proof.Machine.execPsfree sl s
  | .psver d sl => Sys2Proof.Machine.execPsver d sl s
  | .psexp a b sl => Sys2Proof.Machine.execPsexp a b sl s
  | .psimp a sl => Sys2Proof.Machine.execPsimp a sl s
  | .psord sl => Sys2Proof.Machine.execPsord sl s
  | .pswait a sl => Sys2Proof.Machine.execPswait a sl s
  | .psrec a sl => Sys2Proof.Machine.execPsrec a sl s
  | .psstat d sl => Sys2Proof.Machine.execPsstat d sl s
  | .gbar a => Sys2Proof.Machine.execGbar a s
  | .garr a => Sys2Proof.Machine.execGarr a s
  | .gdrop a => Sys2Proof.Machine.execGdrop a s
  | .gwait a => Sys2Proof.Machine.execGwait a s
  | .launch d a b => Sys2Proof.Machine.execLaunch d a b s
  | .vxsend v a => Sys2Proof.Machine.execVxsend v a s
  | .vxrecv v a => Sys2Proof.Machine.execVxrecv v a s
  | .exit => Sys2Proof.Machine.execExit s
  | .csrrw d a c => Sys2Proof.Machine.execCsrrw d a c s
  | .csrrs d a c => Sys2Proof.Machine.execCsrrs d a c s
  | .csrrc d a c => Sys2Proof.Machine.execCsrrc d a c s
  | .sys a => Sys2Proof.Machine.execSys a s
  | .tret => Sys2Proof.Machine.execTret s
  | .brk => Sys2Proof.Machine.execBrk s
  | .park => Sys2Proof.Machine.execPark s
  | .tlbinv a b => Sys2Proof.Machine.execTlbinv a b s
  | .ptcinv a => Sys2Proof.Machine.execPtcinv a s
  | .pgshare a => Sys2Proof.Machine.execPgshare a s
  | .pgdrop a => Sys2Proof.Machine.execPgdrop a s
  | .pgmove a b => Sys2Proof.Machine.execPgmove a b s
  | .pghot d a => Sys2Proof.Machine.execPghot d a s
  | .mfcmp d a => Sys2Proof.Machine.execMfcmp d a s
  | .halt => Sys2Proof.Machine.execHalt s

end Sys2Proof.Machine
end

