-- ==== Sys2Proof/Machine/Step.lean ====
section
/-! DEFINITION. The step of the module. The agenda says which agent moves next; without one, the current hart takes its turn, what is
on its way arrives, and the next hart becomes the current one (log entry 3). -/

namespace Sys2Proof.Machine

/-- One turn of the agenda, in the state without it. -/
def takeTurn (s : State) : Turn → Host.Outcome State Fault Refusal
  | .event i =>
    if i.bits.isSome then .fault .agendaWord
    else
      match exec i s with
      | .next t => .next t.tick
      | .fault f => .fault f
      | .refused r => .refused r
  | .run h => .next (s.atHart h State.turn).tick
  | .fillL1I core pa => .next (s.fillL1I core pa).tick
  | .fillPtc core psd row => .next (s.fillPtc core psd row).tick
  | .accept h k => .next (s.acceptAt h k).tick
  | .poolAck k => .next ({ s with unacked := s.unacked.eraseIdx k } : State).tick
  | .dropLlc line => .next (s.dropLlc line).tick
  | .dropL1d core line => .next ({ s with l1d := s.l1d.filter fun l => l != (core, line) } : State).tick
  | .dropL2 die line => .next (s.dropL2 die line).tick
  | .flash page absent => .next (s.flash page absent).tick

/-- One step of the module. -/
def step (s : State) : Host.Outcome State Fault Refusal :=
  match s.agenda with
  | [] => .next (s.turn.settle.rotate).tick
  | t :: r => takeTurn { s with agenda := r } t

/-- The page-table entry by which a 4 TiB page maps itself, for reading, writing and fetching at privilege U (R284). -/
def identityLeaf : Word := 0x1F

/-- PTBASE of a root table at physical address 0x10000 with ASID 0 (R286). -/
def identityRoot : BitVec 61 := 0x10000

/-- The state in which the current hart is about to fetch a word: it stands in its slot, its pc is mapped to itself by a table at
physical address 0x10000, nothing else is due, and the word, as the last of its convoy, stands at the pc (log entries 4 and 5). -/
def State.withFetchWord (s : State) (nbits w : Nat) : State :=
  let h := s.hart
  let pc : Word := if h.pc.toNat < 0x10000 ∧ h.pc.toNat % 4 = 0 then h.pc else 0x20000
  let word := w % 2 ^ nbits % 2 ^ 31 + 2 ^ 31
  { s with
    hart := { h with
      pc := pc
      status := .running
      ptbase := identityRoot
      resume := none
      dbgctl := 0
      switchReq := false
      held := []
      rheld := []
      due := none
      pass := none }
    conv := Convoy.fresh
    mem := Memory.setBytes (Memory.setBytes s.mem 0x10000 (leBytes 8 identityLeaf.toNat)) pc.toNat (leBytes 4 word)
    poison := []
    tlb := []
    l1i := []
    wq := []
    gangs := s.gangs.filter fun g => !g.aborted
    mstate := .run
    agenda := [] }

end Sys2Proof.Machine
end

