-- ==== Sys2Proof/Laws/Memory.lean ====
section
/-! SUPPORT. Bytes and memory: what a read finds after a write, and that every operation over memory keeps its canonical form. -/

namespace Sys2Proof.Laws

open Sys2Proof.Machine

/-! ### Reading after writing -/

theorem get_of_low (m : List Host.Cell) (low a : Nat) (h : Memory.wfFrom low m = true) (ha : a < low) : Memory.get m a = 0 := by
  induction m generalizing low with
  | nil => rfl
  | cons c r ih =>
    simp only [Memory.wfFrom, Bool.and_eq_true, decide_eq_true_eq, bne_iff_ne] at h
    obtain ⟨⟨h1, -⟩, h3⟩ := h
    unfold Memory.get
    rw [if_neg (by omega), if_pos (by omega)]
    rfl

/-- A byte just written is read. -/
theorem get_set_same (m : List Host.Cell) (low a : Nat) (b : Byte) (h : Memory.wfFrom low m = true) :
    Memory.get (Memory.set m a b) a = b := by
  induction m generalizing low with
  | nil =>
    unfold Memory.set
    split <;> simp_all [Memory.get]
  | cons c r ih =>
    simp only [Memory.wfFrom, Bool.and_eq_true, decide_eq_true_eq, bne_iff_ne] at h
    obtain ⟨⟨h1, h2⟩, h3⟩ := h
    unfold Memory.set
    split
    · split
      · rename_i hb
        unfold Memory.get
        rw [if_neg (by omega), if_pos (by omega)]
        exact hb.symm
      · simp [Memory.get]
    · split
      · split
        · rename_i he hb
          rw [get_of_low r (c.1 + 1) a h3 (by omega)]
          exact hb.symm
        · simp [Memory.get]
      · unfold Memory.get
        rw [if_neg (by omega), if_neg (by omega)]
        exact ih _ h3

/-- A write leaves every other byte alone. -/
theorem get_set_other (m : List Host.Cell) (low a x : Nat) (b : Byte) (h : Memory.wfFrom low m = true) (hx : x ≠ a) :
    Memory.get (Memory.set m a b) x = Memory.get m x := by
  induction m generalizing low with
  | nil =>
    unfold Memory.set
    split
    · rfl
    · simp only [Memory.get]
      split
      · omega
      · split <;> rfl
  | cons c r ih =>
    simp only [Memory.wfFrom, Bool.and_eq_true, decide_eq_true_eq, bne_iff_ne] at h
    obtain ⟨⟨h1, h2⟩, h3⟩ := h
    unfold Memory.set
    split
    · split
      · rfl
      · rw [Memory.get, if_neg hx]
        by_cases hl : x < a
        · rw [if_pos hl]
          unfold Memory.get
          rw [if_neg (by omega), if_pos (by omega)]
        · rw [if_neg hl]
    · split
      · rename_i he
        split
        · by_cases hl : x < c.1
          · rw [get_of_low r (c.1 + 1) x h3 (by omega)]
            unfold Memory.get
            rw [if_neg (by omega), if_pos hl]
            rfl
          · conv_rhs => unfold Memory.get
            rw [if_neg (by omega), if_neg hl]
        · simp only [Memory.get]
          rw [if_neg hx, if_neg (show ¬x = c.1 by omega), he]
      · conv_lhs => unfold Memory.get
        conv_rhs => unfold Memory.get
        rw [ih _ h3]

/-! ### The canonical form -/

theorem wfFrom_mono {low low' : Nat} {m : List Host.Cell} (hl : low' ≤ low) (h : Memory.wfFrom low m = true) :
    Memory.wfFrom low' m = true := by
  cases m with
  | nil => rfl
  | cons c r =>
    simp only [Memory.wfFrom, Bool.and_eq_true, decide_eq_true_eq, bne_iff_ne] at h ⊢
    exact ⟨⟨by omega, h.1.2⟩, h.2⟩

theorem set_wfFrom {low a : Nat} {m : List Host.Cell} (b : Byte) (h : Memory.wfFrom low m = true) (ha : low ≤ a) :
    Memory.wfFrom low (Memory.set m a b) = true := by
  induction m generalizing low with
  | nil =>
    unfold Memory.set
    split
    · rfl
    · rename_i hb
      simp only [Memory.wfFrom, Bool.and_eq_true, decide_eq_true_eq, bne_iff_ne]
      exact ⟨⟨ha, hb⟩, trivial⟩
  | cons c r ih =>
    have h' := h
    simp only [Memory.wfFrom, Bool.and_eq_true, decide_eq_true_eq, bne_iff_ne] at h
    obtain ⟨⟨h1, h2⟩, h3⟩ := h
    unfold Memory.set
    split
    · split
      · exact h'
      · rename_i hl hb
        simp only [Memory.wfFrom, Bool.and_eq_true, decide_eq_true_eq, bne_iff_ne]
        exact ⟨⟨ha, hb⟩, ⟨by omega, h2⟩, h3⟩
    · split
      · rename_i hl he
        split
        · exact wfFrom_mono (by omega) h3
        · rename_i hb
          simp only [Memory.wfFrom, Bool.and_eq_true, decide_eq_true_eq, bne_iff_ne]
          exact ⟨⟨ha, hb⟩, wfFrom_mono (by omega) h3⟩
      · rename_i hl he
        simp only [Memory.wfFrom, Bool.and_eq_true, decide_eq_true_eq, bne_iff_ne]
        exact ⟨⟨h1, h2⟩, ih h3 (by omega)⟩

/-- A write keeps the canonical form. -/
theorem set_wf {m : List Host.Cell} (a : Nat) (b : Byte) (h : Memory.wf m = true) : Memory.wf (Memory.set m a b) = true :=
  set_wfFrom b h (Nat.zero_le a)

theorem setBytes_wf {m : List Host.Cell} (a : Nat) (bs : List Byte) (h : Memory.wf m = true) :
    Memory.wf (Memory.setBytes m a bs) = true := by
  induction bs generalizing m a with
  | nil => exact h
  | cons b r ih => exact ih (a + 1) (set_wf a b h)

theorem applyBytes_wf {m : List Host.Cell} (a : Nat) (bs : List WByte) (h : Memory.wf m = true) :
    Memory.wf (applyBytes m a bs) = true := by
  induction bs generalizing m a with
  | nil => exact h
  | cons b r ih => exact ih (a + 1) (set_wf a _ h)

theorem scramble_wf {m : List Host.Cell} (a fresh n : Nat) (h : Memory.wf m = true) :
    Memory.wf (Memory.scramble m a fresh n) = true := by
  induction n generalizing m a fresh with
  | zero => exact h
  | succ n ih => exact ih (a + 1) (fresh + 1) (set_wf a _ h)

theorem foldSet_wf {m : List Host.Cell} (l : List Host.Cell) (f : Host.Cell → Nat) (g : Host.Cell → Byte) (h : Memory.wf m = true) :
    Memory.wf (l.foldl (fun k c => Memory.set k (f c) (g c)) m) = true := by
  induction l generalizing m with
  | nil => exact h
  | cons c r ih => exact ih (set_wf _ _ h)

theorem copy_wf {m : List Host.Cell} (src dst n : Nat) (h : Memory.wf m = true) : Memory.wf (Memory.copy m src dst n) = true :=
  foldSet_wf _ _ _ (foldSet_wf _ _ _ h)

theorem clear_wf {m : List Host.Cell} (a n : Nat) (h : Memory.wf m = true) : Memory.wf (Memory.clear m a n) = true :=
  foldSet_wf _ _ _ h

theorem filter_wfFrom {low : Nat} {m : List Host.Cell} (p : Host.Cell → Bool) (h : Memory.wfFrom low m = true) :
    Memory.wfFrom low (m.filter p) = true := by
  induction m generalizing low with
  | nil => exact h
  | cons c r ih =>
    simp only [Memory.wfFrom, Bool.and_eq_true, decide_eq_true_eq, bne_iff_ne] at h
    obtain ⟨⟨h1, h2⟩, h3⟩ := h
    rw [List.filter_cons]
    split
    · simp only [Memory.wfFrom, Bool.and_eq_true, decide_eq_true_eq, bne_iff_ne]
      exact ⟨⟨h1, h2⟩, ih h3⟩
    · exact ih (wfFrom_mono (by omega) h3)

theorem drop_wf {m : List Host.Cell} (p : Nat → Bool) (h : Memory.wf m = true) : Memory.wf (Memory.drop m p) = true :=
  filter_wfFrom _ h

theorem cells_wfFrom (low a : Nat) (bs : List Byte) (h : low ≤ a) : Memory.wfFrom low (Memory.cells a bs) = true := by
  induction bs generalizing low a with
  | nil => rfl
  | cons b r ih =>
    unfold Memory.cells
    split
    · exact ih _ _ (by omega)
    · rename_i hb
      simp only [Memory.wfFrom, Bool.and_eq_true, decide_eq_true_eq, bne_iff_ne]
      exact ⟨⟨h, hb⟩, ih _ _ (Nat.le_refl _)⟩

theorem mem_cells {c : Host.Cell} {a : Nat} {bs : List Byte} (h : c ∈ Memory.cells a bs) : a ≤ c.1 ∧ c.1 < a + bs.length := by
  induction bs generalizing a with
  | nil => simp [Memory.cells] at h
  | cons b r ih =>
    unfold Memory.cells at h
    have len : (b :: r).length = r.length + 1 := rfl
    split at h
    · have := ih h; omega
    · rcases List.mem_cons.1 h with h | h
      · subst h; simp
      · have := ih h; omega

/-- Two lists in canonical form, the first below a bound and the second from it on, join to one. -/
theorem append_wfFrom {low mid : Nat} {l r : List Host.Cell} (hl : Memory.wfFrom low l = true) (hr : Memory.wfFrom mid r = true)
    (hm : low ≤ mid) (h : ∀ c ∈ l, c.1 < mid) : Memory.wfFrom low (l ++ r) = true := by
  induction l generalizing low with
  | nil => exact wfFrom_mono hm hr
  | cons c l ih =>
    simp only [Memory.wfFrom, Bool.and_eq_true, decide_eq_true_eq, bne_iff_ne] at hl
    obtain ⟨⟨h1, h2⟩, h3⟩ := hl
    simp only [List.cons_append, Memory.wfFrom, Bool.and_eq_true, decide_eq_true_eq, bne_iff_ne]
    have hc := h c (List.mem_cons_self ..)
    exact ⟨⟨h1, h2⟩, ih h3 (by omega) fun d hd => h d (List.mem_cons_of_mem _ hd)⟩

/-- The part of a canonical list from an address on is canonical from it. -/
theorem filter_from {low x : Nat} {m : List Host.Cell} (h : Memory.wfFrom low m = true) :
    Memory.wfFrom x (m.filter fun c => x ≤ c.1) = true := by
  induction m generalizing low with
  | nil => rfl
  | cons c r ih =>
    simp only [Memory.wfFrom, Bool.and_eq_true, decide_eq_true_eq, bne_iff_ne] at h
    obtain ⟨⟨h1, h2⟩, h3⟩ := h
    rw [List.filter_cons]
    split
    · rename_i hx
      simp only [decide_eq_true_eq] at hx
      simp only [Memory.wfFrom, Bool.and_eq_true, decide_eq_true_eq, bne_iff_ne]
      exact ⟨⟨hx, h2⟩, filter_wfFrom _ h3⟩
    · exact ih h3

theorem splice_wf {m : List Host.Cell} (a : Nat) (bs : List Byte) (h : Memory.wf m = true) :
    Memory.wf (Memory.splice m a bs) = true := by
  unfold Memory.splice Memory.wf
  refine append_wfFrom (mid := a + bs.length) ?_ (filter_from h) (Nat.zero_le _) ?_
  · refine append_wfFrom (mid := a) (filter_wfFrom _ h) (cells_wfFrom a a bs (Nat.le_refl _)) (Nat.zero_le _) ?_
    intro c hc
    simpa using (List.mem_filter.1 hc).2
  · intro c hc
    rcases List.mem_append.1 hc with hc | hc
    · have := (List.mem_filter.1 hc).2
      simp only [decide_eq_true_eq] at this
      omega
    · exact (mem_cells hc).2

end Sys2Proof.Laws
end

