-- ==== Sys2Proof/Laws/Access.lean ====
section
/-! SUPPORT. Accesses that lie in one page: their translation, the bytes that a read of them finds, and the bytes that a write of
them leaves. -/

namespace Sys2Proof.Laws

open Sys2Proof.Machine

/-! ### One page -/

theorem pageOf_eq (va : Word) : pageOf va = BitVec.ofNat 64 (va.toNat / 65536 * 65536) := by
  apply BitVec.eq_of_getLsbD_eq
  intro i hi
  rw [show va.toNat / 65536 * 65536 = (va.toNat >>> 16) <<< 16 by simp [Nat.shiftRight_eq_div_pow, Nat.shiftLeft_eq]]
  simp only [pageOf, BitVec.getLsbD_and, BitVec.getLsbD_not, BitVec.getLsbD_ofNat, Nat.testBit_shiftLeft, Nat.testBit_shiftRight, hi,
    decide_true, Bool.true_and]
  rw [show (65535 : Nat) = 2 ^ 16 - 1 by rfl, Nat.testBit_two_pow_sub_one]
  by_cases h : 16 ≤ i
  · have : ¬ i < 16 := by omega
    simp [h, this, BitVec.getLsbD, show 16 + (i - 16) = i by omega]
  · have : i < 16 := by omega
    simp [h, this]

theorem pageOf_toNat (va : Word) : (pageOf va).toNat = va.toNat / 65536 * 65536 := by
  rw [pageOf_eq, BitVec.toNat_ofNat]
  exact Nat.mod_eq_of_lt (lt_of_le_of_lt (Nat.div_mul_le_self _ _) va.isLt)

/-- Addresses of one page have the same page. -/
theorem pageOf_add (va : Word) (k : Nat) (h : va.toNat % 65536 + k < 65536) :
    pageOf (va + BitVec.ofNat 64 k) = pageOf va ∧ (va + BitVec.ofNat 64 k).toNat = va.toNat + k := by
  have hv := va.isLt
  have ht : (va + BitVec.ofNat 64 k).toNat = va.toNat + k := by
    rw [BitVec.toNat_add, BitVec.toNat_ofNat]
    omega
  refine ⟨?_, ht⟩
  have hd : (va.toNat + k) / 65536 = va.toNat / 65536 := by clear ht hv; omega
  rw [pageOf_eq, pageOf_eq, ht, hd]

theorem pagesAt_one (va : Word) (n : Nat) (h : va.toNat % 65536 + n ≤ 65536) (hn : 0 < n) : pagesAt va n = [pageOf va] := by
  unfold pagesAt
  have : (va.toNat % 65536 + (n - 1)) / 65536 + 1 = 1 := by omega
  rw [this]
  simp

theorem touchPages_one (e : Nat) (va : Word) (n : Nat) (h : va.toNat % 65536 + n ≤ 65536) (hn : 0 < n) :
    touchPages [⟨e, va, n⟩] = [pageOf va] := by
  simp [touchPages, pagesAt_one va n h hn, insertWord]

/-- A convoy without a matrix instruction keeps no translation. -/
theorem pin_none (s : State) (m : Mode) (map : PageMap) (but : List Word) (h : s.conv.pins = none) : s.pin m map but = s := by simp only [State.pin, h]

/-- An access to one page that translates goes on with it. -/
theorem prepare_one (s : State) (m : Mode) (e : Nat) (va : Word) (n base : Nat) (leaf : Word) (k : State → PageMap → Res)
    (h : va.toNat % 65536 + n ≤ 65536) (hn : 0 < n) (hr : m.rows = false) (hp : s.conv.pins = none)
    (ht : s.translate s.hart.core m.space s.hart.priv m.acc m.scalar (pageOf va) = .pa base leaf) :
    s.prepare m [⟨e, va, n⟩] k = k s [(pageOf va, base, leaf)] := by
  have hq : s.pinAt m (pageOf va) = none := by simp only [State.pinAt, hp]
  simp only [State.prepare, touchPages_one e va n h hn, List.foldl_cons, List.foldl_nil, Found.page, hq, ht, hr, Bool.false_and,
    Bool.false_eq_true, if_false, pageTrap, List.nil_append, pin_none s m _ _ hp]

theorem physOf_one (va : Word) (k base : Nat) (leaf : Word) (h : va.toNat % 65536 + k < 65536) :
    physOf [(pageOf va, base, leaf)] (va + BitVec.ofNat 64 k) = base + va.toNat % 65536 + k := by
  obtain ⟨h1, h2⟩ := pageOf_add va k h
  simp only [physOf, h1, List.find?_cons, beq_self_eq_true, h2]
  omega

/-! ### Reads -/

theorem overlay_filter (ws : List Write) (p : Write → Bool) (a : Nat) (b : Byte)
    (h : ∀ w ∈ ws, p w = false → ¬(w.pa ≤ a ∧ a < w.pa + w.bytes.length)) : overlay (ws.filter p) a b = overlay ws a b := by
  unfold overlay
  induction ws generalizing b with
  | nil => rfl
  | cons w r ih =>
    by_cases hp : p w = true
    · rw [List.filter_cons_of_pos hp, List.foldl_cons, List.foldl_cons]
      exact ih _ fun x hx => h x (List.mem_cons_of_mem _ hx)
    · have hp' : p w = false := by simpa using hp
      rw [List.filter_cons_of_neg hp, List.foldl_cons, if_neg (h w List.mem_cons_self hp')]
      exact ih _ fun x hx => h x (List.mem_cons_of_mem _ hx)

theorem bytes_eq (m : List Host.Cell) (a n : Nat) : Memory.bytes m a n = (List.range n).map fun k => Memory.get m (a + k) := by
  induction n generalizing a with
  | zero => rfl
  | succ n ih =>
    rw [Memory.bytes, ih, List.range_succ_eq_map]
    simp only [List.map_cons, List.map_map, Nat.add_zero]
    congr 1
    apply List.map_congr_left
    intro k _
    show Memory.get m (a + 1 + k) = Memory.get m (a + (k + 1))
    rw [Nat.add_assoc, Nat.add_comm 1 k]

/-- A read of several bytes is the reads of each. -/
theorem readBytes_eq (s : State) (c : Cls) (pa n : Nat) :
    s.readBytes c pa n = (List.range n).map fun k => s.readByte c (pa + k) := by
  have key : ∀ k, k < n → overlay ((s.ahead c).filter fun w => overlaps w.pa w.bytes.length pa n) (pa + k) (Memory.get s.mem (pa + k)) =
      overlay (s.ahead c) (pa + k) (Memory.get s.mem (pa + k)) := by
    intro k hk
    apply overlay_filter
    intro w _ hw
    simp only [overlaps, Bool.and_eq_false_iff, decide_eq_false_iff_not] at hw
    omega
  unfold State.readBytes
  dsimp only
  split
  · rename_i he
    rw [Bool.and_eq_true, List.isEmpty_iff, List.isEmpty_iff] at he
    rw [bytes_eq]
    apply List.map_congr_left
    intro k hk
    have := key k (List.mem_range.1 hk)
    rw [he.1] at this
    rw [State.readByte, he.2, ← this]
    rfl
  · apply List.map_congr_left
    intro k hk
    rw [key k (List.mem_range.1 hk), State.readByte]

/-- The bytes of a range in one page. -/
theorem loadBytes_page (s : State) (c : Cls) (va : Word) (n base : Nat) (leaf : Word) (h : va.toNat % 65536 + n ≤ 65536) :
    s.loadBytes c [(pageOf va, base, leaf)] va n =
      (List.range n).map fun k => s.readByte c (base + va.toNat % 65536 + k) := by
  have key : ∀ (fuel j m : Nat), j + m ≤ n → (m = 0 ∨ (j + va.toNat) % 128 + m ≤ fuel * 128) →
      ((pieces fuel (va + BitVec.ofNat 64 j) m).map fun p => (physOf [(pageOf va, base, leaf)] p.1, p.2)).flatMap
        (fun p => s.readBytes c p.1 p.2) = (List.range m).map fun k => s.readByte c (base + va.toNat % 65536 + j + k) := by
    intro fuel
    induction fuel with
    | zero =>
      intro j m h1 h2
      have : m = 0 := by omega
      subst this
      rfl
    | succ fuel ih =>
      intro j m h1 h2
      by_cases hm : m = 0
      · subst hm; rfl
      · obtain ⟨hp, ht⟩ := pageOf_add va j (by omega)
        have hk : min m (128 - (va + BitVec.ofNat 64 j).toNat % 128) = min m (128 - (j + va.toNat) % 128) := by
          rw [ht, Nat.add_comm]
        simp only [pieces, hm, if_false, hk, List.map_cons, List.flatMap_cons]
        generalize hq : min m (128 - (j + va.toNat) % 128) = q
        have hq0 : 0 < q := by omega
        have hqm : q ≤ m := by omega
        have hadd : va + BitVec.ofNat 64 j + BitVec.ofNat 64 q = va + BitVec.ofNat 64 (j + q) := by
          rw [BitVec.add_assoc, ← BitVec.ofNat_add]
        have hf : m - q = 0 ∨ (j + q + va.toNat) % 128 + (m - q) ≤ fuel * 128 := by
          clear hk hadd ih hp ht
          omega
        rw [hadd, ih (j + q) (m - q) (by omega) hf, physOf_one va j base leaf (by omega), readBytes_eq]
        rw [show m = q + (m - q) by omega, List.range_add, List.map_append, List.map_map]
        congr 1
        rw [show q + (m - q) - q = m - q by omega]
        apply List.map_congr_left
        intro k _
        simp only [Function.comp]
        congr 1
        omega
  have := key (n / 128 + 2) 0 n (by omega) (by omega)
  simpa [State.loadBytes, physPieces] using this

/-! ### Trunks and poison -/

/-- A range whose lines the convoy waits for nowhere. -/
theorem unservedOf_none (s : State) (w : Bool) (ps : List (Nat × Nat)) (h : ∀ p ∈ ps, s.unserved w p.1 = false) :
    s.unservedOf w ps = [] := by
  unfold State.unservedOf
  rw [if_pos]
  rw [List.all_eq_true]
  intro p hp
  simp [h p hp]

theorem findSome_none {α β : Type} (l : List α) (f : α → Option β) (h : ∀ a ∈ l, f a = none) : l.findSome? f = none := by
  rw [List.findSome?_eq_none_iff]
  exact h

theorem consumes_clean (s : State) (c : Cls) (home : Bool) (pa n : Nat) (h : ∀ u ∈ s.poison, overlaps u.1 u.2.1 pa n = false) :
    s.consumes c home pa n = none := by
  unfold State.consumes
  rw [Option.map_eq_none_iff, List.find?_eq_none]
  intro u hu
  simp [h u hu]

/-- The pieces of a range of one page lie in it. -/
theorem pieces_within (va : Word) (n base : Nat) (leaf : Word) (h : va.toNat % 65536 + n ≤ 65536) :
    ∀ p ∈ physPieces [(pageOf va, base, leaf)] va n,
      base + va.toNat % 65536 ≤ p.1 ∧ p.1 + p.2 ≤ base + va.toNat % 65536 + n ∧ 0 < p.2 := by
  have key : ∀ (fuel j m : Nat), j + m ≤ n → ∀ p ∈ pieces fuel (va + BitVec.ofNat 64 j) m,
      base + va.toNat % 65536 ≤ physOf [(pageOf va, base, leaf)] p.1 ∧
        physOf [(pageOf va, base, leaf)] p.1 + p.2 ≤ base + va.toNat % 65536 + n ∧ 0 < p.2 := by
    intro fuel
    induction fuel with
    | zero => intro j m _ p hp; simp [pieces] at hp
    | succ fuel ih =>
      intro j m h1 p hp
      by_cases hm : m = 0
      · simp [pieces, hm] at hp
      · obtain ⟨_, ht⟩ := pageOf_add va j (by omega)
        have hk : min m (128 - (va + BitVec.ofNat 64 j).toNat % 128) = min m (128 - (j + va.toNat) % 128) := by
          rw [ht, Nat.add_comm]
        simp only [pieces, hm, if_false, hk, List.mem_cons] at hp
        rcases hp with rfl | hp
        · dsimp only
          rw [physOf_one va j base leaf (by omega)]
          omega
        · have hadd : ∀ q, va + BitVec.ofNat 64 j + BitVec.ofNat 64 q = va + BitVec.ofNat 64 (j + q) := by
            intro q
            rw [BitVec.add_assoc, ← BitVec.ofNat_add]
          rw [hadd] at hp
          exact ih _ _ (by omega) p hp
  intro p hp
  obtain ⟨q, hq, rfl⟩ := List.mem_map.1 hp
  have := key (n / 128 + 2) 0 n (by omega) q (by simpa using hq)
  exact this

/-- Writes that a predicate names nowhere stay where they are. -/
theorem release_none (s : State) (p : Write → Bool) (h : ∀ w ∈ s.hart.held, p w = false) : s.release p = s := by
  have : s.hart.held.any p = false := by
    rw [List.any_eq_false]
    intro w hw
    simp [h w hw]
  simp only [State.release, this, Bool.not_false, if_true]

theorem drain_none (s : State) (p : Write → Bool) (h : ∀ w ∈ s.wq, p w = false) : s.drain p = s := by
  have : s.wq.any p = false := by
    rw [List.any_eq_false]
    intro w hw
    simp [h w hw]
  simp only [State.drain, this, Bool.not_false, if_true]

theorem names_nil (h : Hart) (w : Write) : Order.names [] h w = false := by simp [Order.names]

/-- A read that must follow nothing goes on: the hart holds no overlapping write of the class, none is in the queue of another core, and
no order names it. -/
theorem readFirst_free (s : State) (c : Cls) (os : List Order) (ps : List (Nat × Nat)) (k : State → Res) (ho : os = [])
    (hh : ∀ w ∈ s.hart.held, w.meets c ps = false)
    (hw : ∀ w ∈ s.wq, w.mine s.hart = true → w.core ≠ s.hart.core → w.meets c ps = false) : s.readFirst c os ps k = k s := by
  subst ho
  have e1 : ∀ w ∈ s.hart.held, (w.meets c ps || Order.names [] s.hart w) = false := by
    intro w hm
    simp [hh w hm, names_nil]
  have e2 : ∀ w ∈ s.wq, (Order.names [] s.hart w || (w.mine s.hart && w.core != s.hart.core && w.meets c ps)) = false := by
    intro w hm
    rw [names_nil, Bool.false_or, Bool.and_eq_false_iff]
    by_cases h1 : w.mine s.hart = true
    · by_cases h2 : w.core = s.hart.core
      · left; simp [h2]
      · right; exact hw w hm h1 h2
    · left; simp [h1]
  have f1 : s.hart.held.filter (fun w => w.meets c ps || Order.names [] s.hart w) = [] := by
    rw [List.filter_eq_nil_iff]
    intro w hm
    simp [e1 w hm]
  have f2 : s.wq.filter (fun w => Order.names [] s.hart w || (w.mine s.hart && w.core != s.hart.core && w.meets c ps)) = [] := by
    rw [List.filter_eq_nil_iff]
    intro w hm
    simp [e2 w hm]
  have f3 : s.unacked.filter (Order.names [] s.hart) = [] := by
    rw [List.filter_eq_nil_iff]
    intro w _
    simp [names_nil]
  simp only [State.readFirst, List.filter_nil]
  rw [release_none s _ e1, drain_none s _ e2, f1, f2, f3]
  rfl

/-- A read of sound memory whose lines are served and that must follow nothing goes on, with its lines in L2 (R219). -/
theorem whenRead_sound (s : State) (c : Cls) (na : Bool) (map : PageMap) (ts : List Touch) (k : State → Res)
    (hu : ∀ t ∈ ts, ∀ p ∈ physPieces map t.va t.n, s.unserved false p.1 = false)
    (ho : ∀ o ∈ s.hart.orders, o.after = c → o.reads = false)
    (hh : ∀ w ∈ s.hart.held, ∀ t ∈ ts, w.meets c (physPieces map t.va t.n) = false)
    (hw : ∀ w ∈ s.wq, w.mine s.hart = true → w.core ≠ s.hart.core → ∀ t ∈ ts, w.meets c (physPieces map t.va t.n) = false)
    (hp : ∀ u ∈ s.poison, ∀ t ∈ ts, ∀ p ∈ physPieces map t.va t.n, overlaps u.1 u.2.1 p.1 p.2 = false) :
    s.whenRead c na map ts k = k (s.fillL2 na (ts.flatMap fun t => physPieces map t.va t.n)) := by
  have meets : ∀ w : Write, (∀ t ∈ ts, w.meets c (physPieces map t.va t.n) = false) →
      w.meets c (ts.flatMap fun t => physPieces map t.va t.n) = false := by
    intro w h
    unfold Write.meets at h ⊢
    by_cases hc : (w.cls == c) = true
    · simp only [hc, Bool.true_and, List.any_eq_false] at h ⊢
      intro p hp
      obtain ⟨t, ht, hq⟩ := List.mem_flatMap.1 hp
      exact h t ht p hq
    · simp [hc]
  have e1 : s.unservedOf false (ts.flatMap fun t => physPieces map t.va t.n) = [] := by
    apply unservedOf_none
    intro p hp
    obtain ⟨t, ht, hq⟩ := List.mem_flatMap.1 hp
    exact hu t ht p hq
  have e2 : s.hart.orders.filter (fun o => o.reads && o.after == c) = [] := by
    rw [List.filter_eq_nil_iff]
    intro o h
    by_cases ha : o.after = c
    · simp [ho o h ha]
    · simp [ha]
  have e3 : s.consumedBy c false (ts.flatMap fun t => physPieces map t.va t.n) = none := by
    unfold State.consumedBy
    split
    · rfl
    · apply findSome_none
      intro p hm
      obtain ⟨t, ht, hq⟩ := List.mem_flatMap.1 hm
      exact consumes_clean s c false p.1 p.2 fun u h => hp u h t ht p hq
  simp only [State.whenRead, e1, State.readPieces]
  rw [readFirst_free s c _ _ _ e2 (fun w h => meets w (hh w h)) fun w h a b => meets w (hw w h a b), e3]

theorem afterPubs_none (s : State) (p : Pub → Bool) (k : State → Res) (h : ∀ q ∈ s.ownPubs, p q = false) :
    s.afterPubs p k = k s := by
  have : s.ownPubs.any p = false := by
    rw [List.any_eq_false]
    intro q hq
    simp [h q hq]
  simp [State.afterPubs, this]

/-! ### Writes -/

/-- Whole bytes over a byte. -/
theorem wholeByte_apply (b c : Byte) : (⟨b, 0xFF⟩ : WByte).apply c = b := by
  simp only [WByte.apply]
  have : ~~~(0xFF#8) = 0#8 := rfl
  rw [show (0xFF : Byte) = BitVec.allOnes 8 from rfl, BitVec.and_allOnes]
  simp

/-- What a run of bytes in one page writes. -/
theorem runWrites_page (s : State) (c : Cls) (va : Word) (base u : Nat) (leaf : Word) (bs : List WByte)
    (h : va.toNat % 65536 + bs.length ≤ 65536) :
    let ws := s.runWrites c [(pageOf va, base, leaf)] u va bs
    let pa := base + va.toNat % 65536
    (∀ w ∈ ws, w.hart = s.hart.id ∧ w.cls = c ∧ w.now = false ∧ w.perm = none ∧ pa ≤ w.pa ∧ w.pa + w.bytes.length ≤ pa + bs.length) ∧
    (∀ a b, overlay ws a b = if pa ≤ a ∧ a < pa + bs.length then
      (match bs[a - pa]? with | some k => k.apply b | none => b) else b) := by
  have key : ∀ (fuel j : Nat) (acc : List Write), j ≤ bs.length →
      (bs.length - j = 0 ∨ (j + va.toNat) % 128 + (bs.length - j) ≤ fuel * 128) →
      let pa := base + va.toNat % 65536
      let r := (pieces fuel (va + BitVec.ofNat 64 j) (bs.length - j)).foldl (fun (a : Nat × List Write) p =>
        let pa := physOf [(pageOf va, base, leaf)] p.1
        let page := pa / 65536 * 65536
        let lo := max page (pa - a.1)
        let hi := min (page + 65536) (pa + (bs.length - a.1))
        (a.1 + p.2, s.mkWrite c pa ((bs.drop a.1).take p.2) u lo hi (s.transOf s.hart.ptbase p.1) :: a.2)) (j, acc)
      ∃ ws, r.2 = ws.reverse ++ acc ∧
        (∀ w ∈ ws, w.hart = s.hart.id ∧ w.cls = c ∧ w.now = false ∧ w.perm = none ∧ pa + j ≤ w.pa ∧
          w.pa + w.bytes.length ≤ pa + bs.length) ∧
        (∀ a b, overlay ws a b = if pa + j ≤ a ∧ a < pa + bs.length then
          (match bs[a - pa]? with | some k => k.apply b | none => b) else b) := by
    intro fuel
    induction fuel with
    | zero =>
      intro j acc h1 h2
      refine ⟨[], by simp [pieces], by simp, ?_⟩
      intro a b
      rw [if_neg (by omega)]
      rfl
    | succ fuel ih =>
      intro j acc h1 h2
      by_cases hm : bs.length - j = 0
      · refine ⟨[], by simp [pieces, hm], by simp, ?_⟩
        intro a b
        rw [if_neg (by omega)]
        rfl
      · obtain ⟨hp, ht⟩ := pageOf_add va j (by omega)
        have hk : min (bs.length - j) (128 - (va + BitVec.ofNat 64 j).toNat % 128) =
            min (bs.length - j) (128 - (j + va.toNat) % 128) := by
          rw [ht, Nat.add_comm]
        generalize hq : min (bs.length - j) (128 - (j + va.toNat) % 128) = q at hk
        have hq0 : 0 < q := by omega
        have hqm : q ≤ bs.length - j := by omega
        have hadd : va + BitVec.ofNat 64 j + BitVec.ofNat 64 q = va + BitVec.ofNat 64 (j + q) := by
          rw [BitVec.add_assoc, ← BitVec.ofNat_add]
        have hf : bs.length - (j + q) = 0 ∨ (j + q + va.toNat) % 128 + (bs.length - (j + q)) ≤ fuel * 128 := by
          clear hk hadd ih hp ht
          omega
        have hphys := physOf_one va j base leaf (by omega)
        simp only [pieces, hm, if_false, hk, List.foldl_cons, hadd, hphys]
        rw [show bs.length - j - q = bs.length - (j + q) by omega]
        generalize hw0 : s.mkWrite c (base + va.toNat % 65536 + j) ((bs.drop j).take q) u
          (max ((base + va.toNat % 65536 + j) / 65536 * 65536) (base + va.toNat % 65536 + j - j))
          (min ((base + va.toNat % 65536 + j) / 65536 * 65536 + 65536) (base + va.toNat % 65536 + j + (bs.length - j)))
          (s.transOf s.hart.ptbase (va + BitVec.ofNat 64 j)) = w0
        obtain ⟨ws, e1, e2, e3⟩ := ih (j + q) (w0 :: acc) (by omega) hf
        refine ⟨w0 :: ws, ?_, ?_, ?_⟩
        · rw [List.reverse_cons, List.append_assoc]
          exact e1
        · intro w hw
          rcases List.mem_cons.1 hw with rfl | hw
          · subst hw0
            refine ⟨rfl, rfl, rfl, rfl, Nat.le_refl _, ?_⟩
            simp only [State.mkWrite, List.length_take, List.length_drop]
            omega
          · obtain ⟨a1, a2, a3, a4, a5, a6⟩ := e2 w hw
            exact ⟨a1, a2, a3, a4, by omega, a6⟩
        · subst hw0
          intro a b
          have hov : ∀ (w : Write) (ws : List Write), overlay (w :: ws) a b = overlay ws a
              (if w.pa ≤ a ∧ a < w.pa + w.bytes.length then (match w.bytes[a - w.pa]? with | some k => k.apply b | none => b) else b) := by
            intro w ws
            rfl
          rw [hov, e3]
          simp only [State.mkWrite, List.length_take, List.length_drop]
          rw [Nat.min_eq_left (by omega : q ≤ bs.length - j)]
          by_cases c1 : base + va.toNat % 65536 + j ≤ a ∧ a < base + va.toNat % 65536 + bs.length
          · by_cases c2 : a < base + va.toNat % 65536 + j + q
            · rw [if_neg (by omega), if_pos (by omega), if_pos c1]
              rw [List.getElem?_take_of_lt (by omega), List.getElem?_drop]
              rw [show j + (a - (base + va.toNat % 65536 + j)) = a - (base + va.toNat % 65536) by omega]
            · rw [if_pos (by omega), if_neg (by omega), if_pos c1]
          · rw [if_neg (by omega), if_neg (by omega), if_neg c1]
  obtain ⟨ws, e1, e2, e3⟩ := key (bs.length / 128 + 2) 0 [] (by omega) (by right; omega)
  have e : s.runWrites c [(pageOf va, base, leaf)] u va bs = ws := by
    unfold State.runWrites
    simp only [Nat.sub_zero, BitVec.add_zero] at e1
    rw [e1]
    simp
  rw [e]
  exact ⟨by simpa using e2, by simpa using e3⟩

end Sys2Proof.Laws
end

