-- ==== Sys2Proof/Laws/Exec.lean ====
section
/-! SUPPORT. The meaning of every instruction, one equation each, so that no later proof evaluates the dispatch. -/

namespace Sys2Proof.Laws

open Sys2Proof.Machine

theorem exec_doorbell {q tail : _} {st : State} : exec (.doorbell q tail) st = execDoorbell q tail st := rfl
theorem exec_gangAbort {id : _} {st : State} : exec (.gangAbort id) st = execGangAbort id st := rfl
theorem exec_deviceRegisterWrite {off lg val : _} {st : State} : exec (.deviceRegisterWrite off lg val) st = execDeviceRegisterWrite off lg val st := rfl
theorem exec_seraiWrite {d val : _} {st : State} : exec (.seraiWrite d val) st = execSeraiWrite d val st := rfl
theorem exec_llcreqWrite {val : _} {st : State} : exec (.llcreqWrite val) st = execLlcreqWrite val st := rfl
theorem exec_tgapply {val : _} {st : State} : exec (.tgapply val) st = execTgapply val st := rfl
theorem exec_swap {val : _} {st : State} : exec (.swap val) st = execSwap val st := rfl
theorem exec_retrain {t val : _} {st : State} : exec (.retrain t val) st = execRetrain t val st := rfl
theorem exec_getreport {st : State} : exec .getreport st = execGetreport st := rfl
theorem exec_getmanifest {st : State} : exec .getmanifest st = execGetmanifest st := rfl
theorem exec_instkey {st : State} : exec .instkey st = execInstkey st := rfl
theorem exec_fwload {st : State} : exec .fwload st = execFwload st := rfl
theorem exec_switchout {st : State} : exec .switchout st = execSwitchout st := rfl
theorem exec_resumeh {st : State} : exec .resumeh st = execResumeh st := rfl
theorem exec_getevent {st : State} : exec .getevent st = execGetevent st := rfl
theorem exec_packetOffer {q : _} {st : State} : exec (.packetOffer q) st = execPacketOffer q st := rfl
theorem exec_watermarkRead {q : _} {st : State} : exec (.watermarkRead q) st = execWatermarkRead q st := rfl
theorem exec_launchAging {q : _} {st : State} : exec (.launchAging q) st = execLaunchAging q st := rfl
theorem exec_gangServe {st : State} : exec .gangServe st = execGangServe st := rfl
theorem exec_gangPlacement {places : _} {st : State} : exec (.gangPlacement places) st = execGangPlacement places st := rfl
theorem exec_reclaimDeadline {h : _} {st : State} : exec (.reclaimDeadline h) st = execReclaimDeadline h st := rfl
theorem exec_fullContextSwitch {h : _} {st : State} : exec (.fullContextSwitch h) st = execFullContextSwitch h st := rfl
theorem exec_hartResume {k h : _} {st : State} : exec (.hartResume k h) st = execHartResume k h st := rfl
theorem exec_completionRecord {id : _} {st : State} : exec (.completionRecord id) st = execCompletionRecord id st := rfl
theorem exec_parkedHartGrant {h : _} {st : State} : exec (.parkedHartGrant h) st = execParkedHartGrant h st := rfl
theorem exec_vrelGroupRelease {h : _} {st : State} : exec (.vrelGroupRelease h) st = execVrelGroupRelease h st := rfl
theorem exec_vectorConvoyStart {h mis : _} {st : State} : exec (.vectorConvoyStart h mis) st = execVectorConvoyStart h mis st := rfl
theorem exec_convoyRetire {h : _} {st : State} : exec (.convoyRetire h) st = execConvoyRetire h st := rfl
theorem exec_elementStep {h : _} {st : State} : exec (.elementStep h) st = execElementStep h st := rfl
theorem exec_instructionBreakpoint {h : _} {st : State} : exec (.instructionBreakpoint h) st = execInstructionBreakpoint h st := rfl
theorem exec_trapDelivery {h : _} {st : State} : exec (.trapDelivery h) st = execTrapDelivery h st := rfl
theorem exec_poisonConsumed {h : _} {st : State} : exec (.poisonConsumed h) st = execPoisonConsumed h st := rfl
theorem exec_stallFault {h : _} {st : State} : exec (.stallFault h) st = execStallFault h st := rfl
theorem exec_migrationFault {h : _} {st : State} : exec (.migrationFault h) st = execMigrationFault h st := rfl
theorem exec_passComplete {h : _} {st : State} : exec (.passComplete h) st = execPassComplete h st := rfl
theorem exec_cowResolution {h va : _} {st : State} : exec (.cowResolution h va) st = execCowResolution h va st := rfl
theorem exec_pageWalk {h va : _} {st : State} : exec (.pageWalk h va) st = execPageWalk h va st := rfl
theorem exec_hotnessAddition {k : _} {st : State} : exec (.hotnessAddition k) st = execHotnessAddition k st := rfl
theorem exec_publication {h : _} {st : State} : exec (.publication h) st = execPublication h st := rfl
theorem exec_vsetvlwSatisfied {h : _} {st : State} : exec (.vsetvlwSatisfied h) st = execVsetvlwSatisfied h st := rfl
theorem exec_vwaitRound {h : _} {st : State} : exec (.vwaitRound h) st = execVwaitRound h st := rfl
theorem exec_pswaitSatisfied {h : _} {st : State} : exec (.pswaitSatisfied h) st = execPswaitSatisfied h st := rfl
theorem exec_exitGdropApply {k : _} {st : State} : exec (.exitGdropApply k) st = execExitGdropApply k st := rfl
theorem exec_launchAccept {h : _} {st : State} : exec (.launchAccept h) st = execLaunchAccept h st := rfl
theorem exec_vxsendPush {h : _} {st : State} : exec (.vxsendPush h) st = execVxsendPush h st := rfl
theorem exec_vxrecvPop {h : _} {st : State} : exec (.vxrecvPop h) st = execVxrecvPop h st := rfl
theorem exec_fenceWComplete {h : _} {st : State} : exec (.fenceWComplete h) st = execFenceWComplete h st := rfl
theorem exec_writePerformed {k units grow : _} {st : State} : exec (.writePerformed k units grow) st = execWritePerformed k units grow st := rfl
theorem exec_sliceRequest {core line write epoch full : _} {st : State} : exec (.sliceRequest core line write epoch full) st = execSliceRequest core line write epoch full st := rfl
theorem exec_retryResend {k : _} {st : State} : exec (.retryResend k) st = execRetryResend k st := rfl
theorem exec_reserveEviction {slice chunks : _} {st : State} : exec (.reserveEviction slice chunks) st = execReserveEviction slice chunks st := rfl
theorem exec_sliceMapChange {lines done : _} {st : State} : exec (.sliceMapChange lines done) st = execSliceMapChange lines done st := rfl
theorem exec_slotBankSwap {st : State} : exec .slotBankSwap st = execSlotBankSwap st := rfl
theorem exec_slotDeparture {t : _} {st : State} : exec (.slotDeparture t) st = execSlotDeparture t st := rfl
theorem exec_drawerReturn {t : _} {st : State} : exec (.drawerReturn t) st = execDrawerReturn t st := rfl
theorem exec_flitCheckFailure {t : _} {st : State} : exec (.flitCheckFailure t) st = execFlitCheckFailure t st := rfl
theorem exec_trunkRetrainStart {t lock : _} {st : State} : exec (.trunkRetrainStart t lock) st = execTrunkRetrainStart t lock st := rfl
theorem exec_retrainAttemptEnd {t fib : _} {st : State} : exec (.retrainAttemptEnd t fib) st = execRetrainAttemptEnd t fib st := rfl
theorem exec_correctedError {k : _} {st : State} : exec (.correctedError k) st = execCorrectedError k st := rfl
theorem exec_poisonCreated {pa mem packed : _} {st : State} : exec (.poisonCreated pa mem packed) st = execPoisonCreated pa mem packed st := rfl
theorem exec_tagDirectoryError {line dirty : _} {st : State} : exec (.tagDirectoryError line dirty) st = execTagDirectoryError line dirty st := rfl
theorem exec_sequenceCounterLost {line : _} {st : State} : exec (.sequenceCounterLost line) st = execSequenceCounterLost line st := rfl
theorem exec_hostRequest {a pa n data : _} {st : State} : exec (.hostRequest a pa n data) st = execHostRequest a pa n data st := rfl
theorem exec_cxlBackInvalidation {pa data : _} {st : State} : exec (.cxlBackInvalidation pa data) st = execCxlBackInvalidation pa data st := rfl
theorem exec_numbering {psd : _} {st : State} : exec (.numbering psd) st = execNumbering psd st := rfl
theorem exec_importValidation {psd : _} {st : State} : exec (.importValidation psd) st = execImportValidation psd st := rfl
theorem exec_rowMoveStart {psd cyc : _} {st : State} : exec (.rowMoveStart psd cyc) st = execRowMoveStart psd cyc st := rfl
theorem exec_copyRoundComplete {psd cyc : _} {st : State} : exec (.copyRoundComplete psd cyc) st = execCopyRoundComplete psd cyc st := rfl
theorem exec_rowCommit {psd cyc : _} {st : State} : exec (.rowCommit psd cyc) st = execRowCommit psd cyc st := rfl
theorem exec_ptcAck {psd row : _} {st : State} : exec (.ptcAck psd row) st = execPtcAck psd row st := rfl
theorem exec_reorderStop {psd cyc reason : _} {st : State} : exec (.reorderStop psd cyc reason) st = execReorderStop psd cyc reason st := rfl
theorem exec_sketchUpdate {k : _} {st : State} : exec (.sketchUpdate k) st = execSketchUpdate k st := rfl
theorem exec_migrationCommit {h : _} {st : State} : exec (.migrationCommit h) st = execMigrationCommit h st := rfl
theorem exec_migrationAbandon {h : _} {st : State} : exec (.migrationAbandon h) st = execMigrationAbandon h st := rfl
theorem exec_moduleReset {st : State} : exec .moduleReset st = execModuleReset st := rfl
theorem exec_bootVerify {st : State} : exec .bootVerify st = execBootVerify st := rfl
theorem exec_selftestComplete {st : State} : exec .selftestComplete st = execSelftestComplete st := rfl
theorem exec_peerModuleAccess {kind pa n data : _} {st : State} : exec (.peerModuleAccess kind pa n data) st = execPeerModuleAccess kind pa n data st := rfl
theorem exec_mailboxCommandDone {st : State} : exec .mailboxCommandDone st = execMailboxCommandDone st := rfl
theorem exec_add {d a b : _} {st : State} : exec (.add d a b) st = execAdd d a b st := rfl
theorem exec_sub {d a b : _} {st : State} : exec (.sub d a b) st = execSub d a b st := rfl
theorem exec_and {d a b : _} {st : State} : exec (.and d a b) st = execAnd d a b st := rfl
theorem exec_or {d a b : _} {st : State} : exec (.or d a b) st = execOr d a b st := rfl
theorem exec_xor {d a b : _} {st : State} : exec (.xor d a b) st = execXor d a b st := rfl
theorem exec_andn {d a b : _} {st : State} : exec (.andn d a b) st = execAndn d a b st := rfl
theorem exec_orn {d a b : _} {st : State} : exec (.orn d a b) st = execOrn d a b st := rfl
theorem exec_sll {d a b : _} {st : State} : exec (.sll d a b) st = execSll d a b st := rfl
theorem exec_srl {d a b : _} {st : State} : exec (.srl d a b) st = execSrl d a b st := rfl
theorem exec_sra {d a b : _} {st : State} : exec (.sra d a b) st = execSra d a b st := rfl
theorem exec_rotl {d a b : _} {st : State} : exec (.rotl d a b) st = execRotl d a b st := rfl
theorem exec_rotr {d a b : _} {st : State} : exec (.rotr d a b) st = execRotr d a b st := rfl
theorem exec_slt {d a b : _} {st : State} : exec (.slt d a b) st = execSlt d a b st := rfl
theorem exec_sltu {d a b : _} {st : State} : exec (.sltu d a b) st = execSltu d a b st := rfl
theorem exec_min {d a b : _} {st : State} : exec (.min d a b) st = execMin d a b st := rfl
theorem exec_max {d a b : _} {st : State} : exec (.max d a b) st = execMax d a b st := rfl
theorem exec_minu {d a b : _} {st : State} : exec (.minu d a b) st = execMinu d a b st := rfl
theorem exec_maxu {d a b : _} {st : State} : exec (.maxu d a b) st = execMaxu d a b st := rfl
theorem exec_mul {d a b : _} {st : State} : exec (.mul d a b) st = execMul d a b st := rfl
theorem exec_mulh {d a b : _} {st : State} : exec (.mulh d a b) st = execMulh d a b st := rfl
theorem exec_mulhu {d a b : _} {st : State} : exec (.mulhu d a b) st = execMulhu d a b st := rfl
theorem exec_div {d a b : _} {st : State} : exec (.div d a b) st = execDiv d a b st := rfl
theorem exec_divu {d a b : _} {st : State} : exec (.divu d a b) st = execDivu d a b st := rfl
theorem exec_rem {d a b : _} {st : State} : exec (.rem d a b) st = execRem d a b st := rfl
theorem exec_remu {d a b : _} {st : State} : exec (.remu d a b) st = execRemu d a b st := rfl
theorem exec_clz {d a : _} {st : State} : exec (.clz d a) st = execClz d a st := rfl
theorem exec_ctz {d a : _} {st : State} : exec (.ctz d a) st = execCtz d a st := rfl
theorem exec_popc {d a : _} {st : State} : exec (.popc d a) st = execPopc d a st := rfl
theorem exec_sextb {d a : _} {st : State} : exec (.sextb d a) st = execSextb d a st := rfl
theorem exec_sexth {d a : _} {st : State} : exec (.sexth d a) st = execSexth d a st := rfl
theorem exec_sextw {d a : _} {st : State} : exec (.sextw d a) st = execSextw d a st := rfl
theorem exec_zextw {d a : _} {st : State} : exec (.zextw d a) st = execZextw d a st := rfl
theorem exec_addi {d a im : _} {st : State} : exec (.addi d a im) st = execAddi d a im st := rfl
theorem exec_andi {d a im : _} {st : State} : exec (.andi d a im) st = execAndi d a im st := rfl
theorem exec_ori {d a im : _} {st : State} : exec (.ori d a im) st = execOri d a im st := rfl
theorem exec_xori {d a im : _} {st : State} : exec (.xori d a im) st = execXori d a im st := rfl
theorem exec_slti {d a im : _} {st : State} : exec (.slti d a im) st = execSlti d a im st := rfl
theorem exec_sltiu {d a im : _} {st : State} : exec (.sltiu d a im) st = execSltiu d a im st := rfl
theorem exec_slli {d a sl : _} {st : State} : exec (.slli d a sl) st = execSlli d a sl st := rfl
theorem exec_srli {d a sl : _} {st : State} : exec (.srli d a sl) st = execSrli d a sl st := rfl
theorem exec_srai {d a sl : _} {st : State} : exec (.srai d a sl) st = execSrai d a sl st := rfl
theorem exec_muli {d a im : _} {st : State} : exec (.muli d a im) st = execMuli d a im st := rfl
theorem exec_movi {d im : _} {st : State} : exec (.movi d im) st = execMovi d im st := rfl
theorem exec_movh {d im : _} {st : State} : exec (.movh d im) st = execMovh d im st := rfl
theorem exec_smb {c k l m n b p : _} {st : State} : exec (.smb c k l m n b p) st = execSmb c k l m n b p st := rfl
theorem exec_beq {a b o : _} {st : State} : exec (.beq a b o) st = execBeq a b o st := rfl
theorem exec_bne {a b o : _} {st : State} : exec (.bne a b o) st = execBne a b o st := rfl
theorem exec_blt {a b o : _} {st : State} : exec (.blt a b o) st = execBlt a b o st := rfl
theorem exec_bge {a b o : _} {st : State} : exec (.bge a b o) st = execBge a b o st := rfl
theorem exec_bltu {a b o : _} {st : State} : exec (.bltu a b o) st = execBltu a b o st := rfl
theorem exec_bgeu {a b o : _} {st : State} : exec (.bgeu a b o) st = execBgeu a b o st := rfl
theorem exec_jal {d o : _} {st : State} : exec (.jal d o) st = execJal d o st := rfl
theorem exec_jalr {d a im : _} {st : State} : exec (.jalr d a im) st = execJalr d a im st := rfl
theorem exec_lb {d a h im : _} {st : State} : exec (.lb d a h im) st = execLb d a h im st := rfl
theorem exec_lbu {d a h im : _} {st : State} : exec (.lbu d a h im) st = execLbu d a h im st := rfl
theorem exec_lh {d a h im : _} {st : State} : exec (.lh d a h im) st = execLh d a h im st := rfl
theorem exec_lhu {d a h im : _} {st : State} : exec (.lhu d a h im) st = execLhu d a h im st := rfl
theorem exec_lw {d a h im : _} {st : State} : exec (.lw d a h im) st = execLw d a h im st := rfl
theorem exec_lwu {d a h im : _} {st : State} : exec (.lwu d a h im) st = execLwu d a h im st := rfl
theorem exec_ld {d a h t im : _} {st : State} : exec (.ld d a h t im) st = execLd d a h t im st := rfl
theorem exec_ldp {d a h t im : _} {st : State} : exec (.ldp d a h t im) st = execLdp d a h t im st := rfl
theorem exec_sb {d a h im : _} {st : State} : exec (.sb d a h im) st = execSb d a h im st := rfl
theorem exec_sh {d a h im : _} {st : State} : exec (.sh d a h im) st = execSh d a h im st := rfl
theorem exec_sw {d a h im : _} {st : State} : exec (.sw d a h im) st = execSw d a h im st := rfl
theorem exec_sd {d a h t im : _} {st : State} : exec (.sd d a h t im) st = execSd d a h t im st := rfl
theorem exec_sdp {d a h t im : _} {st : State} : exec (.sdp d a h t im) st = execSdp d a h t im st := rfl
theorem exec_aadd {d a b q r w u sl : _} {st : State} : exec (.aadd d a b q r w u sl) st = execAadd d a b q r w u sl st := rfl
theorem exec_aand {d a b q r w u sl : _} {st : State} : exec (.aand d a b q r w u sl) st = execAand d a b q r w u sl st := rfl
theorem exec_aor {d a b q r w u sl : _} {st : State} : exec (.aor d a b q r w u sl) st = execAor d a b q r w u sl st := rfl
theorem exec_axor {d a b q r w u sl : _} {st : State} : exec (.axor d a b q r w u sl) st = execAxor d a b q r w u sl st := rfl
theorem exec_amin {d a b q r w u sl : _} {st : State} : exec (.amin d a b q r w u sl) st = execAmin d a b q r w u sl st := rfl
theorem exec_amax {d a b q r w u sl : _} {st : State} : exec (.amax d a b q r w u sl) st = execAmax d a b q r w u sl st := rfl
theorem exec_aminu {d a b q r w u sl : _} {st : State} : exec (.aminu d a b q r w u sl) st = execAminu d a b q r w u sl st := rfl
theorem exec_amaxu {d a b q r w u sl : _} {st : State} : exec (.amaxu d a b q r w u sl) st = execAmaxu d a b q r w u sl st := rfl
theorem exec_aswap {d a b q r w u sl : _} {st : State} : exec (.aswap d a b q r w u sl) st = execAswap d a b q r w u sl st := rfl
theorem exec_acas {d a b q r w u sl : _} {st : State} : exec (.acas d a b q r w u sl) st = execAcas d a b q r w u sl st := rfl
theorem exec_ald {d a q w u sl : _} {st : State} : exec (.ald d a q w u sl) st = execAld d a q w u sl st := rfl
theorem exec_ast {a b r w sl : _} {st : State} : exec (.ast a b r w sl) st = execAst a b r w sl st := rfl
theorem exec_fence {m sl : _} {st : State} : exec (.fence m sl) st = execFence m sl st := rfl
theorem exec_fenceSv {m sl : _} {st : State} : exec (.fenceSv m sl) st = execFenceSv m sl st := rfl
theorem exec_fenceVs {m sl : _} {st : State} : exec (.fenceVs m sl) st = execFenceVs m sl st := rfl
theorem exec_fenceW {sl : _} {st : State} : exec (.fenceW sl) st = execFenceW sl st := rfl
theorem exec_fenceI {st : State} : exec .fenceI st = execFenceI st := rfl
theorem exec_vsetvli {d a v : _} {st : State} : exec (.vsetvli d a v) st = execVsetvli d a v st := rfl
theorem exec_vsetvl {d a b : _} {st : State} : exec (.vsetvl d a b) st = execVsetvl d a b st := rfl
theorem exec_vsetvlw {d a v : _} {st : State} : exec (.vsetvlw d a v) st = execVsetvlw d a v st := rfl
theorem exec_vrel {st : State} : exec .vrel st = execVrel st := rfl
theorem exec_vaddVV {d a b p f : _} {st : State} : exec (.vaddVV d a b p f) st = execVaddVV d a b p f st := rfl
theorem exec_vsubVV {d a b p f : _} {st : State} : exec (.vsubVV d a b p f) st = execVsubVV d a b p f st := rfl
theorem exec_vsaddVV {d a b p f : _} {st : State} : exec (.vsaddVV d a b p f) st = execVsaddVV d a b p f st := rfl
theorem exec_vssubVV {d a b p f : _} {st : State} : exec (.vssubVV d a b p f) st = execVssubVV d a b p f st := rfl
theorem exec_vmulVV {d a b p f : _} {st : State} : exec (.vmulVV d a b p f) st = execVmulVV d a b p f st := rfl
theorem exec_vmulhVV {d a b p f : _} {st : State} : exec (.vmulhVV d a b p f) st = execVmulhVV d a b p f st := rfl
theorem exec_vandVV {d a b p f : _} {st : State} : exec (.vandVV d a b p f) st = execVandVV d a b p f st := rfl
theorem exec_vorVV {d a b p f : _} {st : State} : exec (.vorVV d a b p f) st = execVorVV d a b p f st := rfl
theorem exec_vxorVV {d a b p f : _} {st : State} : exec (.vxorVV d a b p f) st = execVxorVV d a b p f st := rfl
theorem exec_vsllVV {d a b p f : _} {st : State} : exec (.vsllVV d a b p f) st = execVsllVV d a b p f st := rfl
theorem exec_vsrlVV {d a b p f : _} {st : State} : exec (.vsrlVV d a b p f) st = execVsrlVV d a b p f st := rfl
theorem exec_vsraVV {d a b p f : _} {st : State} : exec (.vsraVV d a b p f) st = execVsraVV d a b p f st := rfl
theorem exec_vminVV {d a b p f : _} {st : State} : exec (.vminVV d a b p f) st = execVminVV d a b p f st := rfl
theorem exec_vmaxVV {d a b p f : _} {st : State} : exec (.vmaxVV d a b p f) st = execVmaxVV d a b p f st := rfl
theorem exec_vminuVV {d a b p f : _} {st : State} : exec (.vminuVV d a b p f) st = execVminuVV d a b p f st := rfl
theorem exec_vmaxuVV {d a b p f : _} {st : State} : exec (.vmaxuVV d a b p f) st = execVmaxuVV d a b p f st := rfl
theorem exec_vaddVX {d a b p f : _} {st : State} : exec (.vaddVX d a b p f) st = execVaddVX d a b p f st := rfl
theorem exec_vsubVX {d a b p f : _} {st : State} : exec (.vsubVX d a b p f) st = execVsubVX d a b p f st := rfl
theorem exec_vsaddVX {d a b p f : _} {st : State} : exec (.vsaddVX d a b p f) st = execVsaddVX d a b p f st := rfl
theorem exec_vssubVX {d a b p f : _} {st : State} : exec (.vssubVX d a b p f) st = execVssubVX d a b p f st := rfl
theorem exec_vmulVX {d a b p f : _} {st : State} : exec (.vmulVX d a b p f) st = execVmulVX d a b p f st := rfl
theorem exec_vmulhVX {d a b p f : _} {st : State} : exec (.vmulhVX d a b p f) st = execVmulhVX d a b p f st := rfl
theorem exec_vandVX {d a b p f : _} {st : State} : exec (.vandVX d a b p f) st = execVandVX d a b p f st := rfl
theorem exec_vorVX {d a b p f : _} {st : State} : exec (.vorVX d a b p f) st = execVorVX d a b p f st := rfl
theorem exec_vxorVX {d a b p f : _} {st : State} : exec (.vxorVX d a b p f) st = execVxorVX d a b p f st := rfl
theorem exec_vsllVX {d a b p f : _} {st : State} : exec (.vsllVX d a b p f) st = execVsllVX d a b p f st := rfl
theorem exec_vsrlVX {d a b p f : _} {st : State} : exec (.vsrlVX d a b p f) st = execVsrlVX d a b p f st := rfl
theorem exec_vsraVX {d a b p f : _} {st : State} : exec (.vsraVX d a b p f) st = execVsraVX d a b p f st := rfl
theorem exec_vminVX {d a b p f : _} {st : State} : exec (.vminVX d a b p f) st = execVminVX d a b p f st := rfl
theorem exec_vmaxVX {d a b p f : _} {st : State} : exec (.vmaxVX d a b p f) st = execVmaxVX d a b p f st := rfl
theorem exec_vminuVX {d a b p f : _} {st : State} : exec (.vminuVX d a b p f) st = execVminuVX d a b p f st := rfl
theorem exec_vmaxuVX {d a b p f : _} {st : State} : exec (.vmaxuVX d a b p f) st = execVmaxuVX d a b p f st := rfl
theorem exec_vaddi {d b p im : _} {st : State} : exec (.vaddi d b p im) st = execVaddi d b p im st := rfl
theorem exec_vandi {d b p im : _} {st : State} : exec (.vandi d b p im) st = execVandi d b p im st := rfl
theorem exec_vori {d b p im : _} {st : State} : exec (.vori d b p im) st = execVori d b p im st := rfl
theorem exec_vxori {d b p im : _} {st : State} : exec (.vxori d b p im) st = execVxori d b p im st := rfl
theorem exec_vslli {d b p im : _} {st : State} : exec (.vslli d b p im) st = execVslli d b p im st := rfl
theorem exec_vsrli {d b p im : _} {st : State} : exec (.vsrli d b p im) st = execVsrli d b p im st := rfl
theorem exec_vsrai {d b p im : _} {st : State} : exec (.vsrai d b p im) st = execVsrai d b p im st := rfl
theorem exec_vrsubi {d b p im : _} {st : State} : exec (.vrsubi d b p im) st = execVrsubi d b p im st := rfl
theorem exec_vmini {d b p im : _} {st : State} : exec (.vmini d b p im) st = execVmini d b p im st := rfl
theorem exec_vmaxi {d b p im : _} {st : State} : exec (.vmaxi d b p im) st = execVmaxi d b p im st := rfl
theorem exec_vmvi {d p im : _} {st : State} : exec (.vmvi d p im) st = execVmvi d p im st := rfl
theorem exec_vmixi {d b p im : _} {st : State} : exec (.vmixi d b p im) st = execVmixi d b p im st := rfl
theorem exec_vfadd {d a b p f : _} {st : State} : exec (.vfadd d a b p f) st = execVfadd d a b p f st := rfl
theorem exec_vfsub {d a b p f : _} {st : State} : exec (.vfsub d a b p f) st = execVfsub d a b p f st := rfl
theorem exec_vfmul {d a b p f : _} {st : State} : exec (.vfmul d a b p f) st = execVfmul d a b p f st := rfl
theorem exec_vfdiv {d a b p f : _} {st : State} : exec (.vfdiv d a b p f) st = execVfdiv d a b p f st := rfl
theorem exec_vfmac {d a b p f : _} {st : State} : exec (.vfmac d a b p f) st = execVfmac d a b p f st := rfl
theorem exec_vfnmac {d a b p f : _} {st : State} : exec (.vfnmac d a b p f) st = execVfnmac d a b p f st := rfl
theorem exec_vfmin {d a b p f : _} {st : State} : exec (.vfmin d a b p f) st = execVfmin d a b p f st := rfl
theorem exec_vfmax {d a b p f : _} {st : State} : exec (.vfmax d a b p f) st = execVfmax d a b p f st := rfl
theorem exec_vfsqrt {d b p f : _} {st : State} : exec (.vfsqrt d b p f) st = execVfsqrt d b p f st := rfl
theorem exec_vfcvt {d b p f : _} {st : State} : exec (.vfcvt d b p f) st = execVfcvt d b p f st := rfl
theorem exec_vfabs {d b p f : _} {st : State} : exec (.vfabs d b p f) st = execVfabs d b p f st := rfl
theorem exec_vfneg {d b p f : _} {st : State} : exec (.vfneg d b p f) st = execVfneg d b p f st := rfl
theorem exec_vfsgnj {d a b p f : _} {st : State} : exec (.vfsgnj d a b p f) st = execVfsgnj d a b p f st := rfl
theorem exec_vfclass {d b p f : _} {st : State} : exec (.vfclass d b p f) st = execVfclass d b p f st := rfl
theorem exec_vfaddVX {d a b p f : _} {st : State} : exec (.vfaddVX d a b p f) st = execVfaddVX d a b p f st := rfl
theorem exec_vfsubVX {d a b p f : _} {st : State} : exec (.vfsubVX d a b p f) st = execVfsubVX d a b p f st := rfl
theorem exec_vfmulVX {d a b p f : _} {st : State} : exec (.vfmulVX d a b p f) st = execVfmulVX d a b p f st := rfl
theorem exec_vfmacVX {d a b p f : _} {st : State} : exec (.vfmacVX d a b p f) st = execVfmacVX d a b p f st := rfl
theorem exec_vfminVX {d a b p f : _} {st : State} : exec (.vfminVX d a b p f) st = execVfminVX d a b p f st := rfl
theorem exec_vfmaxVX {d a b p f : _} {st : State} : exec (.vfmaxVX d a b p f) st = execVfmaxVX d a b p f st := rfl
theorem exec_vfrsubVX {d a b p f : _} {st : State} : exec (.vfrsubVX d a b p f) st = execVfrsubVX d a b p f st := rfl
theorem exec_vfrdivVX {d a b p f : _} {st : State} : exec (.vfrdivVX d a b p f) st = execVfrdivVX d a b p f st := rfl
theorem exec_vcmpeq {d a b p : _} {st : State} : exec (.vcmpeq d a b p) st = execVcmpeq d a b p st := rfl
theorem exec_vcmpne {d a b p : _} {st : State} : exec (.vcmpne d a b p) st = execVcmpne d a b p st := rfl
theorem exec_vcmplt {d a b p : _} {st : State} : exec (.vcmplt d a b p) st = execVcmplt d a b p st := rfl
theorem exec_vcmpltu {d a b p : _} {st : State} : exec (.vcmpltu d a b p) st = execVcmpltu d a b p st := rfl
theorem exec_vcmple {d a b p : _} {st : State} : exec (.vcmple d a b p) st = execVcmple d a b p st := rfl
theorem exec_vcmpleu {d a b p : _} {st : State} : exec (.vcmpleu d a b p) st = execVcmpleu d a b p st := rfl
theorem exec_vfcmpeq {d a b p : _} {st : State} : exec (.vfcmpeq d a b p) st = execVfcmpeq d a b p st := rfl
theorem exec_vfcmplt {d a b p : _} {st : State} : exec (.vfcmplt d a b p) st = execVfcmplt d a b p st := rfl
theorem exec_vfcmple {d a b p : _} {st : State} : exec (.vfcmple d a b p) st = execVfcmple d a b p st := rfl
theorem exec_vfcmpun {d a b p : _} {st : State} : exec (.vfcmpun d a b p) st = execVfcmpun d a b p st := rfl
theorem exec_vredsum {d a b p : _} {st : State} : exec (.vredsum d a b p) st = execVredsum d a b p st := rfl
theorem exec_vredmin {d a b p : _} {st : State} : exec (.vredmin d a b p) st = execVredmin d a b p st := rfl
theorem exec_vredmax {d a b p : _} {st : State} : exec (.vredmax d a b p) st = execVredmax d a b p st := rfl
theorem exec_vredminu {d a b p : _} {st : State} : exec (.vredminu d a b p) st = execVredminu d a b p st := rfl
theorem exec_vredmaxu {d a b p : _} {st : State} : exec (.vredmaxu d a b p) st = execVredmaxu d a b p st := rfl
theorem exec_vredand {d a b p : _} {st : State} : exec (.vredand d a b p) st = execVredand d a b p st := rfl
theorem exec_vredor {d a b p : _} {st : State} : exec (.vredor d a b p) st = execVredor d a b p st := rfl
theorem exec_vredxor {d a b p : _} {st : State} : exec (.vredxor d a b p) st = execVredxor d a b p st := rfl
theorem exec_vfredsum {d a b p : _} {st : State} : exec (.vfredsum d a b p) st = execVfredsum d a b p st := rfl
theorem exec_vfredmin {d a b p : _} {st : State} : exec (.vfredmin d a b p) st = execVfredmin d a b p st := rfl
theorem exec_vfredmax {d a b p : _} {st : State} : exec (.vfredmax d a b p) st = execVfredmax d a b p st := rfl
theorem exec_vperm {d a b p : _} {st : State} : exec (.vperm d a b p) st = execVperm d a b p st := rfl
theorem exec_vslideup {d a b p : _} {st : State} : exec (.vslideup d a b p) st = execVslideup d a b p st := rfl
theorem exec_vslidedown {d a b p : _} {st : State} : exec (.vslidedown d a b p) st = execVslidedown d a b p st := rfl
theorem exec_vcompress {d b p : _} {st : State} : exec (.vcompress d b p) st = execVcompress d b p st := rfl
theorem exec_vexpand {d b p : _} {st : State} : exec (.vexpand d b p) st = execVexpand d b p st := rfl
theorem exec_vid {d p : _} {st : State} : exec (.vid d p) st = execVid d p st := rfl
theorem exec_vsplat {d a p : _} {st : State} : exec (.vsplat d a p) st = execVsplat d a p st := rfl
theorem exec_vext {d a b : _} {st : State} : exec (.vext d a b) st = execVext d a b st := rfl
theorem exec_vins {d a b : _} {st : State} : exec (.vins d a b) st = execVins d a b st := rfl
theorem exec_vmv {d b p : _} {st : State} : exec (.vmv d b p) st = execVmv d b p st := rfl
theorem exec_vmix {d a b p : _} {st : State} : exec (.vmix d a b p) st = execVmix d a b p st := rfl
theorem exec_pand {p q r : _} {st : State} : exec (.pand p q r) st = execPand p q r st := rfl
theorem exec_por {p q r : _} {st : State} : exec (.por p q r) st = execPor p q r st := rfl
theorem exec_pxor {p q r : _} {st : State} : exec (.pxor p q r) st = execPxor p q r st := rfl
theorem exec_pandn {p q r : _} {st : State} : exec (.pandn p q r) st = execPandn p q r st := rfl
theorem exec_pnot {p q : _} {st : State} : exec (.pnot p q) st = execPnot p q st := rfl
theorem exec_pset {p : _} {st : State} : exec (.pset p) st = execPset p st := rfl
theorem exec_pclr {p : _} {st : State} : exec (.pclr p) st = execPclr p st := rfl
theorem exec_pmv {p q : _} {st : State} : exec (.pmv p q) st = execPmv p q st := rfl
theorem exec_pfirst {d q : _} {st : State} : exec (.pfirst d q) st = execPfirst d q st := rfl
theorem exec_pcount {d q : _} {st : State} : exec (.pcount d q) st = execPcount d q st := rfl
theorem exec_pld {p a : _} {st : State} : exec (.pld p a) st = execPld p a st := rfl
theorem exec_pst {a r : _} {st : State} : exec (.pst a r) st = execPst a r st := rfl
theorem exec_psetx {p a : _} {st : State} : exec (.psetx p a) st = execPsetx p a st := rfl
theorem exec_vld {d a p f n t : _} {st : State} : exec (.vld d a p f n t) st = execVld d a p f n t st := rfl
theorem exec_vlds {d a b p f n t : _} {st : State} : exec (.vlds d a b p f n t) st = execVlds d a b p f n t st := rfl
theorem exec_vldff {d a p f n t : _} {st : State} : exec (.vldff d a p f n t) st = execVldff d a p f n t st := rfl
theorem exec_vldz {d a b p f n t : _} {st : State} : exec (.vldz d a b p f n t) st = execVldz d a b p f n t st := rfl
theorem exec_vst {d a p f n t : _} {st : State} : exec (.vst d a p f n t) st = execVst d a p f n t st := rfl
theorem exec_vsts {d a b p f n t : _} {st : State} : exec (.vsts d a b p f n t) st = execVsts d a b p f n t st := rfl
theorem exec_vstz {d a b p f n t : _} {st : State} : exec (.vstz d a b p f n t) st = execVstz d a b p f n t st := rfl
theorem exec_vgat {d a b p f sl c n t : _} {st : State} : exec (.vgat d a b p f sl c n t) st = execVgat d a b p f sl c n t st := rfl
theorem exec_vsca {d a b p f sl n t : _} {st : State} : exec (.vsca d a b p f sl n t) st = execVsca d a b p f sl n t st := rfl
theorem exec_vaadd {d a b p q r sl : _} {st : State} : exec (.vaadd d a b p q r sl) st = execVaadd d a b p q r sl st := rfl
theorem exec_vaand {d a b p q r sl : _} {st : State} : exec (.vaand d a b p q r sl) st = execVaand d a b p q r sl st := rfl
theorem exec_vaor {d a b p q r sl : _} {st : State} : exec (.vaor d a b p q r sl) st = execVaor d a b p q r sl st := rfl
theorem exec_vaxor {d a b p q r sl : _} {st : State} : exec (.vaxor d a b p q r sl) st = execVaxor d a b p q r sl st := rfl
theorem exec_vamin {d a b p q r sl : _} {st : State} : exec (.vamin d a b p q r sl) st = execVamin d a b p q r sl st := rfl
theorem exec_vamax {d a b p q r sl : _} {st : State} : exec (.vamax d a b p q r sl) st = execVamax d a b p q r sl st := rfl
theorem exec_vaminu {d a b p q r sl : _} {st : State} : exec (.vaminu d a b p q r sl) st = execVaminu d a b p q r sl st := rfl
theorem exec_vamaxu {d a b p q r sl : _} {st : State} : exec (.vamaxu d a b p q r sl) st = execVamaxu d a b p q r sl st := rfl
theorem exec_vuadd {d a b p q r sl : _} {st : State} : exec (.vuadd d a b p q r sl) st = execVuadd d a b p q r sl st := rfl
theorem exec_vuand {d a b p q r sl : _} {st : State} : exec (.vuand d a b p q r sl) st = execVuand d a b p q r sl st := rfl
theorem exec_vuor {d a b p q r sl : _} {st : State} : exec (.vuor d a b p q r sl) st = execVuor d a b p q r sl st := rfl
theorem exec_vuxor {d a b p q r sl : _} {st : State} : exec (.vuxor d a b p q r sl) st = execVuxor d a b p q r sl st := rfl
theorem exec_vumin {d a b p q r sl : _} {st : State} : exec (.vumin d a b p q r sl) st = execVumin d a b p q r sl st := rfl
theorem exec_vumax {d a b p q r sl : _} {st : State} : exec (.vumax d a b p q r sl) st = execVumax d a b p q r sl st := rfl
theorem exec_vuminu {d a b p q r sl : _} {st : State} : exec (.vuminu d a b p q r sl) st = execVuminu d a b p q r sl st := rfl
theorem exec_vumaxu {d a b p q r sl : _} {st : State} : exec (.vumaxu d a b p q r sl) st = execVumaxu d a b p q r sl st := rfl
theorem exec_vaswap {d a b p q r sl : _} {st : State} : exec (.vaswap d a b p q r sl) st = execVaswap d a b p q r sl st := rfl
theorem exec_vacas {d a b p q r sl : _} {st : State} : exec (.vacas d a b p q r sl) st = execVacas d a b p q r sl st := rfl
theorem exec_vwaitEq {d a b p q sl : _} {st : State} : exec (.vwaitEq d a b p q sl) st = execVwaitEq d a b p q sl st := rfl
theorem exec_vwaitNe {d a b p q sl : _} {st : State} : exec (.vwaitNe d a b p q sl) st = execVwaitNe d a b p q sl st := rfl
theorem exec_vwaitGe {d a b p q sl : _} {st : State} : exec (.vwaitGe d a b p q sl) st = execVwaitGe d a b p q sl st := rfl
theorem exec_vwaitGeu {d a b p q sl : _} {st : State} : exec (.vwaitGeu d a b p q sl) st = execVwaitGeu d a b p q sl st := rfl
theorem exec_mma {d a b sl t u f : _} {st : State} : exec (.mma d a b sl t u f) st = execMma d a b sl t u f st := rfl
theorem exec_mmaz {d a b sl t u f : _} {st : State} : exec (.mmaz d a b sl t u f) st = execMmaz d a b sl t u f st := rfl
theorem exec_mms {d a b sl t u f : _} {st : State} : exec (.mms d a b sl t u f) st = execMms d a b sl t u f st := rfl
theorem exec_mmai {d a b sl t u f : _} {st : State} : exec (.mmai d a b sl t u f) st = execMmai d a b sl t u f st := rfl
theorem exec_mmaiz {d a b sl t u f : _} {st : State} : exec (.mmaiz d a b sl t u f) st = execMmaiz d a b sl t u f st := rfl
theorem exec_vcp {a : _} {st : State} : exec (.vcp a) st = execVcp a st := rfl
theorem exec_psbind {a sl : _} {st : State} : exec (.psbind a sl) st = execPsbind a sl st := rfl
theorem exec_psfree {sl : _} {st : State} : exec (.psfree sl) st = execPsfree sl st := rfl
theorem exec_psver {d sl : _} {st : State} : exec (.psver d sl) st = execPsver d sl st := rfl
theorem exec_psexp {a b sl : _} {st : State} : exec (.psexp a b sl) st = execPsexp a b sl st := rfl
theorem exec_psimp {a sl : _} {st : State} : exec (.psimp a sl) st = execPsimp a sl st := rfl
theorem exec_psord {sl : _} {st : State} : exec (.psord sl) st = execPsord sl st := rfl
theorem exec_pswait {a sl : _} {st : State} : exec (.pswait a sl) st = execPswait a sl st := rfl
theorem exec_psrec {a sl : _} {st : State} : exec (.psrec a sl) st = execPsrec a sl st := rfl
theorem exec_psstat {d sl : _} {st : State} : exec (.psstat d sl) st = execPsstat d sl st := rfl
theorem exec_gbar {a : _} {st : State} : exec (.gbar a) st = execGbar a st := rfl
theorem exec_garr {a : _} {st : State} : exec (.garr a) st = execGarr a st := rfl
theorem exec_gdrop {a : _} {st : State} : exec (.gdrop a) st = execGdrop a st := rfl
theorem exec_gwait {a : _} {st : State} : exec (.gwait a) st = execGwait a st := rfl
theorem exec_launch {d a b : _} {st : State} : exec (.launch d a b) st = execLaunch d a b st := rfl
theorem exec_vxsend {v a : _} {st : State} : exec (.vxsend v a) st = execVxsend v a st := rfl
theorem exec_vxrecv {v a : _} {st : State} : exec (.vxrecv v a) st = execVxrecv v a st := rfl
theorem exec_exit {st : State} : exec .exit st = execExit st := rfl
theorem exec_csrrw {d a c : _} {st : State} : exec (.csrrw d a c) st = execCsrrw d a c st := rfl
theorem exec_csrrs {d a c : _} {st : State} : exec (.csrrs d a c) st = execCsrrs d a c st := rfl
theorem exec_csrrc {d a c : _} {st : State} : exec (.csrrc d a c) st = execCsrrc d a c st := rfl
theorem exec_sys {a : _} {st : State} : exec (.sys a) st = execSys a st := rfl
theorem exec_tret {st : State} : exec .tret st = execTret st := rfl
theorem exec_brk {st : State} : exec .brk st = execBrk st := rfl
theorem exec_park {st : State} : exec .park st = execPark st := rfl
theorem exec_tlbinv {a b : _} {st : State} : exec (.tlbinv a b) st = execTlbinv a b st := rfl
theorem exec_ptcinv {a : _} {st : State} : exec (.ptcinv a) st = execPtcinv a st := rfl
theorem exec_pgshare {a : _} {st : State} : exec (.pgshare a) st = execPgshare a st := rfl
theorem exec_pgdrop {a : _} {st : State} : exec (.pgdrop a) st = execPgdrop a st := rfl
theorem exec_pgmove {a b : _} {st : State} : exec (.pgmove a b) st = execPgmove a b st := rfl
theorem exec_pghot {d a : _} {st : State} : exec (.pghot d a) st = execPghot d a st := rfl
theorem exec_mfcmp {d a : _} {st : State} : exec (.mfcmp d a) st = execMfcmp d a st := rfl
theorem exec_halt {st : State} : exec .halt st = execHalt st := rfl

end Sys2Proof.Laws
end

