-- ==== Sys2Proof/Laws/State.lean ====
section
/-! SUPPORT. One lemma for each field of the state after each named update, so that no proof unfolds a record update. -/

namespace Sys2Proof.Laws

open Sys2Proof.Machine

/-! ### Updates of the whole state -/

@[simp] theorem setX_others (s : State) (r : BitVec 5) (w : Word) : (s.setX r w).others = s.others := rfl
@[simp] theorem setX_conv (s : State) (r : BitVec 5) (w : Word) : (s.setX r w).conv = s.conv := rfl
@[simp] theorem setX_mem (s : State) (r : BitVec 5) (w : Word) : (s.setX r w).mem = s.mem := rfl
@[simp] theorem setX_poison (s : State) (r : BitVec 5) (w : Word) : (s.setX r w).poison = s.poison := rfl
@[simp] theorem setX_tags (s : State) (r : BitVec 5) (w : Word) : (s.setX r w).tags = s.tags := rfl
@[simp] theorem setX_absentPages (s : State) (r : BitVec 5) (w : Word) : (s.setX r w).absentPages = s.absentPages := rfl
@[simp] theorem setX_wq (s : State) (r : BitVec 5) (w : Word) : (s.setX r w).wq = s.wq := rfl
@[simp] theorem setX_unacked (s : State) (r : BitVec 5) (w : Word) : (s.setX r w).unacked = s.unacked := rfl
@[simp] theorem setX_llc (s : State) (r : BitVec 5) (w : Word) : (s.setX r w).llc = s.llc := rfl
@[simp] theorem setX_l2 (s : State) (r : BitVec 5) (w : Word) : (s.setX r w).l2 = s.l2 := rfl
@[simp] theorem setX_ended (s : State) (r : BitVec 5) (w : Word) : (s.setX r w).ended = s.ended := rfl
@[simp] theorem setX_chunks (s : State) (r : BitVec 5) (w : Word) : (s.setX r w).chunks = s.chunks := rfl
@[simp] theorem setX_images (s : State) (r : BitVec 5) (w : Word) : (s.setX r w).images = s.images := rfl
@[simp] theorem setX_imagesNext (s : State) (r : BitVec 5) (w : Word) : (s.setX r w).imagesNext = s.imagesNext := rfl
@[simp] theorem setX_l1d (s : State) (r : BitVec 5) (w : Word) : (s.setX r w).l1d = s.l1d := rfl
@[simp] theorem setX_pubs (s : State) (r : BitVec 5) (w : Word) : (s.setX r w).pubs = s.pubs := rfl
@[simp] theorem setX_hotPend (s : State) (r : BitVec 5) (w : Word) : (s.setX r w).hotPend = s.hotPend := rfl
@[simp] theorem setX_samples (s : State) (r : BitVec 5) (w : Word) : (s.setX r w).samples = s.samples := rfl
@[simp] theorem setX_tlb (s : State) (r : BitVec 5) (w : Word) : (s.setX r w).tlb = s.tlb := rfl
@[simp] theorem setX_l1i (s : State) (r : BitVec 5) (w : Word) : (s.setX r w).l1i = s.l1i := rfl
@[simp] theorem setX_ptc (s : State) (r : BitVec 5) (w : Word) : (s.setX r w).ptc = s.ptc := rfl
@[simp] theorem setX_pageMoves (s : State) (r : BitVec 5) (w : Word) : (s.setX r w).pageMoves = s.pageMoves := rfl
@[simp] theorem setX_stalled (s : State) (r : BitVec 5) (w : Word) : (s.setX r w).stalled = s.stalled := rfl
@[simp] theorem setX_lpr (s : State) (r : BitVec 5) (w : Word) : (s.setX r w).lpr = s.lpr := rfl
@[simp] theorem setX_fifos (s : State) (r : BitVec 5) (w : Word) : (s.setX r w).fifos = s.fifos := rfl
@[simp] theorem setX_relPend (s : State) (r : BitVec 5) (w : Word) : (s.setX r w).relPend = s.relPend := rfl
@[simp] theorem setX_laneGang (s : State) (r : BitVec 5) (w : Word) : (s.setX r w).laneGang = s.laneGang := rfl
@[simp] theorem setX_queues (s : State) (r : BitVec 5) (w : Word) : (s.setX r w).queues = s.queues := rfl
@[simp] theorem setX_masks (s : State) (r : BitVec 5) (w : Word) : (s.setX r w).masks = s.masks := rfl
@[simp] theorem setX_spaces (s : State) (r : BitVec 5) (w : Word) : (s.setX r w).spaces = s.spaces := rfl
@[simp] theorem setX_poolBase (s : State) (r : BitVec 5) (w : Word) : (s.setX r w).poolBase = s.poolBase := rfl
@[simp] theorem setX_poolCount (s : State) (r : BitVec 5) (w : Word) : (s.setX r w).poolCount = s.poolCount := rfl
@[simp] theorem setX_frames (s : State) (r : BitVec 5) (w : Word) : (s.setX r w).frames = s.frames := rfl
@[simp] theorem setX_offers (s : State) (r : BitVec 5) (w : Word) : (s.setX r w).offers = s.offers := rfl
@[simp] theorem setX_served (s : State) (r : BitVec 5) (w : Word) : (s.setX r w).served = s.served := rfl
@[simp] theorem setX_named (s : State) (r : BitVec 5) (w : Word) : (s.setX r w).named = s.named := rfl
@[simp] theorem setX_namedSlots (s : State) (r : BitVec 5) (w : Word) : (s.setX r w).namedSlots = s.namedSlots := rfl
@[simp] theorem setX_rr (s : State) (r : BitVec 5) (w : Word) : (s.setX r w).rr = s.rr := rfl
@[simp] theorem setX_gangs (s : State) (r : BitVec 5) (w : Word) : (s.setX r w).gangs = s.gangs := rfl
@[simp] theorem setX_swapped (s : State) (r : BitVec 5) (w : Word) : (s.setX r w).swapped = s.swapped := rfl
@[simp] theorem setX_exitDrops (s : State) (r : BitVec 5) (w : Word) : (s.setX r w).exitDrops = s.exitDrops := rfl
@[simp] theorem setX_sets (s : State) (r : BitVec 5) (w : Word) : (s.setX r w).sets = s.sets := rfl
@[simp] theorem setX_serai (s : State) (r : BitVec 5) (w : Word) : (s.setX r w).serai = s.serai := rfl
@[simp] theorem setX_dpriv (s : State) (r : BitVec 5) (w : Word) : (s.setX r w).dpriv = s.dpriv := rfl
@[simp] theorem setX_dshr (s : State) (r : BitVec 5) (w : Word) : (s.setX r w).dshr = s.dshr := rfl
@[simp] theorem setX_llcreq (s : State) (r : BitVec 5) (w : Word) : (s.setX r w).llcreq = s.llcreq := rfl
@[simp] theorem setX_llcp (s : State) (r : BitVec 5) (w : Word) : (s.setX r w).llcp = s.llcp := rfl
@[simp] theorem setX_epoch (s : State) (r : BitVec 5) (w : Word) : (s.setX r w).epoch = s.epoch := rfl
@[simp] theorem setX_change (s : State) (r : BitVec 5) (w : Word) : (s.setX r w).change = s.change := rfl
@[simp] theorem setX_changeHeld (s : State) (r : BitVec 5) (w : Word) : (s.setX r w).changeHeld = s.changeHeld := rfl
@[simp] theorem setX_migthr (s : State) (r : BitVec 5) (w : Word) : (s.setX r w).migthr = s.migthr := rfl
@[simp] theorem setX_stallthr (s : State) (r : BitVec 5) (w : Word) : (s.setX r w).stallthr = s.stallthr := rfl
@[simp] theorem setX_slotAct (s : State) (r : BitVec 5) (w : Word) : (s.setX r w).slotAct = s.slotAct := rfl
@[simp] theorem setX_swapPend (s : State) (r : BitVec 5) (w : Word) : (s.setX r w).swapPend = s.swapPend := rfl
@[simp] theorem setX_refused (s : State) (r : BitVec 5) (w : Word) : (s.setX r w).refused = s.refused := rfl
@[simp] theorem setX_tgShadow (s : State) (r : BitVec 5) (w : Word) : (s.setX r w).tgShadow = s.tgShadow := rfl
@[simp] theorem setX_tgActive (s : State) (r : BitVec 5) (w : Word) : (s.setX r w).tgActive = s.tgActive := rfl
@[simp] theorem setX_slotTab0 (s : State) (r : BitVec 5) (w : Word) : (s.setX r w).slotTab0 = s.slotTab0 := rfl
@[simp] theorem setX_slotTab1 (s : State) (r : BitVec 5) (w : Word) : (s.setX r w).slotTab1 = s.slotTab1 := rfl
@[simp] theorem setX_trunks (s : State) (r : BitVec 5) (w : Word) : (s.setX r w).trunks = s.trunks := rfl
@[simp] theorem setX_sliceReqs (s : State) (r : BitVec 5) (w : Word) : (s.setX r w).sliceReqs = s.sliceReqs := rfl
@[simp] theorem setX_reserve (s : State) (r : BitVec 5) (w : Word) : (s.setX r w).reserve = s.reserve := rfl
@[simp] theorem setX_elBase (s : State) (r : BitVec 5) (w : Word) : (s.setX r w).elBase = s.elBase := rfl
@[simp] theorem setX_elHead (s : State) (r : BitVec 5) (w : Word) : (s.setX r w).elHead = s.elHead := rfl
@[simp] theorem setX_elTail (s : State) (r : BitVec 5) (w : Word) : (s.setX r w).elTail = s.elTail := rfl
@[simp] theorem setX_elEn (s : State) (r : BitVec 5) (w : Word) : (s.setX r w).elEn = s.elEn := rfl
@[simp] theorem setX_elLog2 (s : State) (r : BitVec 5) (w : Word) : (s.setX r w).elLog2 = s.elLog2 := rfl
@[simp] theorem setX_elOvf (s : State) (r : BitVec 5) (w : Word) : (s.setX r w).elOvf = s.elOvf := rfl
@[simp] theorem setX_elMsi (s : State) (r : BitVec 5) (w : Word) : (s.setX r w).elMsi = s.elMsi := rfl
@[simp] theorem setX_cecnt (s : State) (r : BitVec 5) (w : Word) : (s.setX r w).cecnt = s.cecnt := rfl
@[simp] theorem setX_mbox (s : State) (r : BitVec 5) (w : Word) : (s.setX r w).mbox = s.mbox := rfl
@[simp] theorem setX_mstate (s : State) (r : BitVec 5) (w : Word) : (s.setX r w).mstate = s.mstate := rfl
@[simp] theorem setX_hostRead (s : State) (r : BitVec 5) (w : Word) : (s.setX r w).hostRead = s.hostRead := rfl
@[simp] theorem setX_cycle (s : State) (r : BitVec 5) (w : Word) : (s.setX r w).cycle = s.cycle := rfl
@[simp] theorem setX_fresh (s : State) (r : BitVec 5) (w : Word) : (s.setX r w).fresh = s.fresh := rfl
@[simp] theorem setX_agenda (s : State) (r : BitVec 5) (w : Word) : (s.setX r w).agenda = s.agenda := rfl

@[simp] theorem setX_hart (s : State) (r : BitVec 5) (w : Word) : (s.setX r w).hart = s.hart.setReg r w := rfl

@[simp] theorem flag_hart (s : State) (fx : BitVec 7) : (s.flag fx).hart = s.hart := rfl
@[simp] theorem flag_others (s : State) (fx : BitVec 7) : (s.flag fx).others = s.others := rfl
@[simp] theorem flag_mem (s : State) (fx : BitVec 7) : (s.flag fx).mem = s.mem := rfl
@[simp] theorem flag_poison (s : State) (fx : BitVec 7) : (s.flag fx).poison = s.poison := rfl
@[simp] theorem flag_tags (s : State) (fx : BitVec 7) : (s.flag fx).tags = s.tags := rfl
@[simp] theorem flag_absentPages (s : State) (fx : BitVec 7) : (s.flag fx).absentPages = s.absentPages := rfl
@[simp] theorem flag_wq (s : State) (fx : BitVec 7) : (s.flag fx).wq = s.wq := rfl
@[simp] theorem flag_unacked (s : State) (fx : BitVec 7) : (s.flag fx).unacked = s.unacked := rfl
@[simp] theorem flag_llc (s : State) (fx : BitVec 7) : (s.flag fx).llc = s.llc := rfl
@[simp] theorem flag_l2 (s : State) (fx : BitVec 7) : (s.flag fx).l2 = s.l2 := rfl
@[simp] theorem flag_ended (s : State) (fx : BitVec 7) : (s.flag fx).ended = s.ended := rfl
@[simp] theorem flag_chunks (s : State) (fx : BitVec 7) : (s.flag fx).chunks = s.chunks := rfl
@[simp] theorem flag_images (s : State) (fx : BitVec 7) : (s.flag fx).images = s.images := rfl
@[simp] theorem flag_imagesNext (s : State) (fx : BitVec 7) : (s.flag fx).imagesNext = s.imagesNext := rfl
@[simp] theorem flag_l1d (s : State) (fx : BitVec 7) : (s.flag fx).l1d = s.l1d := rfl
@[simp] theorem flag_pubs (s : State) (fx : BitVec 7) : (s.flag fx).pubs = s.pubs := rfl
@[simp] theorem flag_hotPend (s : State) (fx : BitVec 7) : (s.flag fx).hotPend = s.hotPend := rfl
@[simp] theorem flag_samples (s : State) (fx : BitVec 7) : (s.flag fx).samples = s.samples := rfl
@[simp] theorem flag_tlb (s : State) (fx : BitVec 7) : (s.flag fx).tlb = s.tlb := rfl
@[simp] theorem flag_l1i (s : State) (fx : BitVec 7) : (s.flag fx).l1i = s.l1i := rfl
@[simp] theorem flag_ptc (s : State) (fx : BitVec 7) : (s.flag fx).ptc = s.ptc := rfl
@[simp] theorem flag_pageMoves (s : State) (fx : BitVec 7) : (s.flag fx).pageMoves = s.pageMoves := rfl
@[simp] theorem flag_stalled (s : State) (fx : BitVec 7) : (s.flag fx).stalled = s.stalled := rfl
@[simp] theorem flag_lpr (s : State) (fx : BitVec 7) : (s.flag fx).lpr = s.lpr := rfl
@[simp] theorem flag_fifos (s : State) (fx : BitVec 7) : (s.flag fx).fifos = s.fifos := rfl
@[simp] theorem flag_relPend (s : State) (fx : BitVec 7) : (s.flag fx).relPend = s.relPend := rfl
@[simp] theorem flag_laneGang (s : State) (fx : BitVec 7) : (s.flag fx).laneGang = s.laneGang := rfl
@[simp] theorem flag_queues (s : State) (fx : BitVec 7) : (s.flag fx).queues = s.queues := rfl
@[simp] theorem flag_masks (s : State) (fx : BitVec 7) : (s.flag fx).masks = s.masks := rfl
@[simp] theorem flag_spaces (s : State) (fx : BitVec 7) : (s.flag fx).spaces = s.spaces := rfl
@[simp] theorem flag_poolBase (s : State) (fx : BitVec 7) : (s.flag fx).poolBase = s.poolBase := rfl
@[simp] theorem flag_poolCount (s : State) (fx : BitVec 7) : (s.flag fx).poolCount = s.poolCount := rfl
@[simp] theorem flag_frames (s : State) (fx : BitVec 7) : (s.flag fx).frames = s.frames := rfl
@[simp] theorem flag_offers (s : State) (fx : BitVec 7) : (s.flag fx).offers = s.offers := rfl
@[simp] theorem flag_served (s : State) (fx : BitVec 7) : (s.flag fx).served = s.served := rfl
@[simp] theorem flag_named (s : State) (fx : BitVec 7) : (s.flag fx).named = s.named := rfl
@[simp] theorem flag_namedSlots (s : State) (fx : BitVec 7) : (s.flag fx).namedSlots = s.namedSlots := rfl
@[simp] theorem flag_rr (s : State) (fx : BitVec 7) : (s.flag fx).rr = s.rr := rfl
@[simp] theorem flag_gangs (s : State) (fx : BitVec 7) : (s.flag fx).gangs = s.gangs := rfl
@[simp] theorem flag_swapped (s : State) (fx : BitVec 7) : (s.flag fx).swapped = s.swapped := rfl
@[simp] theorem flag_exitDrops (s : State) (fx : BitVec 7) : (s.flag fx).exitDrops = s.exitDrops := rfl
@[simp] theorem flag_sets (s : State) (fx : BitVec 7) : (s.flag fx).sets = s.sets := rfl
@[simp] theorem flag_serai (s : State) (fx : BitVec 7) : (s.flag fx).serai = s.serai := rfl
@[simp] theorem flag_dpriv (s : State) (fx : BitVec 7) : (s.flag fx).dpriv = s.dpriv := rfl
@[simp] theorem flag_dshr (s : State) (fx : BitVec 7) : (s.flag fx).dshr = s.dshr := rfl
@[simp] theorem flag_llcreq (s : State) (fx : BitVec 7) : (s.flag fx).llcreq = s.llcreq := rfl
@[simp] theorem flag_llcp (s : State) (fx : BitVec 7) : (s.flag fx).llcp = s.llcp := rfl
@[simp] theorem flag_epoch (s : State) (fx : BitVec 7) : (s.flag fx).epoch = s.epoch := rfl
@[simp] theorem flag_change (s : State) (fx : BitVec 7) : (s.flag fx).change = s.change := rfl
@[simp] theorem flag_changeHeld (s : State) (fx : BitVec 7) : (s.flag fx).changeHeld = s.changeHeld := rfl
@[simp] theorem flag_migthr (s : State) (fx : BitVec 7) : (s.flag fx).migthr = s.migthr := rfl
@[simp] theorem flag_stallthr (s : State) (fx : BitVec 7) : (s.flag fx).stallthr = s.stallthr := rfl
@[simp] theorem flag_slotAct (s : State) (fx : BitVec 7) : (s.flag fx).slotAct = s.slotAct := rfl
@[simp] theorem flag_swapPend (s : State) (fx : BitVec 7) : (s.flag fx).swapPend = s.swapPend := rfl
@[simp] theorem flag_refused (s : State) (fx : BitVec 7) : (s.flag fx).refused = s.refused := rfl
@[simp] theorem flag_tgShadow (s : State) (fx : BitVec 7) : (s.flag fx).tgShadow = s.tgShadow := rfl
@[simp] theorem flag_tgActive (s : State) (fx : BitVec 7) : (s.flag fx).tgActive = s.tgActive := rfl
@[simp] theorem flag_slotTab0 (s : State) (fx : BitVec 7) : (s.flag fx).slotTab0 = s.slotTab0 := rfl
@[simp] theorem flag_slotTab1 (s : State) (fx : BitVec 7) : (s.flag fx).slotTab1 = s.slotTab1 := rfl
@[simp] theorem flag_trunks (s : State) (fx : BitVec 7) : (s.flag fx).trunks = s.trunks := rfl
@[simp] theorem flag_sliceReqs (s : State) (fx : BitVec 7) : (s.flag fx).sliceReqs = s.sliceReqs := rfl
@[simp] theorem flag_reserve (s : State) (fx : BitVec 7) : (s.flag fx).reserve = s.reserve := rfl
@[simp] theorem flag_elBase (s : State) (fx : BitVec 7) : (s.flag fx).elBase = s.elBase := rfl
@[simp] theorem flag_elHead (s : State) (fx : BitVec 7) : (s.flag fx).elHead = s.elHead := rfl
@[simp] theorem flag_elTail (s : State) (fx : BitVec 7) : (s.flag fx).elTail = s.elTail := rfl
@[simp] theorem flag_elEn (s : State) (fx : BitVec 7) : (s.flag fx).elEn = s.elEn := rfl
@[simp] theorem flag_elLog2 (s : State) (fx : BitVec 7) : (s.flag fx).elLog2 = s.elLog2 := rfl
@[simp] theorem flag_elOvf (s : State) (fx : BitVec 7) : (s.flag fx).elOvf = s.elOvf := rfl
@[simp] theorem flag_elMsi (s : State) (fx : BitVec 7) : (s.flag fx).elMsi = s.elMsi := rfl
@[simp] theorem flag_cecnt (s : State) (fx : BitVec 7) : (s.flag fx).cecnt = s.cecnt := rfl
@[simp] theorem flag_mbox (s : State) (fx : BitVec 7) : (s.flag fx).mbox = s.mbox := rfl
@[simp] theorem flag_mstate (s : State) (fx : BitVec 7) : (s.flag fx).mstate = s.mstate := rfl
@[simp] theorem flag_hostRead (s : State) (fx : BitVec 7) : (s.flag fx).hostRead = s.hostRead := rfl
@[simp] theorem flag_cycle (s : State) (fx : BitVec 7) : (s.flag fx).cycle = s.cycle := rfl
@[simp] theorem flag_fresh (s : State) (fx : BitVec 7) : (s.flag fx).fresh = s.fresh := rfl
@[simp] theorem flag_agenda (s : State) (fx : BitVec 7) : (s.flag fx).agenda = s.agenda := rfl

@[simp] theorem flag_conv (s : State) (fx : BitVec 7) : (s.flag fx).conv = { s.conv with fx := s.conv.fx ||| fx } := rfl

@[simp] theorem commit_hart (s : State) : (s.commit).hart = s.hart := rfl
@[simp] theorem commit_others (s : State) : (s.commit).others = s.others := rfl
@[simp] theorem commit_mem (s : State) : (s.commit).mem = s.mem := rfl
@[simp] theorem commit_poison (s : State) : (s.commit).poison = s.poison := rfl
@[simp] theorem commit_tags (s : State) : (s.commit).tags = s.tags := rfl
@[simp] theorem commit_absentPages (s : State) : (s.commit).absentPages = s.absentPages := rfl
@[simp] theorem commit_wq (s : State) : (s.commit).wq = s.wq := rfl
@[simp] theorem commit_unacked (s : State) : (s.commit).unacked = s.unacked := rfl
@[simp] theorem commit_llc (s : State) : (s.commit).llc = s.llc := rfl
@[simp] theorem commit_l2 (s : State) : (s.commit).l2 = s.l2 := rfl
@[simp] theorem commit_ended (s : State) : (s.commit).ended = s.ended := rfl
@[simp] theorem commit_chunks (s : State) : (s.commit).chunks = s.chunks := rfl
@[simp] theorem commit_images (s : State) : (s.commit).images = s.images := rfl
@[simp] theorem commit_imagesNext (s : State) : (s.commit).imagesNext = s.imagesNext := rfl
@[simp] theorem commit_l1d (s : State) : (s.commit).l1d = s.l1d := rfl
@[simp] theorem commit_pubs (s : State) : (s.commit).pubs = s.pubs := rfl
@[simp] theorem commit_hotPend (s : State) : (s.commit).hotPend = s.hotPend := rfl
@[simp] theorem commit_samples (s : State) : (s.commit).samples = s.samples := rfl
@[simp] theorem commit_tlb (s : State) : (s.commit).tlb = s.tlb := rfl
@[simp] theorem commit_l1i (s : State) : (s.commit).l1i = s.l1i := rfl
@[simp] theorem commit_ptc (s : State) : (s.commit).ptc = s.ptc := rfl
@[simp] theorem commit_pageMoves (s : State) : (s.commit).pageMoves = s.pageMoves := rfl
@[simp] theorem commit_stalled (s : State) : (s.commit).stalled = s.stalled := rfl
@[simp] theorem commit_lpr (s : State) : (s.commit).lpr = s.lpr := rfl
@[simp] theorem commit_fifos (s : State) : (s.commit).fifos = s.fifos := rfl
@[simp] theorem commit_relPend (s : State) : (s.commit).relPend = s.relPend := rfl
@[simp] theorem commit_laneGang (s : State) : (s.commit).laneGang = s.laneGang := rfl
@[simp] theorem commit_queues (s : State) : (s.commit).queues = s.queues := rfl
@[simp] theorem commit_masks (s : State) : (s.commit).masks = s.masks := rfl
@[simp] theorem commit_spaces (s : State) : (s.commit).spaces = s.spaces := rfl
@[simp] theorem commit_poolBase (s : State) : (s.commit).poolBase = s.poolBase := rfl
@[simp] theorem commit_poolCount (s : State) : (s.commit).poolCount = s.poolCount := rfl
@[simp] theorem commit_frames (s : State) : (s.commit).frames = s.frames := rfl
@[simp] theorem commit_offers (s : State) : (s.commit).offers = s.offers := rfl
@[simp] theorem commit_served (s : State) : (s.commit).served = s.served := rfl
@[simp] theorem commit_named (s : State) : (s.commit).named = s.named := rfl
@[simp] theorem commit_namedSlots (s : State) : (s.commit).namedSlots = s.namedSlots := rfl
@[simp] theorem commit_rr (s : State) : (s.commit).rr = s.rr := rfl
@[simp] theorem commit_gangs (s : State) : (s.commit).gangs = s.gangs := rfl
@[simp] theorem commit_swapped (s : State) : (s.commit).swapped = s.swapped := rfl
@[simp] theorem commit_exitDrops (s : State) : (s.commit).exitDrops = s.exitDrops := rfl
@[simp] theorem commit_sets (s : State) : (s.commit).sets = s.sets := rfl
@[simp] theorem commit_serai (s : State) : (s.commit).serai = s.serai := rfl
@[simp] theorem commit_dpriv (s : State) : (s.commit).dpriv = s.dpriv := rfl
@[simp] theorem commit_dshr (s : State) : (s.commit).dshr = s.dshr := rfl
@[simp] theorem commit_llcreq (s : State) : (s.commit).llcreq = s.llcreq := rfl
@[simp] theorem commit_llcp (s : State) : (s.commit).llcp = s.llcp := rfl
@[simp] theorem commit_epoch (s : State) : (s.commit).epoch = s.epoch := rfl
@[simp] theorem commit_change (s : State) : (s.commit).change = s.change := rfl
@[simp] theorem commit_changeHeld (s : State) : (s.commit).changeHeld = s.changeHeld := rfl
@[simp] theorem commit_migthr (s : State) : (s.commit).migthr = s.migthr := rfl
@[simp] theorem commit_stallthr (s : State) : (s.commit).stallthr = s.stallthr := rfl
@[simp] theorem commit_slotAct (s : State) : (s.commit).slotAct = s.slotAct := rfl
@[simp] theorem commit_swapPend (s : State) : (s.commit).swapPend = s.swapPend := rfl
@[simp] theorem commit_refused (s : State) : (s.commit).refused = s.refused := rfl
@[simp] theorem commit_tgShadow (s : State) : (s.commit).tgShadow = s.tgShadow := rfl
@[simp] theorem commit_tgActive (s : State) : (s.commit).tgActive = s.tgActive := rfl
@[simp] theorem commit_slotTab0 (s : State) : (s.commit).slotTab0 = s.slotTab0 := rfl
@[simp] theorem commit_slotTab1 (s : State) : (s.commit).slotTab1 = s.slotTab1 := rfl
@[simp] theorem commit_trunks (s : State) : (s.commit).trunks = s.trunks := rfl
@[simp] theorem commit_sliceReqs (s : State) : (s.commit).sliceReqs = s.sliceReqs := rfl
@[simp] theorem commit_reserve (s : State) : (s.commit).reserve = s.reserve := rfl
@[simp] theorem commit_elBase (s : State) : (s.commit).elBase = s.elBase := rfl
@[simp] theorem commit_elHead (s : State) : (s.commit).elHead = s.elHead := rfl
@[simp] theorem commit_elTail (s : State) : (s.commit).elTail = s.elTail := rfl
@[simp] theorem commit_elEn (s : State) : (s.commit).elEn = s.elEn := rfl
@[simp] theorem commit_elLog2 (s : State) : (s.commit).elLog2 = s.elLog2 := rfl
@[simp] theorem commit_elOvf (s : State) : (s.commit).elOvf = s.elOvf := rfl
@[simp] theorem commit_elMsi (s : State) : (s.commit).elMsi = s.elMsi := rfl
@[simp] theorem commit_cecnt (s : State) : (s.commit).cecnt = s.cecnt := rfl
@[simp] theorem commit_mbox (s : State) : (s.commit).mbox = s.mbox := rfl
@[simp] theorem commit_mstate (s : State) : (s.commit).mstate = s.mstate := rfl
@[simp] theorem commit_hostRead (s : State) : (s.commit).hostRead = s.hostRead := rfl
@[simp] theorem commit_cycle (s : State) : (s.commit).cycle = s.cycle := rfl
@[simp] theorem commit_fresh (s : State) : (s.commit).fresh = s.fresh := rfl
@[simp] theorem commit_agenda (s : State) : (s.commit).agenda = s.agenda := rfl

@[simp] theorem commit_conv (s : State) : s.commit.conv = { s.conv with commit := true } := rfl

@[simp] theorem onGang_hart (s : State) (id : BitVec 48) (f : Gang → Gang) : (s.onGang id f).hart = s.hart := rfl
@[simp] theorem onGang_others (s : State) (id : BitVec 48) (f : Gang → Gang) : (s.onGang id f).others = s.others := rfl
@[simp] theorem onGang_conv (s : State) (id : BitVec 48) (f : Gang → Gang) : (s.onGang id f).conv = s.conv := rfl
@[simp] theorem onGang_mem (s : State) (id : BitVec 48) (f : Gang → Gang) : (s.onGang id f).mem = s.mem := rfl
@[simp] theorem onGang_poison (s : State) (id : BitVec 48) (f : Gang → Gang) : (s.onGang id f).poison = s.poison := rfl
@[simp] theorem onGang_tags (s : State) (id : BitVec 48) (f : Gang → Gang) : (s.onGang id f).tags = s.tags := rfl
@[simp] theorem onGang_absentPages (s : State) (id : BitVec 48) (f : Gang → Gang) : (s.onGang id f).absentPages = s.absentPages := rfl
@[simp] theorem onGang_wq (s : State) (id : BitVec 48) (f : Gang → Gang) : (s.onGang id f).wq = s.wq := rfl
@[simp] theorem onGang_unacked (s : State) (id : BitVec 48) (f : Gang → Gang) : (s.onGang id f).unacked = s.unacked := rfl
@[simp] theorem onGang_llc (s : State) (id : BitVec 48) (f : Gang → Gang) : (s.onGang id f).llc = s.llc := rfl
@[simp] theorem onGang_l2 (s : State) (id : BitVec 48) (f : Gang → Gang) : (s.onGang id f).l2 = s.l2 := rfl
@[simp] theorem onGang_ended (s : State) (id : BitVec 48) (f : Gang → Gang) : (s.onGang id f).ended = s.ended := rfl
@[simp] theorem onGang_chunks (s : State) (id : BitVec 48) (f : Gang → Gang) : (s.onGang id f).chunks = s.chunks := rfl
@[simp] theorem onGang_images (s : State) (id : BitVec 48) (f : Gang → Gang) : (s.onGang id f).images = s.images := rfl
@[simp] theorem onGang_imagesNext (s : State) (id : BitVec 48) (f : Gang → Gang) : (s.onGang id f).imagesNext = s.imagesNext := rfl
@[simp] theorem onGang_l1d (s : State) (id : BitVec 48) (f : Gang → Gang) : (s.onGang id f).l1d = s.l1d := rfl
@[simp] theorem onGang_pubs (s : State) (id : BitVec 48) (f : Gang → Gang) : (s.onGang id f).pubs = s.pubs := rfl
@[simp] theorem onGang_hotPend (s : State) (id : BitVec 48) (f : Gang → Gang) : (s.onGang id f).hotPend = s.hotPend := rfl
@[simp] theorem onGang_samples (s : State) (id : BitVec 48) (f : Gang → Gang) : (s.onGang id f).samples = s.samples := rfl
@[simp] theorem onGang_tlb (s : State) (id : BitVec 48) (f : Gang → Gang) : (s.onGang id f).tlb = s.tlb := rfl
@[simp] theorem onGang_l1i (s : State) (id : BitVec 48) (f : Gang → Gang) : (s.onGang id f).l1i = s.l1i := rfl
@[simp] theorem onGang_ptc (s : State) (id : BitVec 48) (f : Gang → Gang) : (s.onGang id f).ptc = s.ptc := rfl
@[simp] theorem onGang_pageMoves (s : State) (id : BitVec 48) (f : Gang → Gang) : (s.onGang id f).pageMoves = s.pageMoves := rfl
@[simp] theorem onGang_stalled (s : State) (id : BitVec 48) (f : Gang → Gang) : (s.onGang id f).stalled = s.stalled := rfl
@[simp] theorem onGang_lpr (s : State) (id : BitVec 48) (f : Gang → Gang) : (s.onGang id f).lpr = s.lpr := rfl
@[simp] theorem onGang_fifos (s : State) (id : BitVec 48) (f : Gang → Gang) : (s.onGang id f).fifos = s.fifos := rfl
@[simp] theorem onGang_relPend (s : State) (id : BitVec 48) (f : Gang → Gang) : (s.onGang id f).relPend = s.relPend := rfl
@[simp] theorem onGang_laneGang (s : State) (id : BitVec 48) (f : Gang → Gang) : (s.onGang id f).laneGang = s.laneGang := rfl
@[simp] theorem onGang_queues (s : State) (id : BitVec 48) (f : Gang → Gang) : (s.onGang id f).queues = s.queues := rfl
@[simp] theorem onGang_masks (s : State) (id : BitVec 48) (f : Gang → Gang) : (s.onGang id f).masks = s.masks := rfl
@[simp] theorem onGang_spaces (s : State) (id : BitVec 48) (f : Gang → Gang) : (s.onGang id f).spaces = s.spaces := rfl
@[simp] theorem onGang_poolBase (s : State) (id : BitVec 48) (f : Gang → Gang) : (s.onGang id f).poolBase = s.poolBase := rfl
@[simp] theorem onGang_poolCount (s : State) (id : BitVec 48) (f : Gang → Gang) : (s.onGang id f).poolCount = s.poolCount := rfl
@[simp] theorem onGang_frames (s : State) (id : BitVec 48) (f : Gang → Gang) : (s.onGang id f).frames = s.frames := rfl
@[simp] theorem onGang_offers (s : State) (id : BitVec 48) (f : Gang → Gang) : (s.onGang id f).offers = s.offers := rfl
@[simp] theorem onGang_served (s : State) (id : BitVec 48) (f : Gang → Gang) : (s.onGang id f).served = s.served := rfl
@[simp] theorem onGang_named (s : State) (id : BitVec 48) (f : Gang → Gang) : (s.onGang id f).named = s.named := rfl
@[simp] theorem onGang_namedSlots (s : State) (id : BitVec 48) (f : Gang → Gang) : (s.onGang id f).namedSlots = s.namedSlots := rfl
@[simp] theorem onGang_rr (s : State) (id : BitVec 48) (f : Gang → Gang) : (s.onGang id f).rr = s.rr := rfl
@[simp] theorem onGang_swapped (s : State) (id : BitVec 48) (f : Gang → Gang) : (s.onGang id f).swapped = s.swapped := rfl
@[simp] theorem onGang_exitDrops (s : State) (id : BitVec 48) (f : Gang → Gang) : (s.onGang id f).exitDrops = s.exitDrops := rfl
@[simp] theorem onGang_sets (s : State) (id : BitVec 48) (f : Gang → Gang) : (s.onGang id f).sets = s.sets := rfl
@[simp] theorem onGang_serai (s : State) (id : BitVec 48) (f : Gang → Gang) : (s.onGang id f).serai = s.serai := rfl
@[simp] theorem onGang_dpriv (s : State) (id : BitVec 48) (f : Gang → Gang) : (s.onGang id f).dpriv = s.dpriv := rfl
@[simp] theorem onGang_dshr (s : State) (id : BitVec 48) (f : Gang → Gang) : (s.onGang id f).dshr = s.dshr := rfl
@[simp] theorem onGang_llcreq (s : State) (id : BitVec 48) (f : Gang → Gang) : (s.onGang id f).llcreq = s.llcreq := rfl
@[simp] theorem onGang_llcp (s : State) (id : BitVec 48) (f : Gang → Gang) : (s.onGang id f).llcp = s.llcp := rfl
@[simp] theorem onGang_epoch (s : State) (id : BitVec 48) (f : Gang → Gang) : (s.onGang id f).epoch = s.epoch := rfl
@[simp] theorem onGang_change (s : State) (id : BitVec 48) (f : Gang → Gang) : (s.onGang id f).change = s.change := rfl
@[simp] theorem onGang_changeHeld (s : State) (id : BitVec 48) (f : Gang → Gang) : (s.onGang id f).changeHeld = s.changeHeld := rfl
@[simp] theorem onGang_migthr (s : State) (id : BitVec 48) (f : Gang → Gang) : (s.onGang id f).migthr = s.migthr := rfl
@[simp] theorem onGang_stallthr (s : State) (id : BitVec 48) (f : Gang → Gang) : (s.onGang id f).stallthr = s.stallthr := rfl
@[simp] theorem onGang_slotAct (s : State) (id : BitVec 48) (f : Gang → Gang) : (s.onGang id f).slotAct = s.slotAct := rfl
@[simp] theorem onGang_swapPend (s : State) (id : BitVec 48) (f : Gang → Gang) : (s.onGang id f).swapPend = s.swapPend := rfl
@[simp] theorem onGang_refused (s : State) (id : BitVec 48) (f : Gang → Gang) : (s.onGang id f).refused = s.refused := rfl
@[simp] theorem onGang_tgShadow (s : State) (id : BitVec 48) (f : Gang → Gang) : (s.onGang id f).tgShadow = s.tgShadow := rfl
@[simp] theorem onGang_tgActive (s : State) (id : BitVec 48) (f : Gang → Gang) : (s.onGang id f).tgActive = s.tgActive := rfl
@[simp] theorem onGang_slotTab0 (s : State) (id : BitVec 48) (f : Gang → Gang) : (s.onGang id f).slotTab0 = s.slotTab0 := rfl
@[simp] theorem onGang_slotTab1 (s : State) (id : BitVec 48) (f : Gang → Gang) : (s.onGang id f).slotTab1 = s.slotTab1 := rfl
@[simp] theorem onGang_trunks (s : State) (id : BitVec 48) (f : Gang → Gang) : (s.onGang id f).trunks = s.trunks := rfl
@[simp] theorem onGang_sliceReqs (s : State) (id : BitVec 48) (f : Gang → Gang) : (s.onGang id f).sliceReqs = s.sliceReqs := rfl
@[simp] theorem onGang_reserve (s : State) (id : BitVec 48) (f : Gang → Gang) : (s.onGang id f).reserve = s.reserve := rfl
@[simp] theorem onGang_elBase (s : State) (id : BitVec 48) (f : Gang → Gang) : (s.onGang id f).elBase = s.elBase := rfl
@[simp] theorem onGang_elHead (s : State) (id : BitVec 48) (f : Gang → Gang) : (s.onGang id f).elHead = s.elHead := rfl
@[simp] theorem onGang_elTail (s : State) (id : BitVec 48) (f : Gang → Gang) : (s.onGang id f).elTail = s.elTail := rfl
@[simp] theorem onGang_elEn (s : State) (id : BitVec 48) (f : Gang → Gang) : (s.onGang id f).elEn = s.elEn := rfl
@[simp] theorem onGang_elLog2 (s : State) (id : BitVec 48) (f : Gang → Gang) : (s.onGang id f).elLog2 = s.elLog2 := rfl
@[simp] theorem onGang_elOvf (s : State) (id : BitVec 48) (f : Gang → Gang) : (s.onGang id f).elOvf = s.elOvf := rfl
@[simp] theorem onGang_elMsi (s : State) (id : BitVec 48) (f : Gang → Gang) : (s.onGang id f).elMsi = s.elMsi := rfl
@[simp] theorem onGang_cecnt (s : State) (id : BitVec 48) (f : Gang → Gang) : (s.onGang id f).cecnt = s.cecnt := rfl
@[simp] theorem onGang_mbox (s : State) (id : BitVec 48) (f : Gang → Gang) : (s.onGang id f).mbox = s.mbox := rfl
@[simp] theorem onGang_mstate (s : State) (id : BitVec 48) (f : Gang → Gang) : (s.onGang id f).mstate = s.mstate := rfl
@[simp] theorem onGang_hostRead (s : State) (id : BitVec 48) (f : Gang → Gang) : (s.onGang id f).hostRead = s.hostRead := rfl
@[simp] theorem onGang_cycle (s : State) (id : BitVec 48) (f : Gang → Gang) : (s.onGang id f).cycle = s.cycle := rfl
@[simp] theorem onGang_fresh (s : State) (id : BitVec 48) (f : Gang → Gang) : (s.onGang id f).fresh = s.fresh := rfl
@[simp] theorem onGang_agenda (s : State) (id : BitVec 48) (f : Gang → Gang) : (s.onGang id f).agenda = s.agenda := rfl

@[simp] theorem onSet_hart (s : State) (psd : Nat) (f : Machine.PSet → Machine.PSet) : (s.onSet psd f).hart = s.hart := rfl
@[simp] theorem onSet_others (s : State) (psd : Nat) (f : Machine.PSet → Machine.PSet) : (s.onSet psd f).others = s.others := rfl
@[simp] theorem onSet_conv (s : State) (psd : Nat) (f : Machine.PSet → Machine.PSet) : (s.onSet psd f).conv = s.conv := rfl
@[simp] theorem onSet_mem (s : State) (psd : Nat) (f : Machine.PSet → Machine.PSet) : (s.onSet psd f).mem = s.mem := rfl
@[simp] theorem onSet_poison (s : State) (psd : Nat) (f : Machine.PSet → Machine.PSet) : (s.onSet psd f).poison = s.poison := rfl
@[simp] theorem onSet_tags (s : State) (psd : Nat) (f : Machine.PSet → Machine.PSet) : (s.onSet psd f).tags = s.tags := rfl
@[simp] theorem onSet_absentPages (s : State) (psd : Nat) (f : Machine.PSet → Machine.PSet) : (s.onSet psd f).absentPages = s.absentPages := rfl
@[simp] theorem onSet_wq (s : State) (psd : Nat) (f : Machine.PSet → Machine.PSet) : (s.onSet psd f).wq = s.wq := rfl
@[simp] theorem onSet_unacked (s : State) (psd : Nat) (f : Machine.PSet → Machine.PSet) : (s.onSet psd f).unacked = s.unacked := rfl
@[simp] theorem onSet_llc (s : State) (psd : Nat) (f : Machine.PSet → Machine.PSet) : (s.onSet psd f).llc = s.llc := rfl
@[simp] theorem onSet_l2 (s : State) (psd : Nat) (f : Machine.PSet → Machine.PSet) : (s.onSet psd f).l2 = s.l2 := rfl
@[simp] theorem onSet_ended (s : State) (psd : Nat) (f : Machine.PSet → Machine.PSet) : (s.onSet psd f).ended = s.ended := rfl
@[simp] theorem onSet_chunks (s : State) (psd : Nat) (f : Machine.PSet → Machine.PSet) : (s.onSet psd f).chunks = s.chunks := rfl
@[simp] theorem onSet_images (s : State) (psd : Nat) (f : Machine.PSet → Machine.PSet) : (s.onSet psd f).images = s.images := rfl
@[simp] theorem onSet_imagesNext (s : State) (psd : Nat) (f : Machine.PSet → Machine.PSet) : (s.onSet psd f).imagesNext = s.imagesNext := rfl
@[simp] theorem onSet_l1d (s : State) (psd : Nat) (f : Machine.PSet → Machine.PSet) : (s.onSet psd f).l1d = s.l1d := rfl
@[simp] theorem onSet_pubs (s : State) (psd : Nat) (f : Machine.PSet → Machine.PSet) : (s.onSet psd f).pubs = s.pubs := rfl
@[simp] theorem onSet_hotPend (s : State) (psd : Nat) (f : Machine.PSet → Machine.PSet) : (s.onSet psd f).hotPend = s.hotPend := rfl
@[simp] theorem onSet_samples (s : State) (psd : Nat) (f : Machine.PSet → Machine.PSet) : (s.onSet psd f).samples = s.samples := rfl
@[simp] theorem onSet_tlb (s : State) (psd : Nat) (f : Machine.PSet → Machine.PSet) : (s.onSet psd f).tlb = s.tlb := rfl
@[simp] theorem onSet_l1i (s : State) (psd : Nat) (f : Machine.PSet → Machine.PSet) : (s.onSet psd f).l1i = s.l1i := rfl
@[simp] theorem onSet_ptc (s : State) (psd : Nat) (f : Machine.PSet → Machine.PSet) : (s.onSet psd f).ptc = s.ptc := rfl
@[simp] theorem onSet_pageMoves (s : State) (psd : Nat) (f : Machine.PSet → Machine.PSet) : (s.onSet psd f).pageMoves = s.pageMoves := rfl
@[simp] theorem onSet_stalled (s : State) (psd : Nat) (f : Machine.PSet → Machine.PSet) : (s.onSet psd f).stalled = s.stalled := rfl
@[simp] theorem onSet_lpr (s : State) (psd : Nat) (f : Machine.PSet → Machine.PSet) : (s.onSet psd f).lpr = s.lpr := rfl
@[simp] theorem onSet_fifos (s : State) (psd : Nat) (f : Machine.PSet → Machine.PSet) : (s.onSet psd f).fifos = s.fifos := rfl
@[simp] theorem onSet_relPend (s : State) (psd : Nat) (f : Machine.PSet → Machine.PSet) : (s.onSet psd f).relPend = s.relPend := rfl
@[simp] theorem onSet_laneGang (s : State) (psd : Nat) (f : Machine.PSet → Machine.PSet) : (s.onSet psd f).laneGang = s.laneGang := rfl
@[simp] theorem onSet_queues (s : State) (psd : Nat) (f : Machine.PSet → Machine.PSet) : (s.onSet psd f).queues = s.queues := rfl
@[simp] theorem onSet_masks (s : State) (psd : Nat) (f : Machine.PSet → Machine.PSet) : (s.onSet psd f).masks = s.masks := rfl
@[simp] theorem onSet_spaces (s : State) (psd : Nat) (f : Machine.PSet → Machine.PSet) : (s.onSet psd f).spaces = s.spaces := rfl
@[simp] theorem onSet_poolBase (s : State) (psd : Nat) (f : Machine.PSet → Machine.PSet) : (s.onSet psd f).poolBase = s.poolBase := rfl
@[simp] theorem onSet_poolCount (s : State) (psd : Nat) (f : Machine.PSet → Machine.PSet) : (s.onSet psd f).poolCount = s.poolCount := rfl
@[simp] theorem onSet_frames (s : State) (psd : Nat) (f : Machine.PSet → Machine.PSet) : (s.onSet psd f).frames = s.frames := rfl
@[simp] theorem onSet_offers (s : State) (psd : Nat) (f : Machine.PSet → Machine.PSet) : (s.onSet psd f).offers = s.offers := rfl
@[simp] theorem onSet_served (s : State) (psd : Nat) (f : Machine.PSet → Machine.PSet) : (s.onSet psd f).served = s.served := rfl
@[simp] theorem onSet_named (s : State) (psd : Nat) (f : Machine.PSet → Machine.PSet) : (s.onSet psd f).named = s.named := rfl
@[simp] theorem onSet_namedSlots (s : State) (psd : Nat) (f : Machine.PSet → Machine.PSet) : (s.onSet psd f).namedSlots = s.namedSlots := rfl
@[simp] theorem onSet_rr (s : State) (psd : Nat) (f : Machine.PSet → Machine.PSet) : (s.onSet psd f).rr = s.rr := rfl
@[simp] theorem onSet_gangs (s : State) (psd : Nat) (f : Machine.PSet → Machine.PSet) : (s.onSet psd f).gangs = s.gangs := rfl
@[simp] theorem onSet_swapped (s : State) (psd : Nat) (f : Machine.PSet → Machine.PSet) : (s.onSet psd f).swapped = s.swapped := rfl
@[simp] theorem onSet_exitDrops (s : State) (psd : Nat) (f : Machine.PSet → Machine.PSet) : (s.onSet psd f).exitDrops = s.exitDrops := rfl
@[simp] theorem onSet_serai (s : State) (psd : Nat) (f : Machine.PSet → Machine.PSet) : (s.onSet psd f).serai = s.serai := rfl
@[simp] theorem onSet_dpriv (s : State) (psd : Nat) (f : Machine.PSet → Machine.PSet) : (s.onSet psd f).dpriv = s.dpriv := rfl
@[simp] theorem onSet_dshr (s : State) (psd : Nat) (f : Machine.PSet → Machine.PSet) : (s.onSet psd f).dshr = s.dshr := rfl
@[simp] theorem onSet_llcreq (s : State) (psd : Nat) (f : Machine.PSet → Machine.PSet) : (s.onSet psd f).llcreq = s.llcreq := rfl
@[simp] theorem onSet_llcp (s : State) (psd : Nat) (f : Machine.PSet → Machine.PSet) : (s.onSet psd f).llcp = s.llcp := rfl
@[simp] theorem onSet_epoch (s : State) (psd : Nat) (f : Machine.PSet → Machine.PSet) : (s.onSet psd f).epoch = s.epoch := rfl
@[simp] theorem onSet_change (s : State) (psd : Nat) (f : Machine.PSet → Machine.PSet) : (s.onSet psd f).change = s.change := rfl
@[simp] theorem onSet_changeHeld (s : State) (psd : Nat) (f : Machine.PSet → Machine.PSet) : (s.onSet psd f).changeHeld = s.changeHeld := rfl
@[simp] theorem onSet_migthr (s : State) (psd : Nat) (f : Machine.PSet → Machine.PSet) : (s.onSet psd f).migthr = s.migthr := rfl
@[simp] theorem onSet_stallthr (s : State) (psd : Nat) (f : Machine.PSet → Machine.PSet) : (s.onSet psd f).stallthr = s.stallthr := rfl
@[simp] theorem onSet_slotAct (s : State) (psd : Nat) (f : Machine.PSet → Machine.PSet) : (s.onSet psd f).slotAct = s.slotAct := rfl
@[simp] theorem onSet_swapPend (s : State) (psd : Nat) (f : Machine.PSet → Machine.PSet) : (s.onSet psd f).swapPend = s.swapPend := rfl
@[simp] theorem onSet_refused (s : State) (psd : Nat) (f : Machine.PSet → Machine.PSet) : (s.onSet psd f).refused = s.refused := rfl
@[simp] theorem onSet_tgShadow (s : State) (psd : Nat) (f : Machine.PSet → Machine.PSet) : (s.onSet psd f).tgShadow = s.tgShadow := rfl
@[simp] theorem onSet_tgActive (s : State) (psd : Nat) (f : Machine.PSet → Machine.PSet) : (s.onSet psd f).tgActive = s.tgActive := rfl
@[simp] theorem onSet_slotTab0 (s : State) (psd : Nat) (f : Machine.PSet → Machine.PSet) : (s.onSet psd f).slotTab0 = s.slotTab0 := rfl
@[simp] theorem onSet_slotTab1 (s : State) (psd : Nat) (f : Machine.PSet → Machine.PSet) : (s.onSet psd f).slotTab1 = s.slotTab1 := rfl
@[simp] theorem onSet_trunks (s : State) (psd : Nat) (f : Machine.PSet → Machine.PSet) : (s.onSet psd f).trunks = s.trunks := rfl
@[simp] theorem onSet_sliceReqs (s : State) (psd : Nat) (f : Machine.PSet → Machine.PSet) : (s.onSet psd f).sliceReqs = s.sliceReqs := rfl
@[simp] theorem onSet_reserve (s : State) (psd : Nat) (f : Machine.PSet → Machine.PSet) : (s.onSet psd f).reserve = s.reserve := rfl
@[simp] theorem onSet_elBase (s : State) (psd : Nat) (f : Machine.PSet → Machine.PSet) : (s.onSet psd f).elBase = s.elBase := rfl
@[simp] theorem onSet_elHead (s : State) (psd : Nat) (f : Machine.PSet → Machine.PSet) : (s.onSet psd f).elHead = s.elHead := rfl
@[simp] theorem onSet_elTail (s : State) (psd : Nat) (f : Machine.PSet → Machine.PSet) : (s.onSet psd f).elTail = s.elTail := rfl
@[simp] theorem onSet_elEn (s : State) (psd : Nat) (f : Machine.PSet → Machine.PSet) : (s.onSet psd f).elEn = s.elEn := rfl
@[simp] theorem onSet_elLog2 (s : State) (psd : Nat) (f : Machine.PSet → Machine.PSet) : (s.onSet psd f).elLog2 = s.elLog2 := rfl
@[simp] theorem onSet_elOvf (s : State) (psd : Nat) (f : Machine.PSet → Machine.PSet) : (s.onSet psd f).elOvf = s.elOvf := rfl
@[simp] theorem onSet_elMsi (s : State) (psd : Nat) (f : Machine.PSet → Machine.PSet) : (s.onSet psd f).elMsi = s.elMsi := rfl
@[simp] theorem onSet_cecnt (s : State) (psd : Nat) (f : Machine.PSet → Machine.PSet) : (s.onSet psd f).cecnt = s.cecnt := rfl
@[simp] theorem onSet_mbox (s : State) (psd : Nat) (f : Machine.PSet → Machine.PSet) : (s.onSet psd f).mbox = s.mbox := rfl
@[simp] theorem onSet_mstate (s : State) (psd : Nat) (f : Machine.PSet → Machine.PSet) : (s.onSet psd f).mstate = s.mstate := rfl
@[simp] theorem onSet_hostRead (s : State) (psd : Nat) (f : Machine.PSet → Machine.PSet) : (s.onSet psd f).hostRead = s.hostRead := rfl
@[simp] theorem onSet_cycle (s : State) (psd : Nat) (f : Machine.PSet → Machine.PSet) : (s.onSet psd f).cycle = s.cycle := rfl
@[simp] theorem onSet_fresh (s : State) (psd : Nat) (f : Machine.PSet → Machine.PSet) : (s.onSet psd f).fresh = s.fresh := rfl
@[simp] theorem onSet_agenda (s : State) (psd : Nat) (f : Machine.PSet → Machine.PSet) : (s.onSet psd f).agenda = s.agenda := rfl

@[simp] theorem onHart_conv (s : State) (id : Nat) (f : Hart → Hart) : (s.onHart id f).conv = s.conv := rfl
@[simp] theorem onHart_mem (s : State) (id : Nat) (f : Hart → Hart) : (s.onHart id f).mem = s.mem := rfl
@[simp] theorem onHart_poison (s : State) (id : Nat) (f : Hart → Hart) : (s.onHart id f).poison = s.poison := rfl
@[simp] theorem onHart_tags (s : State) (id : Nat) (f : Hart → Hart) : (s.onHart id f).tags = s.tags := rfl
@[simp] theorem onHart_absentPages (s : State) (id : Nat) (f : Hart → Hart) : (s.onHart id f).absentPages = s.absentPages := rfl
@[simp] theorem onHart_wq (s : State) (id : Nat) (f : Hart → Hart) : (s.onHart id f).wq = s.wq := rfl
@[simp] theorem onHart_unacked (s : State) (id : Nat) (f : Hart → Hart) : (s.onHart id f).unacked = s.unacked := rfl
@[simp] theorem onHart_llc (s : State) (id : Nat) (f : Hart → Hart) : (s.onHart id f).llc = s.llc := rfl
@[simp] theorem onHart_l2 (s : State) (id : Nat) (f : Hart → Hart) : (s.onHart id f).l2 = s.l2 := rfl
@[simp] theorem onHart_ended (s : State) (id : Nat) (f : Hart → Hart) : (s.onHart id f).ended = s.ended := rfl
@[simp] theorem onHart_chunks (s : State) (id : Nat) (f : Hart → Hart) : (s.onHart id f).chunks = s.chunks := rfl
@[simp] theorem onHart_images (s : State) (id : Nat) (f : Hart → Hart) : (s.onHart id f).images = s.images := rfl
@[simp] theorem onHart_imagesNext (s : State) (id : Nat) (f : Hart → Hart) : (s.onHart id f).imagesNext = s.imagesNext := rfl
@[simp] theorem onHart_l1d (s : State) (id : Nat) (f : Hart → Hart) : (s.onHart id f).l1d = s.l1d := rfl
@[simp] theorem onHart_pubs (s : State) (id : Nat) (f : Hart → Hart) : (s.onHart id f).pubs = s.pubs := rfl
@[simp] theorem onHart_hotPend (s : State) (id : Nat) (f : Hart → Hart) : (s.onHart id f).hotPend = s.hotPend := rfl
@[simp] theorem onHart_samples (s : State) (id : Nat) (f : Hart → Hart) : (s.onHart id f).samples = s.samples := rfl
@[simp] theorem onHart_tlb (s : State) (id : Nat) (f : Hart → Hart) : (s.onHart id f).tlb = s.tlb := rfl
@[simp] theorem onHart_l1i (s : State) (id : Nat) (f : Hart → Hart) : (s.onHart id f).l1i = s.l1i := rfl
@[simp] theorem onHart_ptc (s : State) (id : Nat) (f : Hart → Hart) : (s.onHart id f).ptc = s.ptc := rfl
@[simp] theorem onHart_pageMoves (s : State) (id : Nat) (f : Hart → Hart) : (s.onHart id f).pageMoves = s.pageMoves := rfl
@[simp] theorem onHart_stalled (s : State) (id : Nat) (f : Hart → Hart) : (s.onHart id f).stalled = s.stalled := rfl
@[simp] theorem onHart_lpr (s : State) (id : Nat) (f : Hart → Hart) : (s.onHart id f).lpr = s.lpr := rfl
@[simp] theorem onHart_fifos (s : State) (id : Nat) (f : Hart → Hart) : (s.onHart id f).fifos = s.fifos := rfl
@[simp] theorem onHart_relPend (s : State) (id : Nat) (f : Hart → Hart) : (s.onHart id f).relPend = s.relPend := rfl
@[simp] theorem onHart_laneGang (s : State) (id : Nat) (f : Hart → Hart) : (s.onHart id f).laneGang = s.laneGang := rfl
@[simp] theorem onHart_queues (s : State) (id : Nat) (f : Hart → Hart) : (s.onHart id f).queues = s.queues := rfl
@[simp] theorem onHart_masks (s : State) (id : Nat) (f : Hart → Hart) : (s.onHart id f).masks = s.masks := rfl
@[simp] theorem onHart_spaces (s : State) (id : Nat) (f : Hart → Hart) : (s.onHart id f).spaces = s.spaces := rfl
@[simp] theorem onHart_poolBase (s : State) (id : Nat) (f : Hart → Hart) : (s.onHart id f).poolBase = s.poolBase := rfl
@[simp] theorem onHart_poolCount (s : State) (id : Nat) (f : Hart → Hart) : (s.onHart id f).poolCount = s.poolCount := rfl
@[simp] theorem onHart_frames (s : State) (id : Nat) (f : Hart → Hart) : (s.onHart id f).frames = s.frames := rfl
@[simp] theorem onHart_offers (s : State) (id : Nat) (f : Hart → Hart) : (s.onHart id f).offers = s.offers := rfl
@[simp] theorem onHart_served (s : State) (id : Nat) (f : Hart → Hart) : (s.onHart id f).served = s.served := rfl
@[simp] theorem onHart_named (s : State) (id : Nat) (f : Hart → Hart) : (s.onHart id f).named = s.named := rfl
@[simp] theorem onHart_namedSlots (s : State) (id : Nat) (f : Hart → Hart) : (s.onHart id f).namedSlots = s.namedSlots := rfl
@[simp] theorem onHart_rr (s : State) (id : Nat) (f : Hart → Hart) : (s.onHart id f).rr = s.rr := rfl
@[simp] theorem onHart_gangs (s : State) (id : Nat) (f : Hart → Hart) : (s.onHart id f).gangs = s.gangs := rfl
@[simp] theorem onHart_swapped (s : State) (id : Nat) (f : Hart → Hart) : (s.onHart id f).swapped = s.swapped := rfl
@[simp] theorem onHart_exitDrops (s : State) (id : Nat) (f : Hart → Hart) : (s.onHart id f).exitDrops = s.exitDrops := rfl
@[simp] theorem onHart_sets (s : State) (id : Nat) (f : Hart → Hart) : (s.onHart id f).sets = s.sets := rfl
@[simp] theorem onHart_serai (s : State) (id : Nat) (f : Hart → Hart) : (s.onHart id f).serai = s.serai := rfl
@[simp] theorem onHart_dpriv (s : State) (id : Nat) (f : Hart → Hart) : (s.onHart id f).dpriv = s.dpriv := rfl
@[simp] theorem onHart_dshr (s : State) (id : Nat) (f : Hart → Hart) : (s.onHart id f).dshr = s.dshr := rfl
@[simp] theorem onHart_llcreq (s : State) (id : Nat) (f : Hart → Hart) : (s.onHart id f).llcreq = s.llcreq := rfl
@[simp] theorem onHart_llcp (s : State) (id : Nat) (f : Hart → Hart) : (s.onHart id f).llcp = s.llcp := rfl
@[simp] theorem onHart_epoch (s : State) (id : Nat) (f : Hart → Hart) : (s.onHart id f).epoch = s.epoch := rfl
@[simp] theorem onHart_change (s : State) (id : Nat) (f : Hart → Hart) : (s.onHart id f).change = s.change := rfl
@[simp] theorem onHart_changeHeld (s : State) (id : Nat) (f : Hart → Hart) : (s.onHart id f).changeHeld = s.changeHeld := rfl
@[simp] theorem onHart_migthr (s : State) (id : Nat) (f : Hart → Hart) : (s.onHart id f).migthr = s.migthr := rfl
@[simp] theorem onHart_stallthr (s : State) (id : Nat) (f : Hart → Hart) : (s.onHart id f).stallthr = s.stallthr := rfl
@[simp] theorem onHart_slotAct (s : State) (id : Nat) (f : Hart → Hart) : (s.onHart id f).slotAct = s.slotAct := rfl
@[simp] theorem onHart_swapPend (s : State) (id : Nat) (f : Hart → Hart) : (s.onHart id f).swapPend = s.swapPend := rfl
@[simp] theorem onHart_refused (s : State) (id : Nat) (f : Hart → Hart) : (s.onHart id f).refused = s.refused := rfl
@[simp] theorem onHart_tgShadow (s : State) (id : Nat) (f : Hart → Hart) : (s.onHart id f).tgShadow = s.tgShadow := rfl
@[simp] theorem onHart_tgActive (s : State) (id : Nat) (f : Hart → Hart) : (s.onHart id f).tgActive = s.tgActive := rfl
@[simp] theorem onHart_slotTab0 (s : State) (id : Nat) (f : Hart → Hart) : (s.onHart id f).slotTab0 = s.slotTab0 := rfl
@[simp] theorem onHart_slotTab1 (s : State) (id : Nat) (f : Hart → Hart) : (s.onHart id f).slotTab1 = s.slotTab1 := rfl
@[simp] theorem onHart_trunks (s : State) (id : Nat) (f : Hart → Hart) : (s.onHart id f).trunks = s.trunks := rfl
@[simp] theorem onHart_sliceReqs (s : State) (id : Nat) (f : Hart → Hart) : (s.onHart id f).sliceReqs = s.sliceReqs := rfl
@[simp] theorem onHart_reserve (s : State) (id : Nat) (f : Hart → Hart) : (s.onHart id f).reserve = s.reserve := rfl
@[simp] theorem onHart_elBase (s : State) (id : Nat) (f : Hart → Hart) : (s.onHart id f).elBase = s.elBase := rfl
@[simp] theorem onHart_elHead (s : State) (id : Nat) (f : Hart → Hart) : (s.onHart id f).elHead = s.elHead := rfl
@[simp] theorem onHart_elTail (s : State) (id : Nat) (f : Hart → Hart) : (s.onHart id f).elTail = s.elTail := rfl
@[simp] theorem onHart_elEn (s : State) (id : Nat) (f : Hart → Hart) : (s.onHart id f).elEn = s.elEn := rfl
@[simp] theorem onHart_elLog2 (s : State) (id : Nat) (f : Hart → Hart) : (s.onHart id f).elLog2 = s.elLog2 := rfl
@[simp] theorem onHart_elOvf (s : State) (id : Nat) (f : Hart → Hart) : (s.onHart id f).elOvf = s.elOvf := rfl
@[simp] theorem onHart_elMsi (s : State) (id : Nat) (f : Hart → Hart) : (s.onHart id f).elMsi = s.elMsi := rfl
@[simp] theorem onHart_cecnt (s : State) (id : Nat) (f : Hart → Hart) : (s.onHart id f).cecnt = s.cecnt := rfl
@[simp] theorem onHart_mbox (s : State) (id : Nat) (f : Hart → Hart) : (s.onHart id f).mbox = s.mbox := rfl
@[simp] theorem onHart_mstate (s : State) (id : Nat) (f : Hart → Hart) : (s.onHart id f).mstate = s.mstate := rfl
@[simp] theorem onHart_hostRead (s : State) (id : Nat) (f : Hart → Hart) : (s.onHart id f).hostRead = s.hostRead := rfl
@[simp] theorem onHart_cycle (s : State) (id : Nat) (f : Hart → Hart) : (s.onHart id f).cycle = s.cycle := rfl
@[simp] theorem onHart_fresh (s : State) (id : Nat) (f : Hart → Hart) : (s.onHart id f).fresh = s.fresh := rfl
@[simp] theorem onHart_agenda (s : State) (id : Nat) (f : Hart → Hart) : (s.onHart id f).agenda = s.agenda := rfl

@[simp] theorem setLpr_hart (s : State) (core : Nat) (l : BitVec 16) : (s.setLpr core l).hart = s.hart := rfl
@[simp] theorem setLpr_others (s : State) (core : Nat) (l : BitVec 16) : (s.setLpr core l).others = s.others := rfl
@[simp] theorem setLpr_conv (s : State) (core : Nat) (l : BitVec 16) : (s.setLpr core l).conv = s.conv := rfl
@[simp] theorem setLpr_mem (s : State) (core : Nat) (l : BitVec 16) : (s.setLpr core l).mem = s.mem := rfl
@[simp] theorem setLpr_poison (s : State) (core : Nat) (l : BitVec 16) : (s.setLpr core l).poison = s.poison := rfl
@[simp] theorem setLpr_tags (s : State) (core : Nat) (l : BitVec 16) : (s.setLpr core l).tags = s.tags := rfl
@[simp] theorem setLpr_absentPages (s : State) (core : Nat) (l : BitVec 16) : (s.setLpr core l).absentPages = s.absentPages := rfl
@[simp] theorem setLpr_wq (s : State) (core : Nat) (l : BitVec 16) : (s.setLpr core l).wq = s.wq := rfl
@[simp] theorem setLpr_unacked (s : State) (core : Nat) (l : BitVec 16) : (s.setLpr core l).unacked = s.unacked := rfl
@[simp] theorem setLpr_llc (s : State) (core : Nat) (l : BitVec 16) : (s.setLpr core l).llc = s.llc := rfl
@[simp] theorem setLpr_l2 (s : State) (core : Nat) (l : BitVec 16) : (s.setLpr core l).l2 = s.l2 := rfl
@[simp] theorem setLpr_ended (s : State) (core : Nat) (l : BitVec 16) : (s.setLpr core l).ended = s.ended := rfl
@[simp] theorem setLpr_chunks (s : State) (core : Nat) (l : BitVec 16) : (s.setLpr core l).chunks = s.chunks := rfl
@[simp] theorem setLpr_images (s : State) (core : Nat) (l : BitVec 16) : (s.setLpr core l).images = s.images := rfl
@[simp] theorem setLpr_imagesNext (s : State) (core : Nat) (l : BitVec 16) : (s.setLpr core l).imagesNext = s.imagesNext := rfl
@[simp] theorem setLpr_l1d (s : State) (core : Nat) (l : BitVec 16) : (s.setLpr core l).l1d = s.l1d := rfl
@[simp] theorem setLpr_pubs (s : State) (core : Nat) (l : BitVec 16) : (s.setLpr core l).pubs = s.pubs := rfl
@[simp] theorem setLpr_hotPend (s : State) (core : Nat) (l : BitVec 16) : (s.setLpr core l).hotPend = s.hotPend := rfl
@[simp] theorem setLpr_samples (s : State) (core : Nat) (l : BitVec 16) : (s.setLpr core l).samples = s.samples := rfl
@[simp] theorem setLpr_tlb (s : State) (core : Nat) (l : BitVec 16) : (s.setLpr core l).tlb = s.tlb := rfl
@[simp] theorem setLpr_l1i (s : State) (core : Nat) (l : BitVec 16) : (s.setLpr core l).l1i = s.l1i := rfl
@[simp] theorem setLpr_ptc (s : State) (core : Nat) (l : BitVec 16) : (s.setLpr core l).ptc = s.ptc := rfl
@[simp] theorem setLpr_pageMoves (s : State) (core : Nat) (l : BitVec 16) : (s.setLpr core l).pageMoves = s.pageMoves := rfl
@[simp] theorem setLpr_stalled (s : State) (core : Nat) (l : BitVec 16) : (s.setLpr core l).stalled = s.stalled := rfl
@[simp] theorem setLpr_fifos (s : State) (core : Nat) (l : BitVec 16) : (s.setLpr core l).fifos = s.fifos := rfl
@[simp] theorem setLpr_relPend (s : State) (core : Nat) (l : BitVec 16) : (s.setLpr core l).relPend = s.relPend := rfl
@[simp] theorem setLpr_laneGang (s : State) (core : Nat) (l : BitVec 16) : (s.setLpr core l).laneGang = s.laneGang := rfl
@[simp] theorem setLpr_queues (s : State) (core : Nat) (l : BitVec 16) : (s.setLpr core l).queues = s.queues := rfl
@[simp] theorem setLpr_masks (s : State) (core : Nat) (l : BitVec 16) : (s.setLpr core l).masks = s.masks := rfl
@[simp] theorem setLpr_spaces (s : State) (core : Nat) (l : BitVec 16) : (s.setLpr core l).spaces = s.spaces := rfl
@[simp] theorem setLpr_poolBase (s : State) (core : Nat) (l : BitVec 16) : (s.setLpr core l).poolBase = s.poolBase := rfl
@[simp] theorem setLpr_poolCount (s : State) (core : Nat) (l : BitVec 16) : (s.setLpr core l).poolCount = s.poolCount := rfl
@[simp] theorem setLpr_frames (s : State) (core : Nat) (l : BitVec 16) : (s.setLpr core l).frames = s.frames := rfl
@[simp] theorem setLpr_offers (s : State) (core : Nat) (l : BitVec 16) : (s.setLpr core l).offers = s.offers := rfl
@[simp] theorem setLpr_served (s : State) (core : Nat) (l : BitVec 16) : (s.setLpr core l).served = s.served := rfl
@[simp] theorem setLpr_named (s : State) (core : Nat) (l : BitVec 16) : (s.setLpr core l).named = s.named := rfl
@[simp] theorem setLpr_namedSlots (s : State) (core : Nat) (l : BitVec 16) : (s.setLpr core l).namedSlots = s.namedSlots := rfl
@[simp] theorem setLpr_rr (s : State) (core : Nat) (l : BitVec 16) : (s.setLpr core l).rr = s.rr := rfl
@[simp] theorem setLpr_gangs (s : State) (core : Nat) (l : BitVec 16) : (s.setLpr core l).gangs = s.gangs := rfl
@[simp] theorem setLpr_swapped (s : State) (core : Nat) (l : BitVec 16) : (s.setLpr core l).swapped = s.swapped := rfl
@[simp] theorem setLpr_exitDrops (s : State) (core : Nat) (l : BitVec 16) : (s.setLpr core l).exitDrops = s.exitDrops := rfl
@[simp] theorem setLpr_sets (s : State) (core : Nat) (l : BitVec 16) : (s.setLpr core l).sets = s.sets := rfl
@[simp] theorem setLpr_serai (s : State) (core : Nat) (l : BitVec 16) : (s.setLpr core l).serai = s.serai := rfl
@[simp] theorem setLpr_dpriv (s : State) (core : Nat) (l : BitVec 16) : (s.setLpr core l).dpriv = s.dpriv := rfl
@[simp] theorem setLpr_dshr (s : State) (core : Nat) (l : BitVec 16) : (s.setLpr core l).dshr = s.dshr := rfl
@[simp] theorem setLpr_llcreq (s : State) (core : Nat) (l : BitVec 16) : (s.setLpr core l).llcreq = s.llcreq := rfl
@[simp] theorem setLpr_llcp (s : State) (core : Nat) (l : BitVec 16) : (s.setLpr core l).llcp = s.llcp := rfl
@[simp] theorem setLpr_epoch (s : State) (core : Nat) (l : BitVec 16) : (s.setLpr core l).epoch = s.epoch := rfl
@[simp] theorem setLpr_change (s : State) (core : Nat) (l : BitVec 16) : (s.setLpr core l).change = s.change := rfl
@[simp] theorem setLpr_changeHeld (s : State) (core : Nat) (l : BitVec 16) : (s.setLpr core l).changeHeld = s.changeHeld := rfl
@[simp] theorem setLpr_migthr (s : State) (core : Nat) (l : BitVec 16) : (s.setLpr core l).migthr = s.migthr := rfl
@[simp] theorem setLpr_stallthr (s : State) (core : Nat) (l : BitVec 16) : (s.setLpr core l).stallthr = s.stallthr := rfl
@[simp] theorem setLpr_slotAct (s : State) (core : Nat) (l : BitVec 16) : (s.setLpr core l).slotAct = s.slotAct := rfl
@[simp] theorem setLpr_swapPend (s : State) (core : Nat) (l : BitVec 16) : (s.setLpr core l).swapPend = s.swapPend := rfl
@[simp] theorem setLpr_refused (s : State) (core : Nat) (l : BitVec 16) : (s.setLpr core l).refused = s.refused := rfl
@[simp] theorem setLpr_tgShadow (s : State) (core : Nat) (l : BitVec 16) : (s.setLpr core l).tgShadow = s.tgShadow := rfl
@[simp] theorem setLpr_tgActive (s : State) (core : Nat) (l : BitVec 16) : (s.setLpr core l).tgActive = s.tgActive := rfl
@[simp] theorem setLpr_slotTab0 (s : State) (core : Nat) (l : BitVec 16) : (s.setLpr core l).slotTab0 = s.slotTab0 := rfl
@[simp] theorem setLpr_slotTab1 (s : State) (core : Nat) (l : BitVec 16) : (s.setLpr core l).slotTab1 = s.slotTab1 := rfl
@[simp] theorem setLpr_trunks (s : State) (core : Nat) (l : BitVec 16) : (s.setLpr core l).trunks = s.trunks := rfl
@[simp] theorem setLpr_sliceReqs (s : State) (core : Nat) (l : BitVec 16) : (s.setLpr core l).sliceReqs = s.sliceReqs := rfl
@[simp] theorem setLpr_reserve (s : State) (core : Nat) (l : BitVec 16) : (s.setLpr core l).reserve = s.reserve := rfl
@[simp] theorem setLpr_elBase (s : State) (core : Nat) (l : BitVec 16) : (s.setLpr core l).elBase = s.elBase := rfl
@[simp] theorem setLpr_elHead (s : State) (core : Nat) (l : BitVec 16) : (s.setLpr core l).elHead = s.elHead := rfl
@[simp] theorem setLpr_elTail (s : State) (core : Nat) (l : BitVec 16) : (s.setLpr core l).elTail = s.elTail := rfl
@[simp] theorem setLpr_elEn (s : State) (core : Nat) (l : BitVec 16) : (s.setLpr core l).elEn = s.elEn := rfl
@[simp] theorem setLpr_elLog2 (s : State) (core : Nat) (l : BitVec 16) : (s.setLpr core l).elLog2 = s.elLog2 := rfl
@[simp] theorem setLpr_elOvf (s : State) (core : Nat) (l : BitVec 16) : (s.setLpr core l).elOvf = s.elOvf := rfl
@[simp] theorem setLpr_elMsi (s : State) (core : Nat) (l : BitVec 16) : (s.setLpr core l).elMsi = s.elMsi := rfl
@[simp] theorem setLpr_cecnt (s : State) (core : Nat) (l : BitVec 16) : (s.setLpr core l).cecnt = s.cecnt := rfl
@[simp] theorem setLpr_mbox (s : State) (core : Nat) (l : BitVec 16) : (s.setLpr core l).mbox = s.mbox := rfl
@[simp] theorem setLpr_mstate (s : State) (core : Nat) (l : BitVec 16) : (s.setLpr core l).mstate = s.mstate := rfl
@[simp] theorem setLpr_hostRead (s : State) (core : Nat) (l : BitVec 16) : (s.setLpr core l).hostRead = s.hostRead := rfl
@[simp] theorem setLpr_cycle (s : State) (core : Nat) (l : BitVec 16) : (s.setLpr core l).cycle = s.cycle := rfl
@[simp] theorem setLpr_fresh (s : State) (core : Nat) (l : BitVec 16) : (s.setLpr core l).fresh = s.fresh := rfl
@[simp] theorem setLpr_agenda (s : State) (core : Nat) (l : BitVec 16) : (s.setLpr core l).agenda = s.agenda := rfl

/-! ### A scalar register written -/

@[simp] theorem setReg_core (h : Hart) (r : BitVec 5) (w : Word) : (h.setReg r w).core = h.core := by
  unfold Hart.setReg; split <;> rfl
@[simp] theorem setReg_slot (h : Hart) (r : BitVec 5) (w : Word) : (h.setReg r w).slot = h.slot := by
  unfold Hart.setReg; split <;> rfl
@[simp] theorem setReg_pc (h : Hart) (r : BitVec 5) (w : Word) : (h.setReg r w).pc = h.pc := by
  unfold Hart.setReg; split <;> rfl
@[simp] theorem setReg_priv (h : Hart) (r : BitVec 5) (w : Word) : (h.setReg r w).priv = h.priv := by
  unfold Hart.setReg; split <;> rfl
@[simp] theorem setReg_v (h : Hart) (r : BitVec 5) (w : Word) : (h.setReg r w).v = h.v := by
  unfold Hart.setReg; split <;> rfl
@[simp] theorem setReg_side (h : Hart) (r : BitVec 5) (w : Word) : (h.setReg r w).side = h.side := by
  unfold Hart.setReg; split <;> rfl
@[simp] theorem setReg_p (h : Hart) (r : BitVec 5) (w : Word) : (h.setReg r w).p = h.p := by
  unfold Hart.setReg; split <;> rfl
@[simp] theorem setReg_vdead (h : Hart) (r : BitVec 5) (w : Word) : (h.setReg r w).vdead = h.vdead := by
  unfold Hart.setReg; split <;> rfl
@[simp] theorem setReg_gmask (h : Hart) (r : BitVec 5) (w : Word) : (h.setReg r w).gmask = h.gmask := by
  unfold Hart.setReg; split <;> rfl
@[simp] theorem setReg_request (h : Hart) (r : BitVec 5) (w : Word) : (h.setReg r w).request = h.request := by
  unfold Hart.setReg; split <;> rfl
@[simp] theorem setReg_lgmin (h : Hart) (r : BitVec 5) (w : Word) : (h.setReg r w).lgmin = h.lgmin := by
  unfold Hart.setReg; split <;> rfl
@[simp] theorem setReg_lgmax (h : Hart) (r : BitVec 5) (w : Word) : (h.setReg r w).lgmax = h.lgmax := by
  unfold Hart.setReg; split <;> rfl
@[simp] theorem setReg_mfc (h : Hart) (r : BitVec 5) (w : Word) : (h.setReg r w).mfc = h.mfc := by
  unfold Hart.setReg; split <;> rfl
@[simp] theorem setReg_mb (h : Hart) (r : BitVec 5) (w : Word) : (h.setReg r w).mb = h.mb := by
  unfold Hart.setReg; split <;> rfl
@[simp] theorem setReg_ts (h : Hart) (r : BitVec 5) (w : Word) : (h.setReg r w).ts = h.ts := by
  unfold Hart.setReg; split <;> rfl
@[simp] theorem setReg_vcarry (h : Hart) (r : BitVec 5) (w : Word) : (h.setReg r w).vcarry = h.vcarry := by
  unfold Hart.setReg; split <;> rfl
@[simp] theorem setReg_pcarry (h : Hart) (r : BitVec 5) (w : Word) : (h.setReg r w).pcarry = h.pcarry := by
  unfold Hart.setReg; split <;> rfl
@[simp] theorem setReg_wmark (h : Hart) (r : BitVec 5) (w : Word) : (h.setReg r w).wmark = h.wmark := by
  unfold Hart.setReg; split <;> rfl
@[simp] theorem setReg_wwait (h : Hart) (r : BitVec 5) (w : Word) : (h.setReg r w).wwait = h.wwait := by
  unfold Hart.setReg; split <;> rfl
@[simp] theorem setReg_psvlo (h : Hart) (r : BitVec 5) (w : Word) : (h.setReg r w).psvlo = h.psvlo := by
  unfold Hart.setReg; split <;> rfl
@[simp] theorem setReg_psvhi (h : Hart) (r : BitVec 5) (w : Word) : (h.setReg r w).psvhi = h.psvhi := by
  unfold Hart.setReg; split <;> rfl
@[simp] theorem setReg_mck (h : Hart) (r : BitVec 5) (w : Word) : (h.setReg r w).mck = h.mck := by
  unfold Hart.setReg; split <;> rfl
@[simp] theorem setReg_flags (h : Hart) (r : BitVec 5) (w : Word) : (h.setReg r w).flags = h.flags := by
  unfold Hart.setReg; split <;> rfl
@[simp] theorem setReg_vl (h : Hart) (r : BitVec 5) (w : Word) : (h.setReg r w).vl = h.vl := by
  unfold Hart.setReg; split <;> rfl
@[simp] theorem setReg_vtype (h : Hart) (r : BitVec 5) (w : Word) : (h.setReg r w).vtype = h.vtype := by
  unfold Hart.setReg; split <;> rfl
@[simp] theorem setReg_mvl (h : Hart) (r : BitVec 5) (w : Word) : (h.setReg r w).mvl = h.mvl := by
  unfold Hart.setReg; split <;> rfl
@[simp] theorem setReg_vstart (h : Hart) (r : BitVec 5) (w : Word) : (h.setReg r w).vstart = h.vstart := by
  unfold Hart.setReg; split <;> rfl
@[simp] theorem setReg_hartix (h : Hart) (r : BitVec 5) (w : Word) : (h.setReg r w).hartix = h.hartix := by
  unfold Hart.setReg; split <;> rfl
@[simp] theorem setReg_gangsz (h : Hart) (r : BitVec 5) (w : Word) : (h.setReg r w).gangsz = h.gangsz := by
  unfold Hart.setReg; split <;> rfl
@[simp] theorem setReg_gangid (h : Hart) (r : BitVec 5) (w : Word) : (h.setReg r w).gangid = h.gangid := by
  unfold Hart.setReg; split <;> rfl
@[simp] theorem setReg_rpc (h : Hart) (r : BitVec 5) (w : Word) : (h.setReg r w).rpc = h.rpc := by
  unfold Hart.setReg; split <;> rfl
@[simp] theorem setReg_rpcx (h : Hart) (r : BitVec 5) (w : Word) : (h.setReg r w).rpcx = h.rpcx := by
  unfold Hart.setReg; split <;> rfl
@[simp] theorem setReg_convoys (h : Hart) (r : BitVec 5) (w : Word) : (h.setReg r w).convoys = h.convoys := by
  unfold Hart.setReg; split <;> rfl
@[simp] theorem setReg_tvec (h : Hart) (r : BitVec 5) (w : Word) : (h.setReg r w).tvec = h.tvec := by
  unfold Hart.setReg; split <;> rfl
@[simp] theorem setReg_tcause (h : Hart) (r : BitVec 5) (w : Word) : (h.setReg r w).tcause = h.tcause := by
  unfold Hart.setReg; split <;> rfl
@[simp] theorem setReg_tepc (h : Hart) (r : BitVec 5) (w : Word) : (h.setReg r w).tepc = h.tepc := by
  unfold Hart.setReg; split <;> rfl
@[simp] theorem setReg_tval (h : Hart) (r : BitVec 5) (w : Word) : (h.setReg r w).tval = h.tval := by
  unfold Hart.setReg; split <;> rfl
@[simp] theorem setReg_tstatus (h : Hart) (r : BitVec 5) (w : Word) : (h.setReg r w).tstatus = h.tstatus := by
  unfold Hart.setReg; split <;> rfl
@[simp] theorem setReg_wbase (h : Hart) (r : BitVec 5) (w : Word) : (h.setReg r w).wbase = h.wbase := by
  unfold Hart.setReg; split <;> rfl
@[simp] theorem setReg_tscratch (h : Hart) (r : BitVec 5) (w : Word) : (h.setReg r w).tscratch = h.tscratch := by
  unfold Hart.setReg; split <;> rfl
@[simp] theorem setReg_route (h : Hart) (r : BitVec 5) (w : Word) : (h.setReg r w).route = h.route := by
  unfold Hart.setReg; split <;> rfl
@[simp] theorem setReg_prio (h : Hart) (r : BitVec 5) (w : Word) : (h.setReg r w).prio = h.prio := by
  unfold Hart.setReg; split <;> rfl
@[simp] theorem setReg_ptbase (h : Hart) (r : BitVec 5) (w : Word) : (h.setReg r w).ptbase = h.ptbase := by
  unfold Hart.setReg; split <;> rfl
@[simp] theorem setReg_prtbase (h : Hart) (r : BitVec 5) (w : Word) : (h.setReg r w).prtbase = h.prtbase := by
  unfold Hart.setReg; split <;> rfl
@[simp] theorem setReg_fplist (h : Hart) (r : BitVec 5) (w : Word) : (h.setReg r w).fplist = h.fplist := by
  unfold Hart.setReg; split <;> rfl
@[simp] theorem setReg_hotbase (h : Hart) (r : BitVec 5) (w : Word) : (h.setReg r w).hotbase = h.hotbase := by
  unfold Hart.setReg; split <;> rfl
@[simp] theorem setReg_det (h : Hart) (r : BitVec 5) (w : Word) : (h.setReg r w).det = h.det := by
  unfold Hart.setReg; split <;> rfl
@[simp] theorem setReg_prot (h : Hart) (r : BitVec 5) (w : Word) : (h.setReg r w).prot = h.prot := by
  unfold Hart.setReg; split <;> rfl
@[simp] theorem setReg_retry (h : Hart) (r : BitVec 5) (w : Word) : (h.setReg r w).retry = h.retry := by
  unfold Hart.setReg; split <;> rfl
@[simp] theorem setReg_rewEn (h : Hart) (r : BitVec 5) (w : Word) : (h.setReg r w).rewEn = h.rewEn := by
  unfold Hart.setReg; split <;> rfl
@[simp] theorem setReg_rewLimit (h : Hart) (r : BitVec 5) (w : Word) : (h.setReg r w).rewLimit = h.rewLimit := by
  unfold Hart.setReg; split <;> rfl
@[simp] theorem setReg_rewCount (h : Hart) (r : BitVec 5) (w : Word) : (h.setReg r w).rewCount = h.rewCount := by
  unfold Hart.setReg; split <;> rfl
@[simp] theorem setReg_dbgctl (h : Hart) (r : BitVec 5) (w : Word) : (h.setReg r w).dbgctl = h.dbgctl := by
  unfold Hart.setReg; split <;> rfl
@[simp] theorem setReg_slots (h : Hart) (r : BitVec 5) (w : Word) : (h.setReg r w).slots = h.slots := by
  unfold Hart.setReg; split <;> rfl
@[simp] theorem setReg_copyBuf (h : Hart) (r : BitVec 5) (w : Word) : (h.setReg r w).copyBuf = h.copyBuf := by
  unfold Hart.setReg; split <;> rfl
@[simp] theorem setReg_stash (h : Hart) (r : BitVec 5) (w : Word) : (h.setReg r w).stash = h.stash := by
  unfold Hart.setReg; split <;> rfl
@[simp] theorem setReg_checkCarry (h : Hart) (r : BitVec 5) (w : Word) : (h.setReg r w).checkCarry = h.checkCarry := by
  unfold Hart.setReg; split <;> rfl
@[simp] theorem setReg_status (h : Hart) (r : BitVec 5) (w : Word) : (h.setReg r w).status = h.status := by
  unfold Hart.setReg; split <;> rfl
@[simp] theorem setReg_resume (h : Hart) (r : BitVec 5) (w : Word) : (h.setReg r w).resume = h.resume := by
  unfold Hart.setReg; split <;> rfl
@[simp] theorem setReg_carry (h : Hart) (r : BitVec 5) (w : Word) : (h.setReg r w).carry = h.carry := by
  unfold Hart.setReg; split <;> rfl
@[simp] theorem setReg_pass (h : Hart) (r : BitVec 5) (w : Word) : (h.setReg r w).pass = h.pass := by
  unfold Hart.setReg; split <;> rfl
@[simp] theorem setReg_retried (h : Hart) (r : BitVec 5) (w : Word) : (h.setReg r w).retried = h.retried := by
  unfold Hart.setReg; split <;> rfl
@[simp] theorem setReg_held (h : Hart) (r : BitVec 5) (w : Word) : (h.setReg r w).held = h.held := by
  unfold Hart.setReg; split <;> rfl
@[simp] theorem setReg_rheld (h : Hart) (r : BitVec 5) (w : Word) : (h.setReg r w).rheld = h.rheld := by
  unfold Hart.setReg; split <;> rfl
@[simp] theorem setReg_seq (h : Hart) (r : BitVec 5) (w : Word) : (h.setReg r w).seq = h.seq := by
  unfold Hart.setReg; split <;> rfl
@[simp] theorem setReg_orders (h : Hart) (r : BitVec 5) (w : Word) : (h.setReg r w).orders = h.orders := by
  unfold Hart.setReg; split <;> rfl
@[simp] theorem setReg_cores (h : Hart) (r : BitVec 5) (w : Word) : (h.setReg r w).cores = h.cores := by
  unfold Hart.setReg; split <;> rfl
@[simp] theorem setReg_got (h : Hart) (r : BitVec 5) (w : Word) : (h.setReg r w).got = h.got := by
  unfold Hart.setReg; split <;> rfl
@[simp] theorem setReg_gathered (h : Hart) (r : BitVec 5) (w : Word) : (h.setReg r w).gathered = h.gathered := by
  unfold Hart.setReg; split <;> rfl
@[simp] theorem setReg_due (h : Hart) (r : BitVec 5) (w : Word) : (h.setReg r w).due = h.due := by
  unfold Hart.setReg; split <;> rfl
@[simp] theorem setReg_check (h : Hart) (r : BitVec 5) (w : Word) : (h.setReg r w).check = h.check := by
  unfold Hart.setReg; split <;> rfl
@[simp] theorem setReg_reclaimAt (h : Hart) (r : BitVec 5) (w : Word) : (h.setReg r w).reclaimAt = h.reclaimAt := by
  unfold Hart.setReg; split <;> rfl
@[simp] theorem setReg_shrunk (h : Hart) (r : BitVec 5) (w : Word) : (h.setReg r w).shrunk = h.shrunk := by
  unfold Hart.setReg; split <;> rfl
@[simp] theorem setReg_switchReq (h : Hart) (r : BitVec 5) (w : Word) : (h.setReg r w).switchReq = h.switchReq := by
  unfold Hart.setReg; split <;> rfl
@[simp] theorem setReg_arrived (h : Hart) (r : BitVec 5) (w : Word) : (h.setReg r w).arrived = h.arrived := by
  unfold Hart.setReg; split <;> rfl

@[simp] theorem setReg_zero (h : Hart) (w : Word) : h.setReg 0 w = h := rfl

/-- A register just written is read, but for x0, which reads zero. -/
theorem reg_setReg (h : Hart) (r k : BitVec 5) (w : Word) :
    (h.setReg r w).reg k = if k = r ∧ r ≠ 0 then w else h.reg k := by
  unfold Hart.setReg Hart.reg
  by_cases hk : k = 0
  · by_cases hr : r = 0 <;> simp [hk, hr]
    intro h0 h1; exact absurd h0.symm h1
  · by_cases hr : r = 0
    · simp [hr]
    · simp only [hr, hk, if_false]
      by_cases he : k = r
      · subst he
        simp only [true_and, Vector.getElem_set_self, ne_eq]
        rw [if_pos hr]
      · rw [Vector.getElem_set_ne]
        · simp [he]
        · intro hn
          exact he (BitVec.eq_of_toNat_eq hn.symm)

@[simp] theorem reg_zero (h : Hart) : h.reg 0 = 0 := rfl

/-! ### Vector state written -/

@[simp] theorem setElem_core (h : Hart) (sew v e x : Nat) : (h.setElem sew v e x).core = h.core := rfl
@[simp] theorem setElem_slot (h : Hart) (sew v e x : Nat) : (h.setElem sew v e x).slot = h.slot := rfl
@[simp] theorem setElem_x (h : Hart) (sew v e x : Nat) : (h.setElem sew v e x).x = h.x := rfl
@[simp] theorem setElem_pc (h : Hart) (sew v e x : Nat) : (h.setElem sew v e x).pc = h.pc := rfl
@[simp] theorem setElem_priv (h : Hart) (sew v e x : Nat) : (h.setElem sew v e x).priv = h.priv := rfl
@[simp] theorem setElem_side (h : Hart) (sew v e x : Nat) : (h.setElem sew v e x).side = h.side := rfl
@[simp] theorem setElem_p (h : Hart) (sew v e x : Nat) : (h.setElem sew v e x).p = h.p := rfl
@[simp] theorem setElem_vdead (h : Hart) (sew v e x : Nat) : (h.setElem sew v e x).vdead = h.vdead := rfl
@[simp] theorem setElem_gmask (h : Hart) (sew v e x : Nat) : (h.setElem sew v e x).gmask = h.gmask := rfl
@[simp] theorem setElem_request (h : Hart) (sew v e x : Nat) : (h.setElem sew v e x).request = h.request := rfl
@[simp] theorem setElem_lgmin (h : Hart) (sew v e x : Nat) : (h.setElem sew v e x).lgmin = h.lgmin := rfl
@[simp] theorem setElem_lgmax (h : Hart) (sew v e x : Nat) : (h.setElem sew v e x).lgmax = h.lgmax := rfl
@[simp] theorem setElem_mfc (h : Hart) (sew v e x : Nat) : (h.setElem sew v e x).mfc = h.mfc := rfl
@[simp] theorem setElem_mb (h : Hart) (sew v e x : Nat) : (h.setElem sew v e x).mb = h.mb := rfl
@[simp] theorem setElem_ts (h : Hart) (sew v e x : Nat) : (h.setElem sew v e x).ts = h.ts := rfl
@[simp] theorem setElem_vcarry (h : Hart) (sew v e x : Nat) : (h.setElem sew v e x).vcarry = h.vcarry := rfl
@[simp] theorem setElem_pcarry (h : Hart) (sew v e x : Nat) : (h.setElem sew v e x).pcarry = h.pcarry := rfl
@[simp] theorem setElem_wmark (h : Hart) (sew v e x : Nat) : (h.setElem sew v e x).wmark = h.wmark := rfl
@[simp] theorem setElem_wwait (h : Hart) (sew v e x : Nat) : (h.setElem sew v e x).wwait = h.wwait := rfl
@[simp] theorem setElem_psvlo (h : Hart) (sew v e x : Nat) : (h.setElem sew v e x).psvlo = h.psvlo := rfl
@[simp] theorem setElem_psvhi (h : Hart) (sew v e x : Nat) : (h.setElem sew v e x).psvhi = h.psvhi := rfl
@[simp] theorem setElem_mck (h : Hart) (sew v e x : Nat) : (h.setElem sew v e x).mck = h.mck := rfl
@[simp] theorem setElem_flags (h : Hart) (sew v e x : Nat) : (h.setElem sew v e x).flags = h.flags := rfl
@[simp] theorem setElem_vl (h : Hart) (sew v e x : Nat) : (h.setElem sew v e x).vl = h.vl := rfl
@[simp] theorem setElem_vtype (h : Hart) (sew v e x : Nat) : (h.setElem sew v e x).vtype = h.vtype := rfl
@[simp] theorem setElem_mvl (h : Hart) (sew v e x : Nat) : (h.setElem sew v e x).mvl = h.mvl := rfl
@[simp] theorem setElem_vstart (h : Hart) (sew v e x : Nat) : (h.setElem sew v e x).vstart = h.vstart := rfl
@[simp] theorem setElem_hartix (h : Hart) (sew v e x : Nat) : (h.setElem sew v e x).hartix = h.hartix := rfl
@[simp] theorem setElem_gangsz (h : Hart) (sew v e x : Nat) : (h.setElem sew v e x).gangsz = h.gangsz := rfl
@[simp] theorem setElem_gangid (h : Hart) (sew v e x : Nat) : (h.setElem sew v e x).gangid = h.gangid := rfl
@[simp] theorem setElem_rpc (h : Hart) (sew v e x : Nat) : (h.setElem sew v e x).rpc = h.rpc := rfl
@[simp] theorem setElem_rpcx (h : Hart) (sew v e x : Nat) : (h.setElem sew v e x).rpcx = h.rpcx := rfl
@[simp] theorem setElem_convoys (h : Hart) (sew v e x : Nat) : (h.setElem sew v e x).convoys = h.convoys := rfl
@[simp] theorem setElem_tvec (h : Hart) (sew v e x : Nat) : (h.setElem sew v e x).tvec = h.tvec := rfl
@[simp] theorem setElem_tcause (h : Hart) (sew v e x : Nat) : (h.setElem sew v e x).tcause = h.tcause := rfl
@[simp] theorem setElem_tepc (h : Hart) (sew v e x : Nat) : (h.setElem sew v e x).tepc = h.tepc := rfl
@[simp] theorem setElem_tval (h : Hart) (sew v e x : Nat) : (h.setElem sew v e x).tval = h.tval := rfl
@[simp] theorem setElem_tstatus (h : Hart) (sew v e x : Nat) : (h.setElem sew v e x).tstatus = h.tstatus := rfl
@[simp] theorem setElem_wbase (h : Hart) (sew v e x : Nat) : (h.setElem sew v e x).wbase = h.wbase := rfl
@[simp] theorem setElem_tscratch (h : Hart) (sew v e x : Nat) : (h.setElem sew v e x).tscratch = h.tscratch := rfl
@[simp] theorem setElem_route (h : Hart) (sew v e x : Nat) : (h.setElem sew v e x).route = h.route := rfl
@[simp] theorem setElem_prio (h : Hart) (sew v e x : Nat) : (h.setElem sew v e x).prio = h.prio := rfl
@[simp] theorem setElem_ptbase (h : Hart) (sew v e x : Nat) : (h.setElem sew v e x).ptbase = h.ptbase := rfl
@[simp] theorem setElem_prtbase (h : Hart) (sew v e x : Nat) : (h.setElem sew v e x).prtbase = h.prtbase := rfl
@[simp] theorem setElem_fplist (h : Hart) (sew v e x : Nat) : (h.setElem sew v e x).fplist = h.fplist := rfl
@[simp] theorem setElem_hotbase (h : Hart) (sew v e x : Nat) : (h.setElem sew v e x).hotbase = h.hotbase := rfl
@[simp] theorem setElem_det (h : Hart) (sew v e x : Nat) : (h.setElem sew v e x).det = h.det := rfl
@[simp] theorem setElem_prot (h : Hart) (sew v e x : Nat) : (h.setElem sew v e x).prot = h.prot := rfl
@[simp] theorem setElem_retry (h : Hart) (sew v e x : Nat) : (h.setElem sew v e x).retry = h.retry := rfl
@[simp] theorem setElem_rewEn (h : Hart) (sew v e x : Nat) : (h.setElem sew v e x).rewEn = h.rewEn := rfl
@[simp] theorem setElem_rewLimit (h : Hart) (sew v e x : Nat) : (h.setElem sew v e x).rewLimit = h.rewLimit := rfl
@[simp] theorem setElem_rewCount (h : Hart) (sew v e x : Nat) : (h.setElem sew v e x).rewCount = h.rewCount := rfl
@[simp] theorem setElem_dbgctl (h : Hart) (sew v e x : Nat) : (h.setElem sew v e x).dbgctl = h.dbgctl := rfl
@[simp] theorem setElem_slots (h : Hart) (sew v e x : Nat) : (h.setElem sew v e x).slots = h.slots := rfl
@[simp] theorem setElem_copyBuf (h : Hart) (sew v e x : Nat) : (h.setElem sew v e x).copyBuf = h.copyBuf := rfl
@[simp] theorem setElem_stash (h : Hart) (sew v e x : Nat) : (h.setElem sew v e x).stash = h.stash := rfl
@[simp] theorem setElem_checkCarry (h : Hart) (sew v e x : Nat) : (h.setElem sew v e x).checkCarry = h.checkCarry := rfl
@[simp] theorem setElem_status (h : Hart) (sew v e x : Nat) : (h.setElem sew v e x).status = h.status := rfl
@[simp] theorem setElem_resume (h : Hart) (sew v e x : Nat) : (h.setElem sew v e x).resume = h.resume := rfl
@[simp] theorem setElem_carry (h : Hart) (sew v e x : Nat) : (h.setElem sew v e x).carry = h.carry := rfl
@[simp] theorem setElem_pass (h : Hart) (sew v e x : Nat) : (h.setElem sew v e x).pass = h.pass := rfl
@[simp] theorem setElem_retried (h : Hart) (sew v e x : Nat) : (h.setElem sew v e x).retried = h.retried := rfl
@[simp] theorem setElem_held (h : Hart) (sew v e x : Nat) : (h.setElem sew v e x).held = h.held := rfl
@[simp] theorem setElem_rheld (h : Hart) (sew v e x : Nat) : (h.setElem sew v e x).rheld = h.rheld := rfl
@[simp] theorem setElem_seq (h : Hart) (sew v e x : Nat) : (h.setElem sew v e x).seq = h.seq := rfl
@[simp] theorem setElem_orders (h : Hart) (sew v e x : Nat) : (h.setElem sew v e x).orders = h.orders := rfl
@[simp] theorem setElem_cores (h : Hart) (sew v e x : Nat) : (h.setElem sew v e x).cores = h.cores := rfl
@[simp] theorem setElem_got (h : Hart) (sew v e x : Nat) : (h.setElem sew v e x).got = h.got := rfl
@[simp] theorem setElem_gathered (h : Hart) (sew v e x : Nat) : (h.setElem sew v e x).gathered = h.gathered := rfl
@[simp] theorem setElem_due (h : Hart) (sew v e x : Nat) : (h.setElem sew v e x).due = h.due := rfl
@[simp] theorem setElem_check (h : Hart) (sew v e x : Nat) : (h.setElem sew v e x).check = h.check := rfl
@[simp] theorem setElem_reclaimAt (h : Hart) (sew v e x : Nat) : (h.setElem sew v e x).reclaimAt = h.reclaimAt := rfl
@[simp] theorem setElem_shrunk (h : Hart) (sew v e x : Nat) : (h.setElem sew v e x).shrunk = h.shrunk := rfl
@[simp] theorem setElem_switchReq (h : Hart) (sew v e x : Nat) : (h.setElem sew v e x).switchReq = h.switchReq := rfl
@[simp] theorem setElem_arrived (h : Hart) (sew v e x : Nat) : (h.setElem sew v e x).arrived = h.arrived := rfl

@[simp] theorem setEntry_core (h : Hart) (sew v b x : Nat) : (h.setEntry sew v b x).core = h.core := rfl
@[simp] theorem setEntry_slot (h : Hart) (sew v b x : Nat) : (h.setEntry sew v b x).slot = h.slot := rfl
@[simp] theorem setEntry_x (h : Hart) (sew v b x : Nat) : (h.setEntry sew v b x).x = h.x := rfl
@[simp] theorem setEntry_pc (h : Hart) (sew v b x : Nat) : (h.setEntry sew v b x).pc = h.pc := rfl
@[simp] theorem setEntry_priv (h : Hart) (sew v b x : Nat) : (h.setEntry sew v b x).priv = h.priv := rfl
@[simp] theorem setEntry_v (h : Hart) (sew v b x : Nat) : (h.setEntry sew v b x).v = h.v := rfl
@[simp] theorem setEntry_p (h : Hart) (sew v b x : Nat) : (h.setEntry sew v b x).p = h.p := rfl
@[simp] theorem setEntry_vdead (h : Hart) (sew v b x : Nat) : (h.setEntry sew v b x).vdead = h.vdead := rfl
@[simp] theorem setEntry_gmask (h : Hart) (sew v b x : Nat) : (h.setEntry sew v b x).gmask = h.gmask := rfl
@[simp] theorem setEntry_request (h : Hart) (sew v b x : Nat) : (h.setEntry sew v b x).request = h.request := rfl
@[simp] theorem setEntry_lgmin (h : Hart) (sew v b x : Nat) : (h.setEntry sew v b x).lgmin = h.lgmin := rfl
@[simp] theorem setEntry_lgmax (h : Hart) (sew v b x : Nat) : (h.setEntry sew v b x).lgmax = h.lgmax := rfl
@[simp] theorem setEntry_mfc (h : Hart) (sew v b x : Nat) : (h.setEntry sew v b x).mfc = h.mfc := rfl
@[simp] theorem setEntry_mb (h : Hart) (sew v b x : Nat) : (h.setEntry sew v b x).mb = h.mb := rfl
@[simp] theorem setEntry_ts (h : Hart) (sew v b x : Nat) : (h.setEntry sew v b x).ts = h.ts := rfl
@[simp] theorem setEntry_vcarry (h : Hart) (sew v b x : Nat) : (h.setEntry sew v b x).vcarry = h.vcarry := rfl
@[simp] theorem setEntry_pcarry (h : Hart) (sew v b x : Nat) : (h.setEntry sew v b x).pcarry = h.pcarry := rfl
@[simp] theorem setEntry_wmark (h : Hart) (sew v b x : Nat) : (h.setEntry sew v b x).wmark = h.wmark := rfl
@[simp] theorem setEntry_wwait (h : Hart) (sew v b x : Nat) : (h.setEntry sew v b x).wwait = h.wwait := rfl
@[simp] theorem setEntry_psvlo (h : Hart) (sew v b x : Nat) : (h.setEntry sew v b x).psvlo = h.psvlo := rfl
@[simp] theorem setEntry_psvhi (h : Hart) (sew v b x : Nat) : (h.setEntry sew v b x).psvhi = h.psvhi := rfl
@[simp] theorem setEntry_mck (h : Hart) (sew v b x : Nat) : (h.setEntry sew v b x).mck = h.mck := rfl
@[simp] theorem setEntry_flags (h : Hart) (sew v b x : Nat) : (h.setEntry sew v b x).flags = h.flags := rfl
@[simp] theorem setEntry_vl (h : Hart) (sew v b x : Nat) : (h.setEntry sew v b x).vl = h.vl := rfl
@[simp] theorem setEntry_vtype (h : Hart) (sew v b x : Nat) : (h.setEntry sew v b x).vtype = h.vtype := rfl
@[simp] theorem setEntry_mvl (h : Hart) (sew v b x : Nat) : (h.setEntry sew v b x).mvl = h.mvl := rfl
@[simp] theorem setEntry_vstart (h : Hart) (sew v b x : Nat) : (h.setEntry sew v b x).vstart = h.vstart := rfl
@[simp] theorem setEntry_hartix (h : Hart) (sew v b x : Nat) : (h.setEntry sew v b x).hartix = h.hartix := rfl
@[simp] theorem setEntry_gangsz (h : Hart) (sew v b x : Nat) : (h.setEntry sew v b x).gangsz = h.gangsz := rfl
@[simp] theorem setEntry_gangid (h : Hart) (sew v b x : Nat) : (h.setEntry sew v b x).gangid = h.gangid := rfl
@[simp] theorem setEntry_rpc (h : Hart) (sew v b x : Nat) : (h.setEntry sew v b x).rpc = h.rpc := rfl
@[simp] theorem setEntry_rpcx (h : Hart) (sew v b x : Nat) : (h.setEntry sew v b x).rpcx = h.rpcx := rfl
@[simp] theorem setEntry_convoys (h : Hart) (sew v b x : Nat) : (h.setEntry sew v b x).convoys = h.convoys := rfl
@[simp] theorem setEntry_tvec (h : Hart) (sew v b x : Nat) : (h.setEntry sew v b x).tvec = h.tvec := rfl
@[simp] theorem setEntry_tcause (h : Hart) (sew v b x : Nat) : (h.setEntry sew v b x).tcause = h.tcause := rfl
@[simp] theorem setEntry_tepc (h : Hart) (sew v b x : Nat) : (h.setEntry sew v b x).tepc = h.tepc := rfl
@[simp] theorem setEntry_tval (h : Hart) (sew v b x : Nat) : (h.setEntry sew v b x).tval = h.tval := rfl
@[simp] theorem setEntry_tstatus (h : Hart) (sew v b x : Nat) : (h.setEntry sew v b x).tstatus = h.tstatus := rfl
@[simp] theorem setEntry_wbase (h : Hart) (sew v b x : Nat) : (h.setEntry sew v b x).wbase = h.wbase := rfl
@[simp] theorem setEntry_tscratch (h : Hart) (sew v b x : Nat) : (h.setEntry sew v b x).tscratch = h.tscratch := rfl
@[simp] theorem setEntry_route (h : Hart) (sew v b x : Nat) : (h.setEntry sew v b x).route = h.route := rfl
@[simp] theorem setEntry_prio (h : Hart) (sew v b x : Nat) : (h.setEntry sew v b x).prio = h.prio := rfl
@[simp] theorem setEntry_ptbase (h : Hart) (sew v b x : Nat) : (h.setEntry sew v b x).ptbase = h.ptbase := rfl
@[simp] theorem setEntry_prtbase (h : Hart) (sew v b x : Nat) : (h.setEntry sew v b x).prtbase = h.prtbase := rfl
@[simp] theorem setEntry_fplist (h : Hart) (sew v b x : Nat) : (h.setEntry sew v b x).fplist = h.fplist := rfl
@[simp] theorem setEntry_hotbase (h : Hart) (sew v b x : Nat) : (h.setEntry sew v b x).hotbase = h.hotbase := rfl
@[simp] theorem setEntry_det (h : Hart) (sew v b x : Nat) : (h.setEntry sew v b x).det = h.det := rfl
@[simp] theorem setEntry_prot (h : Hart) (sew v b x : Nat) : (h.setEntry sew v b x).prot = h.prot := rfl
@[simp] theorem setEntry_retry (h : Hart) (sew v b x : Nat) : (h.setEntry sew v b x).retry = h.retry := rfl
@[simp] theorem setEntry_rewEn (h : Hart) (sew v b x : Nat) : (h.setEntry sew v b x).rewEn = h.rewEn := rfl
@[simp] theorem setEntry_rewLimit (h : Hart) (sew v b x : Nat) : (h.setEntry sew v b x).rewLimit = h.rewLimit := rfl
@[simp] theorem setEntry_rewCount (h : Hart) (sew v b x : Nat) : (h.setEntry sew v b x).rewCount = h.rewCount := rfl
@[simp] theorem setEntry_dbgctl (h : Hart) (sew v b x : Nat) : (h.setEntry sew v b x).dbgctl = h.dbgctl := rfl
@[simp] theorem setEntry_slots (h : Hart) (sew v b x : Nat) : (h.setEntry sew v b x).slots = h.slots := rfl
@[simp] theorem setEntry_copyBuf (h : Hart) (sew v b x : Nat) : (h.setEntry sew v b x).copyBuf = h.copyBuf := rfl
@[simp] theorem setEntry_stash (h : Hart) (sew v b x : Nat) : (h.setEntry sew v b x).stash = h.stash := rfl
@[simp] theorem setEntry_checkCarry (h : Hart) (sew v b x : Nat) : (h.setEntry sew v b x).checkCarry = h.checkCarry := rfl
@[simp] theorem setEntry_status (h : Hart) (sew v b x : Nat) : (h.setEntry sew v b x).status = h.status := rfl
@[simp] theorem setEntry_resume (h : Hart) (sew v b x : Nat) : (h.setEntry sew v b x).resume = h.resume := rfl
@[simp] theorem setEntry_carry (h : Hart) (sew v b x : Nat) : (h.setEntry sew v b x).carry = h.carry := rfl
@[simp] theorem setEntry_pass (h : Hart) (sew v b x : Nat) : (h.setEntry sew v b x).pass = h.pass := rfl
@[simp] theorem setEntry_retried (h : Hart) (sew v b x : Nat) : (h.setEntry sew v b x).retried = h.retried := rfl
@[simp] theorem setEntry_held (h : Hart) (sew v b x : Nat) : (h.setEntry sew v b x).held = h.held := rfl
@[simp] theorem setEntry_rheld (h : Hart) (sew v b x : Nat) : (h.setEntry sew v b x).rheld = h.rheld := rfl
@[simp] theorem setEntry_seq (h : Hart) (sew v b x : Nat) : (h.setEntry sew v b x).seq = h.seq := rfl
@[simp] theorem setEntry_orders (h : Hart) (sew v b x : Nat) : (h.setEntry sew v b x).orders = h.orders := rfl
@[simp] theorem setEntry_cores (h : Hart) (sew v b x : Nat) : (h.setEntry sew v b x).cores = h.cores := rfl
@[simp] theorem setEntry_got (h : Hart) (sew v b x : Nat) : (h.setEntry sew v b x).got = h.got := rfl
@[simp] theorem setEntry_gathered (h : Hart) (sew v b x : Nat) : (h.setEntry sew v b x).gathered = h.gathered := rfl
@[simp] theorem setEntry_due (h : Hart) (sew v b x : Nat) : (h.setEntry sew v b x).due = h.due := rfl
@[simp] theorem setEntry_check (h : Hart) (sew v b x : Nat) : (h.setEntry sew v b x).check = h.check := rfl
@[simp] theorem setEntry_reclaimAt (h : Hart) (sew v b x : Nat) : (h.setEntry sew v b x).reclaimAt = h.reclaimAt := rfl
@[simp] theorem setEntry_shrunk (h : Hart) (sew v b x : Nat) : (h.setEntry sew v b x).shrunk = h.shrunk := rfl
@[simp] theorem setEntry_switchReq (h : Hart) (sew v b x : Nat) : (h.setEntry sew v b x).switchReq = h.switchReq := rfl
@[simp] theorem setEntry_arrived (h : Hart) (sew v b x : Nat) : (h.setEntry sew v b x).arrived = h.arrived := rfl

@[simp] theorem setPred_core (h : Hart) (p : Nat) (x : Pred) : (h.setPred p x).core = h.core := by
  unfold Hart.setPred; split <;> rfl
@[simp] theorem setPred_slot (h : Hart) (p : Nat) (x : Pred) : (h.setPred p x).slot = h.slot := by
  unfold Hart.setPred; split <;> rfl
@[simp] theorem setPred_x (h : Hart) (p : Nat) (x : Pred) : (h.setPred p x).x = h.x := by
  unfold Hart.setPred; split <;> rfl
@[simp] theorem setPred_pc (h : Hart) (p : Nat) (x : Pred) : (h.setPred p x).pc = h.pc := by
  unfold Hart.setPred; split <;> rfl
@[simp] theorem setPred_priv (h : Hart) (p : Nat) (x : Pred) : (h.setPred p x).priv = h.priv := by
  unfold Hart.setPred; split <;> rfl
@[simp] theorem setPred_v (h : Hart) (p : Nat) (x : Pred) : (h.setPred p x).v = h.v := by
  unfold Hart.setPred; split <;> rfl
@[simp] theorem setPred_side (h : Hart) (p : Nat) (x : Pred) : (h.setPred p x).side = h.side := by
  unfold Hart.setPred; split <;> rfl
@[simp] theorem setPred_vdead (h : Hart) (p : Nat) (x : Pred) : (h.setPred p x).vdead = h.vdead := by
  unfold Hart.setPred; split <;> rfl
@[simp] theorem setPred_gmask (h : Hart) (p : Nat) (x : Pred) : (h.setPred p x).gmask = h.gmask := by
  unfold Hart.setPred; split <;> rfl
@[simp] theorem setPred_request (h : Hart) (p : Nat) (x : Pred) : (h.setPred p x).request = h.request := by
  unfold Hart.setPred; split <;> rfl
@[simp] theorem setPred_lgmin (h : Hart) (p : Nat) (x : Pred) : (h.setPred p x).lgmin = h.lgmin := by
  unfold Hart.setPred; split <;> rfl
@[simp] theorem setPred_lgmax (h : Hart) (p : Nat) (x : Pred) : (h.setPred p x).lgmax = h.lgmax := by
  unfold Hart.setPred; split <;> rfl
@[simp] theorem setPred_mfc (h : Hart) (p : Nat) (x : Pred) : (h.setPred p x).mfc = h.mfc := by
  unfold Hart.setPred; split <;> rfl
@[simp] theorem setPred_mb (h : Hart) (p : Nat) (x : Pred) : (h.setPred p x).mb = h.mb := by
  unfold Hart.setPred; split <;> rfl
@[simp] theorem setPred_ts (h : Hart) (p : Nat) (x : Pred) : (h.setPred p x).ts = h.ts := by
  unfold Hart.setPred; split <;> rfl
@[simp] theorem setPred_vcarry (h : Hart) (p : Nat) (x : Pred) : (h.setPred p x).vcarry = h.vcarry := by
  unfold Hart.setPred; split <;> rfl
@[simp] theorem setPred_pcarry (h : Hart) (p : Nat) (x : Pred) : (h.setPred p x).pcarry = h.pcarry := by
  unfold Hart.setPred; split <;> rfl
@[simp] theorem setPred_wmark (h : Hart) (p : Nat) (x : Pred) : (h.setPred p x).wmark = h.wmark := by
  unfold Hart.setPred; split <;> rfl
@[simp] theorem setPred_wwait (h : Hart) (p : Nat) (x : Pred) : (h.setPred p x).wwait = h.wwait := by
  unfold Hart.setPred; split <;> rfl
@[simp] theorem setPred_psvlo (h : Hart) (p : Nat) (x : Pred) : (h.setPred p x).psvlo = h.psvlo := by
  unfold Hart.setPred; split <;> rfl
@[simp] theorem setPred_psvhi (h : Hart) (p : Nat) (x : Pred) : (h.setPred p x).psvhi = h.psvhi := by
  unfold Hart.setPred; split <;> rfl
@[simp] theorem setPred_mck (h : Hart) (p : Nat) (x : Pred) : (h.setPred p x).mck = h.mck := by
  unfold Hart.setPred; split <;> rfl
@[simp] theorem setPred_flags (h : Hart) (p : Nat) (x : Pred) : (h.setPred p x).flags = h.flags := by
  unfold Hart.setPred; split <;> rfl
@[simp] theorem setPred_vl (h : Hart) (p : Nat) (x : Pred) : (h.setPred p x).vl = h.vl := by
  unfold Hart.setPred; split <;> rfl
@[simp] theorem setPred_vtype (h : Hart) (p : Nat) (x : Pred) : (h.setPred p x).vtype = h.vtype := by
  unfold Hart.setPred; split <;> rfl
@[simp] theorem setPred_mvl (h : Hart) (p : Nat) (x : Pred) : (h.setPred p x).mvl = h.mvl := by
  unfold Hart.setPred; split <;> rfl
@[simp] theorem setPred_vstart (h : Hart) (p : Nat) (x : Pred) : (h.setPred p x).vstart = h.vstart := by
  unfold Hart.setPred; split <;> rfl
@[simp] theorem setPred_hartix (h : Hart) (p : Nat) (x : Pred) : (h.setPred p x).hartix = h.hartix := by
  unfold Hart.setPred; split <;> rfl
@[simp] theorem setPred_gangsz (h : Hart) (p : Nat) (x : Pred) : (h.setPred p x).gangsz = h.gangsz := by
  unfold Hart.setPred; split <;> rfl
@[simp] theorem setPred_gangid (h : Hart) (p : Nat) (x : Pred) : (h.setPred p x).gangid = h.gangid := by
  unfold Hart.setPred; split <;> rfl
@[simp] theorem setPred_rpc (h : Hart) (p : Nat) (x : Pred) : (h.setPred p x).rpc = h.rpc := by
  unfold Hart.setPred; split <;> rfl
@[simp] theorem setPred_rpcx (h : Hart) (p : Nat) (x : Pred) : (h.setPred p x).rpcx = h.rpcx := by
  unfold Hart.setPred; split <;> rfl
@[simp] theorem setPred_convoys (h : Hart) (p : Nat) (x : Pred) : (h.setPred p x).convoys = h.convoys := by
  unfold Hart.setPred; split <;> rfl
@[simp] theorem setPred_tvec (h : Hart) (p : Nat) (x : Pred) : (h.setPred p x).tvec = h.tvec := by
  unfold Hart.setPred; split <;> rfl
@[simp] theorem setPred_tcause (h : Hart) (p : Nat) (x : Pred) : (h.setPred p x).tcause = h.tcause := by
  unfold Hart.setPred; split <;> rfl
@[simp] theorem setPred_tepc (h : Hart) (p : Nat) (x : Pred) : (h.setPred p x).tepc = h.tepc := by
  unfold Hart.setPred; split <;> rfl
@[simp] theorem setPred_tval (h : Hart) (p : Nat) (x : Pred) : (h.setPred p x).tval = h.tval := by
  unfold Hart.setPred; split <;> rfl
@[simp] theorem setPred_tstatus (h : Hart) (p : Nat) (x : Pred) : (h.setPred p x).tstatus = h.tstatus := by
  unfold Hart.setPred; split <;> rfl
@[simp] theorem setPred_wbase (h : Hart) (p : Nat) (x : Pred) : (h.setPred p x).wbase = h.wbase := by
  unfold Hart.setPred; split <;> rfl
@[simp] theorem setPred_tscratch (h : Hart) (p : Nat) (x : Pred) : (h.setPred p x).tscratch = h.tscratch := by
  unfold Hart.setPred; split <;> rfl
@[simp] theorem setPred_route (h : Hart) (p : Nat) (x : Pred) : (h.setPred p x).route = h.route := by
  unfold Hart.setPred; split <;> rfl
@[simp] theorem setPred_prio (h : Hart) (p : Nat) (x : Pred) : (h.setPred p x).prio = h.prio := by
  unfold Hart.setPred; split <;> rfl
@[simp] theorem setPred_ptbase (h : Hart) (p : Nat) (x : Pred) : (h.setPred p x).ptbase = h.ptbase := by
  unfold Hart.setPred; split <;> rfl
@[simp] theorem setPred_prtbase (h : Hart) (p : Nat) (x : Pred) : (h.setPred p x).prtbase = h.prtbase := by
  unfold Hart.setPred; split <;> rfl
@[simp] theorem setPred_fplist (h : Hart) (p : Nat) (x : Pred) : (h.setPred p x).fplist = h.fplist := by
  unfold Hart.setPred; split <;> rfl
@[simp] theorem setPred_hotbase (h : Hart) (p : Nat) (x : Pred) : (h.setPred p x).hotbase = h.hotbase := by
  unfold Hart.setPred; split <;> rfl
@[simp] theorem setPred_det (h : Hart) (p : Nat) (x : Pred) : (h.setPred p x).det = h.det := by
  unfold Hart.setPred; split <;> rfl
@[simp] theorem setPred_prot (h : Hart) (p : Nat) (x : Pred) : (h.setPred p x).prot = h.prot := by
  unfold Hart.setPred; split <;> rfl
@[simp] theorem setPred_retry (h : Hart) (p : Nat) (x : Pred) : (h.setPred p x).retry = h.retry := by
  unfold Hart.setPred; split <;> rfl
@[simp] theorem setPred_rewEn (h : Hart) (p : Nat) (x : Pred) : (h.setPred p x).rewEn = h.rewEn := by
  unfold Hart.setPred; split <;> rfl
@[simp] theorem setPred_rewLimit (h : Hart) (p : Nat) (x : Pred) : (h.setPred p x).rewLimit = h.rewLimit := by
  unfold Hart.setPred; split <;> rfl
@[simp] theorem setPred_rewCount (h : Hart) (p : Nat) (x : Pred) : (h.setPred p x).rewCount = h.rewCount := by
  unfold Hart.setPred; split <;> rfl
@[simp] theorem setPred_dbgctl (h : Hart) (p : Nat) (x : Pred) : (h.setPred p x).dbgctl = h.dbgctl := by
  unfold Hart.setPred; split <;> rfl
@[simp] theorem setPred_slots (h : Hart) (p : Nat) (x : Pred) : (h.setPred p x).slots = h.slots := by
  unfold Hart.setPred; split <;> rfl
@[simp] theorem setPred_copyBuf (h : Hart) (p : Nat) (x : Pred) : (h.setPred p x).copyBuf = h.copyBuf := by
  unfold Hart.setPred; split <;> rfl
@[simp] theorem setPred_stash (h : Hart) (p : Nat) (x : Pred) : (h.setPred p x).stash = h.stash := by
  unfold Hart.setPred; split <;> rfl
@[simp] theorem setPred_checkCarry (h : Hart) (p : Nat) (x : Pred) : (h.setPred p x).checkCarry = h.checkCarry := by
  unfold Hart.setPred; split <;> rfl
@[simp] theorem setPred_status (h : Hart) (p : Nat) (x : Pred) : (h.setPred p x).status = h.status := by
  unfold Hart.setPred; split <;> rfl
@[simp] theorem setPred_resume (h : Hart) (p : Nat) (x : Pred) : (h.setPred p x).resume = h.resume := by
  unfold Hart.setPred; split <;> rfl
@[simp] theorem setPred_carry (h : Hart) (p : Nat) (x : Pred) : (h.setPred p x).carry = h.carry := by
  unfold Hart.setPred; split <;> rfl
@[simp] theorem setPred_pass (h : Hart) (p : Nat) (x : Pred) : (h.setPred p x).pass = h.pass := by
  unfold Hart.setPred; split <;> rfl
@[simp] theorem setPred_retried (h : Hart) (p : Nat) (x : Pred) : (h.setPred p x).retried = h.retried := by
  unfold Hart.setPred; split <;> rfl
@[simp] theorem setPred_held (h : Hart) (p : Nat) (x : Pred) : (h.setPred p x).held = h.held := by
  unfold Hart.setPred; split <;> rfl
@[simp] theorem setPred_rheld (h : Hart) (p : Nat) (x : Pred) : (h.setPred p x).rheld = h.rheld := by
  unfold Hart.setPred; split <;> rfl
@[simp] theorem setPred_seq (h : Hart) (p : Nat) (x : Pred) : (h.setPred p x).seq = h.seq := by
  unfold Hart.setPred; split <;> rfl
@[simp] theorem setPred_orders (h : Hart) (p : Nat) (x : Pred) : (h.setPred p x).orders = h.orders := by
  unfold Hart.setPred; split <;> rfl
@[simp] theorem setPred_cores (h : Hart) (p : Nat) (x : Pred) : (h.setPred p x).cores = h.cores := by
  unfold Hart.setPred; split <;> rfl
@[simp] theorem setPred_got (h : Hart) (p : Nat) (x : Pred) : (h.setPred p x).got = h.got := by
  unfold Hart.setPred; split <;> rfl
@[simp] theorem setPred_gathered (h : Hart) (p : Nat) (x : Pred) : (h.setPred p x).gathered = h.gathered := by
  unfold Hart.setPred; split <;> rfl
@[simp] theorem setPred_due (h : Hart) (p : Nat) (x : Pred) : (h.setPred p x).due = h.due := by
  unfold Hart.setPred; split <;> rfl
@[simp] theorem setPred_check (h : Hart) (p : Nat) (x : Pred) : (h.setPred p x).check = h.check := by
  unfold Hart.setPred; split <;> rfl
@[simp] theorem setPred_reclaimAt (h : Hart) (p : Nat) (x : Pred) : (h.setPred p x).reclaimAt = h.reclaimAt := by
  unfold Hart.setPred; split <;> rfl
@[simp] theorem setPred_shrunk (h : Hart) (p : Nat) (x : Pred) : (h.setPred p x).shrunk = h.shrunk := by
  unfold Hart.setPred; split <;> rfl
@[simp] theorem setPred_switchReq (h : Hart) (p : Nat) (x : Pred) : (h.setPred p x).switchReq = h.switchReq := by
  unfold Hart.setPred; split <;> rfl
@[simp] theorem setPred_arrived (h : Hart) (p : Nat) (x : Pred) : (h.setPred p x).arrived = h.arrived := by
  unfold Hart.setPred; split <;> rfl

@[simp] theorem setPred_zero (h : Hart) (x : Pred) : h.setPred 0 x = h := rfl

/-! ### Writes and orders of a word -/

@[simp] theorem addWrites_hart (s : State) (ws : List Write) : (s.addWrites ws).hart = { s.hart with seq := s.hart.seq + 1 } := rfl
@[simp] theorem addWrites_conv (s : State) (ws : List Write) :
    (s.addWrites ws).conv = { s.conv with pend := s.conv.pend ++ ws.map fun w => { w with seq := s.hart.seq } } := rfl
@[simp] theorem addWrites_others (s : State) (ws : List Write) : (s.addWrites ws).others = s.others := rfl
@[simp] theorem addWrites_mem (s : State) (ws : List Write) : (s.addWrites ws).mem = s.mem := rfl
@[simp] theorem addWrites_poison (s : State) (ws : List Write) : (s.addWrites ws).poison = s.poison := rfl
@[simp] theorem addWrites_tags (s : State) (ws : List Write) : (s.addWrites ws).tags = s.tags := rfl
@[simp] theorem addWrites_wq (s : State) (ws : List Write) : (s.addWrites ws).wq = s.wq := rfl
@[simp] theorem addWrites_unacked (s : State) (ws : List Write) : (s.addWrites ws).unacked = s.unacked := rfl
@[simp] theorem addWrites_llc (s : State) (ws : List Write) : (s.addWrites ws).llc = s.llc := rfl
@[simp] theorem addWrites_l2 (s : State) (ws : List Write) : (s.addWrites ws).l2 = s.l2 := rfl
@[simp] theorem addWrites_ended (s : State) (ws : List Write) : (s.addWrites ws).ended = s.ended := rfl
@[simp] theorem addWrites_chunks (s : State) (ws : List Write) : (s.addWrites ws).chunks = s.chunks := rfl
@[simp] theorem addWrites_images (s : State) (ws : List Write) : (s.addWrites ws).images = s.images := rfl
@[simp] theorem addWrites_imagesNext (s : State) (ws : List Write) : (s.addWrites ws).imagesNext = s.imagesNext := rfl
@[simp] theorem addWrites_l1d (s : State) (ws : List Write) : (s.addWrites ws).l1d = s.l1d := rfl
@[simp] theorem addWrites_pubs (s : State) (ws : List Write) : (s.addWrites ws).pubs = s.pubs := rfl
@[simp] theorem addWrites_hotPend (s : State) (ws : List Write) : (s.addWrites ws).hotPend = s.hotPend := rfl
@[simp] theorem addWrites_samples (s : State) (ws : List Write) : (s.addWrites ws).samples = s.samples := rfl
@[simp] theorem addWrites_tlb (s : State) (ws : List Write) : (s.addWrites ws).tlb = s.tlb := rfl
@[simp] theorem addWrites_l1i (s : State) (ws : List Write) : (s.addWrites ws).l1i = s.l1i := rfl
@[simp] theorem addWrites_ptc (s : State) (ws : List Write) : (s.addWrites ws).ptc = s.ptc := rfl
@[simp] theorem addWrites_pageMoves (s : State) (ws : List Write) : (s.addWrites ws).pageMoves = s.pageMoves := rfl
@[simp] theorem addWrites_lpr (s : State) (ws : List Write) : (s.addWrites ws).lpr = s.lpr := rfl
@[simp] theorem addWrites_fifos (s : State) (ws : List Write) : (s.addWrites ws).fifos = s.fifos := rfl
@[simp] theorem addWrites_gangs (s : State) (ws : List Write) : (s.addWrites ws).gangs = s.gangs := rfl
@[simp] theorem addWrites_sets (s : State) (ws : List Write) : (s.addWrites ws).sets = s.sets := rfl
@[simp] theorem addWrites_trunks (s : State) (ws : List Write) : (s.addWrites ws).trunks = s.trunks := rfl
@[simp] theorem addWrites_cycle (s : State) (ws : List Write) : (s.addWrites ws).cycle = s.cycle := rfl
@[simp] theorem addWrites_fresh (s : State) (ws : List Write) : (s.addWrites ws).fresh = s.fresh := rfl
@[simp] theorem addWrites_agenda (s : State) (ws : List Write) : (s.addWrites ws).agenda = s.agenda := rfl

@[simp] theorem order_conv (s : State) (os : List Order) : (s.order os).conv = s.conv := rfl
@[simp] theorem order_others (s : State) (os : List Order) : (s.order os).others = s.others := rfl
@[simp] theorem order_mem (s : State) (os : List Order) : (s.order os).mem = s.mem := rfl
@[simp] theorem order_poison (s : State) (os : List Order) : (s.order os).poison = s.poison := rfl
@[simp] theorem order_tags (s : State) (os : List Order) : (s.order os).tags = s.tags := rfl
@[simp] theorem order_wq (s : State) (os : List Order) : (s.order os).wq = s.wq := rfl
@[simp] theorem order_unacked (s : State) (os : List Order) : (s.order os).unacked = s.unacked := rfl
@[simp] theorem order_llc (s : State) (os : List Order) : (s.order os).llc = s.llc := rfl
@[simp] theorem order_l2 (s : State) (os : List Order) : (s.order os).l2 = s.l2 := rfl
@[simp] theorem order_ended (s : State) (os : List Order) : (s.order os).ended = s.ended := rfl
@[simp] theorem order_chunks (s : State) (os : List Order) : (s.order os).chunks = s.chunks := rfl
@[simp] theorem order_images (s : State) (os : List Order) : (s.order os).images = s.images := rfl
@[simp] theorem order_imagesNext (s : State) (os : List Order) : (s.order os).imagesNext = s.imagesNext := rfl
@[simp] theorem order_l1d (s : State) (os : List Order) : (s.order os).l1d = s.l1d := rfl
@[simp] theorem order_pubs (s : State) (os : List Order) : (s.order os).pubs = s.pubs := rfl
@[simp] theorem order_hotPend (s : State) (os : List Order) : (s.order os).hotPend = s.hotPend := rfl
@[simp] theorem order_samples (s : State) (os : List Order) : (s.order os).samples = s.samples := rfl
@[simp] theorem order_tlb (s : State) (os : List Order) : (s.order os).tlb = s.tlb := rfl
@[simp] theorem order_l1i (s : State) (os : List Order) : (s.order os).l1i = s.l1i := rfl
@[simp] theorem order_ptc (s : State) (os : List Order) : (s.order os).ptc = s.ptc := rfl
@[simp] theorem order_pageMoves (s : State) (os : List Order) : (s.order os).pageMoves = s.pageMoves := rfl
@[simp] theorem order_lpr (s : State) (os : List Order) : (s.order os).lpr = s.lpr := rfl
@[simp] theorem order_fifos (s : State) (os : List Order) : (s.order os).fifos = s.fifos := rfl
@[simp] theorem order_gangs (s : State) (os : List Order) : (s.order os).gangs = s.gangs := rfl
@[simp] theorem order_sets (s : State) (os : List Order) : (s.order os).sets = s.sets := rfl
@[simp] theorem order_trunks (s : State) (os : List Order) : (s.order os).trunks = s.trunks := rfl
@[simp] theorem order_cycle (s : State) (os : List Order) : (s.order os).cycle = s.cycle := rfl
@[simp] theorem order_fresh (s : State) (os : List Order) : (s.order os).fresh = s.fresh := rfl
@[simp] theorem order_agenda (s : State) (os : List Order) : (s.order os).agenda = s.agenda := rfl

end Sys2Proof.Laws
end

