-- ==== Sys2Proof/Safety.lean ====
section
/-! DEFINITION. What counts as a safe run, and the terms in which the statements say what a completed instruction leaves. -/

namespace Sys2Proof

open Sys2Proof.Machine

/-- A run of n steps from a state ends in a state: no step of it stopped. -/
def SafeRun (n : Nat) (s : Machine.State) : Prop := ∃ t, core.run n s = .next t

/-- The current hart is about to execute a convoy of one word from its beginning, which may be marked as a commit point: it stands in a
slot of its core and is not halted, no suspended convoy is to be continued, REWIND and the convoy step are off, no write is held under
REWIND, and none of its held writes is one that is performed at retirement. -/
structure Ready (s : Machine.State) : Prop where
  conv : s.conv = { Convoy.fresh with commit := s.conv.commit }
  slot : s.hart.slot < 4
  whole : s.hart.resume = none
  stands : s.hart.status ≠ .gone
  going : s.hart.status ≠ .halted
  straight : s.hart.rewEn = false
  unstepped : s.hart.stepping 1 = false
  quiet : ∀ w ∈ s.hart.held, w.now = false
  kept : s.hart.rheld = []

/-- A hart as the retirement of a convoy of one word leaves it: `pre` is the hart before the convoy, `h` the hart with the effects of its
word, and `next` the address of the next convoy. The counter of retired convoys advances (R136), flags are raised (R74), and SKIP is
cleared where the convoy could have matched (R398): that a convoy at privilege S, or with a trap in progress, leaves SKIP as it is is the
model's reading (log entry 48). -/
def leave (pre h : Hart) (next : Word) (fx : BitVec 7) : Hart :=
  { h with
    pc := next
    convoys := h.convoys + 1
    flags := h.flags ||| BitVec.zeroExtend 10 fx
    status := .running
    resume := none
    carry := Carry.none
    got := []
    gathered := []
    pass := none
    retried := false
    shrunk := false
    arrived := none
    dbgctl := if pre.priv = .u ∧ pre.tip = false then h.dbgctl &&& ~~~(8#57) else h.dbgctl }

/-- The outcome of a word that is complete: the state `t` with the word's own effects, in which the hart has gone on to the next
convoy, the flags that the word raised have joined FLAGS (R74), and the writes that it made are among the hart's retired writes, on
their way to their ordering points (R230, R323), as are its hotness additions (R292). Nothing else changes. -/
def completes (s t : Machine.State) : Out :=
  let h := leave s.hart t.hart (s.hart.pc + 4) t.conv.fx
  .next { t with
    hart := { h with held := h.held ++ t.conv.pend }
    conv := Convoy.fresh
    hotPend := t.hotPend ++ t.conv.hot }

/-- The outcome of a word that raises a cause: the convoy is squashed and the trap is taken with the hart's next state as
`TrapEntry` and `DoubleTrap` say (R325, R329). -/
def traps (s : Machine.State) (t : Trap) : Out := .next (s.squash t 0)

/-- The outcome of a word that cannot complete yet: the hart waits at its convoy since this cycle, or goes on waiting for the same
thing, and nothing of the word has happened. -/
def waits (s : Machine.State) (why : Why) : Out := .next (s.waitNow why)

/-- The bytes of an access lie in one page, which the hart may access so, at a physical address; no device register stands there, and no
publication of the hart to a watermark among them is outstanding. -/
structure Reaches (s : Machine.State) (acc : Acc) (scalar : Bool) (va : Word) (n pa : Nat) : Prop where
  page : va.toNat % 65536 + n ≤ 65536
  at_ : ∃ base leaf, s.translate s.hart.core s.hart.ptbase s.hart.priv acc scalar (pageOf va) = .pa base leaf ∧
    pa = base + va.toNat % 65536 ∧ base % 65536 = 0
  memory : regionOf pa ≠ .regs
  alone : ∀ p ∈ s.ownPubs, overlaps p.pa 8 pa n = false

/-- No byte of a range lies in a poisoned unit. -/
def Sound (s : Machine.State) (pa n : Nat) : Prop := ∀ u ∈ s.poison, overlaps u.1 u.2.1 pa n = false

/-- A read of a class by the hart finds nothing that it must follow: no order of a fence names it, no held write of the class overlaps it,
and no write of the hart in the queue of another core does (R130, R235). -/
structure Follows (s : Machine.State) (c : Cls) (ps : List (Nat × Nat)) : Prop where
  orders : ∀ o ∈ s.hart.orders, o.after = c → o.reads = false
  held : ∀ w ∈ s.hart.held, w.meets c ps = false
  away : ∀ w ∈ s.wq, w.mine s.hart = true → w.core ≠ s.hart.core → w.meets c ps = false

/-- The lines of some pieces are not awaited from the drawer, for reading (R226). -/
def Served (s : Machine.State) (ps : List (Nat × Nat)) : Prop := ∀ p ∈ ps, ∀ k < p.2, s.unserved false (p.1 + k) = false

/-- Every line of some pieces takes a write without a request at a trunk: none is a drawer line but those of a private partition that the
LLC holds (R214, R226). -/
def Near (s : Machine.State) (ps : List (Nat × Nat)) : Prop :=
  ∀ p ∈ ps, ∀ k < p.2, s.overTrunk (p.1 + k) = false

/-- Nothing of the hart, and nothing that its core or a core it has stood on holds in its queue, is on its way to an ordering point. -/
structure Alone (s : Machine.State) : Prop where
  held : s.hart.held = []
  queued : ∀ w ∈ s.wq ++ s.unacked, w.mine s.hart = false ∧ w.core ≠ s.hart.core ∧ w.core ∉ s.hart.cores

/-- The writes of the package that are on their way to their ordering points. -/
def onWay (s : Machine.State) : List Write :=
  s.wq ++ s.hart.held ++ (s.others.flatMap fun h => h.held ++ h.rheld) ++ s.ended.flatMap fun h => h.held

/-- A write of some bytes of one line by the hart's core may be performed at once: its trunk is up, no page move holds it, no request of its
line is told to retry, and no other write of the line is half applied (R248, R295, R363, R369). -/
structure Open (s : Machine.State) (pa n : Nat) : Prop where
  up : s.downTrunk pa = none
  unmoved : ∀ m ∈ s.pageMoves, overlaps m.old 65536 pa n = false
  taken : ∀ r ∈ s.sliceReqs, r.core = s.hart.core → overlaps r.line 128 pa n = false
  whole : ∀ w ∈ s.wq, w.part = true → overlaps (lineOf w.pa) 128 pa n = false

/-- The L1D lines of a scalar load that are not in the cache of the hart's core answer at once and are not poisoned (R124, R358). -/
def Answers (s : Machine.State) (pa n : Nat) : Prop :=
  ∀ p ∈ l1Pieces [(pa, n)], s.inL1d p.1 = false → s.unserved false p.1 = false ∧ Sound s p.1 p.2

/-- The little-endian value of n bytes as a read of a class by the hart finds them. -/
def valueAt (s : Machine.State) (c : Cls) (pa n : Nat) : Nat := leNat ((List.range n).map fun k => s.readByte c (pa + k))

/-- After a word the hart reads n new bytes at an address and every other byte as before. -/
def Stored (s t : Machine.State) (c : Cls) (pa : Nat) (bs : List Byte) : Prop :=
  ∀ a, t.readByte c a = if pa ≤ a ∧ a < pa + bs.length then bs[a - pa]?.getD 0 else s.readByte c a

/-- The writable bits of the read and write CSRs. -/
def csrMasks : List (Nat × Word) :=
  [(0x010, 0x7FFFFFF), (0x011, 0x7FFFFFF), (0x012, 0x7FFFFFF), (0x013, 0x7FFFFFF), (0x020, 0x1FFFFFFFFFFFFF),
    (0x021, 0x1FFFFFFFFFFFFF), (0x022, 0x1FFFFFFFFFFFFF), (0x023, 0x1FFFFFFFFFFFFF), (0x024, 0x1FFFFFFFFFFFFF),
    (0x025, 0x1FFFFFFFFFFFFF), (0x026, 0x1FFFFFFFFFFFFF), (0x027, 0x1FFFFFFFFFFFFF)] ++
  [(0x030, BitVec.allOnes 64), (0x031, BitVec.allOnes 64), (0x032, BitVec.allOnes 64), (0x033, BitVec.allOnes 64),
    (0x040, 0xFFFFFFFF), (0x041, BitVec.allOnes 64), (0x060, BitVec.allOnes 64), (0x061, BitVec.allOnes 64),
    (0x080, BitVec.allOnes 64), (0x081, BitVec.allOnes 64), (0x090, 0x3F), (0x0A0, 0x37F)] ++
  [(0x800, ~~~(0x3F#64)), (0x801, 0x7FF), (0x802, BitVec.allOnes 64), (0x803, BitVec.allOnes 64), (0x804, 0x7F),
    (0x805, 0xFFFFFFFFFFFC0), (0x806, BitVec.allOnes 64), (0x810, 0x7777), (0x811, 0x3F), (0x812, 0x7),
    (0x820, 0x1FFFFFFFFFFF0000), (0x821, 0xFFFFFFFFFFFFF), (0x822, 0xFFFFFFFFFFFFF), (0x823, 0xFFFFFFFFFFFFF),
    (0x830, 0), (0x831, 0), (0x832, 0xF), (0x840, 0x1FFFFFFFFFFFFFF)]

/-- Every field that names a vector register group holds a multiple of LMUL (R80). -/
def GroupsFit (s : Machine.State) (vs : List (BitVec 5)) : Prop := ∀ v ∈ vs, v.toNat % lmulOf s.hart.vtype = 0

/-- The formats of an integer form (R148): the signed integer format of width SEW without a descriptor, else those of the
descriptor, which are integer formats of the container width. -/
def IntFormats (s : Machine.State) (fdw : BitVec 3) (f : Formats) : Prop :=
  if fdw = 0 then f = ⟨Fmt.nativeInt s.hart.sew, Fmt.nativeInt s.hart.sew, Fmt.nativeInt s.hart.sew, .rne, false⟩
  else ∃ d, Desc.read (s.x (descReg fdw)) = some d ∧ f = ⟨d.fa, d.fb, d.fd, d.rm, d.sat⟩ ∧
    ∀ k ∈ [d.fa, d.fb, d.fd], k.isInt = true ∧ k.cw = s.hart.sew

/-- The formats of a floating form (R66, R151): the one native to SEW under FLAGS.FRM without a descriptor, else those of the
descriptor where the form admits them. -/
def FpFormats (s : Machine.State) (u : FpUse) (fdw : BitVec 3) (f : Formats) : Prop :=
  if fdw = 0 then u ≠ .classify ∧ ∃ n, Fmt.nativeFloat s.hart.sew = some n ∧ f = ⟨n, n, n, s.hart.frm, false⟩
  else ∃ d, Desc.read (s.x (descReg fdw)) = some d ∧ f = ⟨d.fa, d.fb, d.fd, d.rm, d.sat⟩ ∧ s.hart.fpOk u d = true

/-- A strip boundary: the hart's later vector writes follow its earlier ones to CORE scope (R237). -/
def stripOrder (s : Machine.State) : Order := ⟨s.hart.seq, .vector, .vector, false, false, false, true, false⟩

/-- The state after a length-setting instruction that is granted some groups, with a number of groups still asked for: the hart stands on
its grant under the new VTYPE, MVL and VL, and with its grant short it has named victims (R36, R41, R139). -/
def lengthened (s : Machine.State) (g : BitVec 4) (short : Nat) (vt : BitVec 13) (mvl vl : Nat) : Machine.State :=
  let h := s.hart
  let t := s.regrant g (sewOf vt == sewOf h.vtype && lmulOf vt == lmulOf h.vtype)
  (({ t with hart := { t.hart with
    request := if h.keepsGrant then h.request else h.requestOf vt
    reclaimAt := if h.keepsGrant || s.namedGroups.isEmpty then h.reclaimAt else none
    vtype := vt
    mvl := BitVec.ofNat 14 mvl
    vl := BitVec.ofNat 14 vl
    vstart := 0
    vdead := false } } : Machine.State).order [stripOrder s]).nameOwn short

/-- The physical address of a byte, by the physical addresses of pages. -/
def byteAt (P : Word → Nat) (va : Word) : Nat := P (pageOf va) + va.toNat % 65536

/-- The little-endian value of n bytes at a virtual address, as a vector read of the hart finds them. -/
def readAt (s : Machine.State) (P : Word → Nat) (va : Word) (n : Nat) : Nat :=
  leNat ((List.range n).map fun k => s.readByte .vector (byteAt P (va + BitVec.ofNat 64 k)))

/-- The bytes of an access at their physical addresses, in pieces that lie in one line each. -/
def piecesAt (P : Word → Nat) (t : Touch) : List (Nat × Nat) :=
  (pieces (t.n / 128 + 2) t.va t.n).map fun p => (byteAt P p.1, p.2)

/-- Every page that some accesses touch may be accessed so in an address space, at the physical address P with the leaf L; and a write
waits for no trunk. -/
structure Maps (s : Machine.State) (space : BitVec 61) (acc : Acc) (ts : List Touch) (P : Word → Nat) (L : Word → Word) : Prop where
  pages : ∀ t ∈ ts, ∀ p ∈ pagesAt t.va t.n, s.translate s.hart.core space s.hart.priv acc false p = .pa (P p) (L p)
  near : acc = .write → ∀ t ∈ ts, Near s (piecesAt P t)

/-- The bytes that some vector reads touch answer at once: they lie in no poisoned unit, wait for no trunk, and follow no write of the
hart. -/
structure Clean (s : Machine.State) (P : Word → Nat) (ts : List Touch) : Prop where
  sound : ∀ t ∈ ts, ∀ p ∈ piecesAt P t, Sound s p.1 p.2
  served : ∀ t ∈ ts, Served s (piecesAt P t)
  follows : ∀ t ∈ ts, Follows s .vector (piecesAt P t)

/-- The pages of some accesses with their physical addresses and leaves, in ascending order. -/
def pagesOf (P : Word → Nat) (L : Word → Word) (ts : List Touch) : PageMap := (touchPages ts).map fun p => (p, P p, L p)

/-- The bytes of a value from a virtual address on, with the physical addresses that they are written to. -/
def putsAt (P : Word → Nat) (va : Word) (bs : List Byte) : List (Nat × WByte) :=
  (List.range bs.length).map fun k => (byteAt P (va + BitVec.ofNat 64 k), ⟨bs[k]?.getD 0, 0xFF⟩)

/-- A byte after some bytes have been written one after another. -/
def lastPut (ps : List (Nat × WByte)) (x : Nat) (b : Byte) : Byte := ps.foldl (fun b q => if q.1 = x then q.2.apply b else b) b

/-- Vector writes of the hart that together write some bytes, in that order, and no others. -/
structure Puts (s : Machine.State) (now : Bool) (ws : List Write) (ps : List (Nat × WByte)) : Prop where
  own : ∀ w ∈ ws, w.hart = s.hart.id ∧ w.cls = .vector ∧ w.now = now
  bytes : ∀ x b, overlay ws x b = lastPut ps x b

/-- The outcome of a word that is complete and whose writes are performed as its convoy retires, as far as they can be (R180, R263;
log entry 11). -/
def completesNow (s t : Machine.State) : Out :=
  match completes s t with
  | .next u => .next (u.release fun w => w.now)
  | .fault f => .fault f
  | .refused r => .refused r

/-- The MFC that a load or store names is legal, fits the type state, and gives a conversion (R70, R71). -/
def MemFits (s : Machine.State) (mf : BitVec 2) (whole : Bool) (m : MemFmt) : Prop :=
  MemFmt.read (s.hart.mfc[mf.toNat]?.getD 0) = some m ∧ (∀ r, m.reg = some r → r.cw = s.hart.sew) ∧
    (∀ k, m.stored = some k ∨ m.reg = some k → k.isBx = true → s.hart.sew = 8 ∧ blkOf s.hart.vtype = true) ∧
    (whole = true → ∀ k, m.stored = some k → k.subByte = false)

/-- The elements of an indexed access with n bytes each: with slot 0 at rs1 plus n times the index; with another slot at the offset
rs1 in the logical row that the index names, wherever that row lies (R176, R177). -/
def Indexed (s : Machine.State) (slot : BitVec 2) (els : List (Nat × Nat)) (base : Word) (n : Nat) (space : BitVec 61)
    (items : List Item) : Prop :=
  (slot = 0 → space = s.hart.ptbase ∧
    items = els.map fun e => ⟨⟨e.1, base + BitVec.ofNat 64 (e.2 * n), n⟩, none, none, false⟩) ∧
  (slot ≠ 0 → ∃ (set : Machine.PSet) (P : Word → Nat) (L : Word → Word), s.boundSet slot = some set ∧ space = set.space ∧
    let ts := (els.filter fun e => (s.ptcFind set.psd e.2).isNone).map fun e =>
      (⟨e.1, set.fwd + BitVec.ofNat 64 (4 * e.2), 4⟩ : Touch)
    let row := fun (l : Nat) => (s.ptcFind set.psd l).getD (readAt s P (set.fwd + BitVec.ofNat 64 (4 * l)) 4)
    (∀ e ∈ els, e.2 < set.n ∧ base.toNat + n ≤ set.pitch ∧ row e.2 < set.n + set.staging ∧ (set.rowNow e.2 (row e.2)).2 = false) ∧
    Maps s set.space .read ts P L ∧ Clean s P ts ∧
    items = els.map fun e =>
      ⟨⟨e.1, set.rowVa (set.rowNow e.2 (row e.2)).1 base.toNat, n⟩, some (set.psd, e.2, base.toNat), some set.ver, false⟩)

/-- PSVLO and PSVHI after a vector access to permuted rows (R268). -/
def versioned (t : Machine.State) (items : List Item) : Machine.State :=
  match versionBounds (items.filterMap fun x => x.ver) with
  | some b => { t with hart := { t.hart with psvlo := b.1, psvhi := b.2 } }
  | none => t

/-- The read-modify-writes of some elements one after another: memory after them, and the value that each found (R181). -/
def atomicRun (P : Word → Nat) (n : Nat) (op : Nat → Nat → Option Nat) :
    List Item → (Nat → Byte) → (Nat → Byte) × List (Nat × Nat)
  | [], m => (m, [])
  | x :: r, m =>
    let old := leNat ((List.range n).map fun k => m (byteAt P (x.t.va + BitVec.ofNat 64 k)))
    let ps := match op x.t.el old with
      | some v => putsAt P x.t.va (leBytes n v)
      | none => []
    let q := atomicRun P n op r fun a => lastPut ps a (m a)
    (q.1, (x.t.el, old) :: q.2)

/-- The levels that narrow-first replay goes through (R202, R205, R206): it accepts at the first level within the budget, and at the
last level of the ladder whatever the monitor finds, which is then over budget. -/
inductive Replays (d : Desc) (ok : Nat → Prop) : Nat → Nat → Bool → Prop where
  | within (l : Nat) : ok l → Replays d ok l l false
  | over (l : Nat) : ¬ok l → d.nextLevel l = none → Replays d ok l l true
  | next (l k m : Nat) (b : Bool) : ¬ok l → d.nextLevel l = some k → Replays d ok k m b → Replays d ok l m b

/-- The descriptor of a matrix form (R194): the one that its field names, or the format native to SEW with the form's accumulator
format, and the value that a fault names. -/
def TileDesc (s : Machine.State) (fdw : BitVec 3) (int : Bool) (d : Desc) (w : Word) : Prop :=
  if fdw = 0 then
    w = 0 ∧ ∃ f, (if int then some (Fmt.nativeInt s.hart.sew) else Fmt.nativeFloat s.hart.sew) = some f ∧
      d = ⟨f, f, if int then .int32 else .fp32, .rne, false, 0, 0, 0, false, false⟩
  else w = s.x (descReg fdw) ∧ Desc.read w = some d

/-- The current hart, which may go on, is about to issue a convoy of the one word w at its pc: its gang is not aborted, it is not to be
switched out, no breakpoint matches and no element step is due, its interlock table has room, and under PROTMODE the two copies of every
register agree (R27, R42, R236, R336, R376, R399, R400). -/
structure Issues (s : Machine.State) (w : BitVec 32) : Prop where
  live : s.hart.status = .running ∨ ∃ why since, s.hart.status = .waiting why since
  alive : s.abortedHere = false
  stays : s.hart.switchReq = false
  undue : s.hart.due = none
  passless : s.hart.pass = none
  unbroken : s.hart.breaks = false
  plain : s.hart.stepping 2 = false
  room : s.hart.entriesUsed < 16
  copies : s.hart.prot = true → ∀ k : Fin 32, mirrored s.hart.v[k] = s.hart.v[k]
  fetched : s.fetch s.hart.pc = .word w
  last : w.getLsbD 31 = true

/-- The current hart is about to issue the one word that an instruction is encoded as. -/
def AtWord (s : Machine.State) (i : Instr) : Prop := ∃ w, Issues s w ∧ decode w = .ok i

/-- The current hart waits for something at its convoy. -/
def Waits (s : Machine.State) (why : Why) : Prop := ∃ since, s.hart.status = .waiting why since

/-- A trap of the current hart is delivered at once: no write of the hart, or in the queue of its core, overlaps its Waybill (R401). -/
structure Delivers (s : Machine.State) : Prop where
  held : ∀ w ∈ s.hart.held, overlaps w.pa w.bytes.length s.hart.wbase.toNat 1600 = false
  queued : ∀ w ∈ s.wq, w.core = s.hart.core → overlaps w.pa w.bytes.length s.hart.wbase.toNat 1600 = false

/-- A slice count that LLCREQ may ask for (R228). -/
def sliceCount (n : BitVec 8) : Prop := n = 131 ∨ n = 127 ∨ n = 113

/-- What every step keeps: memory stands in its canonical form; a trunk works with 0, 4, 6 or 8 fibres; the Serai sizes, the stall
threshold and the slice counts, requested and in use, stay legal; and core-mask entry 0 is all ones (R228, R299, R367). -/
structure Kept (s : Machine.State) : Prop where
  memory : Memory.wf s.mem = true
  fibres : ∀ t ∈ s.trunks.toList, t.fibres ∈ [0, 4, 6, 8]
  serai : ∀ v ∈ s.serai.toList, v.toNat ≤ 16
  stall : 98304 ≤ s.stallthr.toNat
  asked : sliceCount s.llcreq
  used : sliceCount s.llcp
  coming : ∀ n, (∃ r, s.change = some r ∧ r.what = .llcp n) ∨ .llcp n ∈ s.changeHeld → sliceCount n
  mask : s.masks[0] = BitVec.allOnes 384

end Sys2Proof
end

