-- ==== Sys2Proof/Laws/Retire.lean ====
section
/-! SUPPORT. What the retirement of a convoy of one word leaves, said once for every instruction that completes at once. -/

namespace Sys2Proof.Laws

open Sys2Proof.Machine

/-- No held write waits for its retirement: accepting those that do changes nothing. -/
theorem release_now (s : State) (h : ∀ w ∈ s.hart.held, w.now = false) : (s.release fun w => w.now) = s := by
  have h1 : (s.hart.held.any fun w => w.now) = false := by
    rw [List.any_eq_false]
    intro w hw
    simp [h w hw]
  simp only [State.release, h1, Bool.not_false, if_true]

/-- A convoy of one word that leaves nothing for its retirement but flags, hotness additions and writes that retire with it. -/
structure Plain (c : Convoy) : Prop where
  len : c.len = 1
  pend : ∀ w ∈ c.pend, w.now = false
  tiles : c.tiles = []
  vers : c.vers = []
  samples : c.samples = []
  pubs : c.pubs = []
  after : c.after = none
  cont : c.cont = none
  final : c.final = none

theorem plain_fresh (b : Bool) : Plain { Convoy.fresh with commit := b } :=
  ⟨rfl, by simp [Convoy.fresh], rfl, rfl, rfl, rfl, rfl, rfl, rfl⟩

/-- A convoy that may be marked as a commit point and is fresh otherwise, with what is asked of it. -/
theorem ready_conv {s : State} (hs : Ready s) (P : Convoy → Prop) (h : ∀ b, P { Convoy.fresh with commit := b }) : P s.conv := by
  have := h s.conv.commit
  rwa [← hs.conv] at this

/-- The convoy of one word that a ready hart is about to execute has not begun, and is to run whole. -/
theorem ready_len {s : State} (hs : Ready s) : s.conv.len = 1 := ready_conv hs (fun c => c.len = 1) fun _ => rfl

theorem ready_only {s : State} (hs : Ready s) : s.conv.only = none := ready_conv hs (fun c => c.only = none) fun _ => rfl

theorem ready_npc {s : State} (hs : Ready s) : s.conv.npc = none := ready_conv hs (fun c => c.npc = none) fun _ => rfl

theorem ready_plain {s : State} (hs : Ready s) : Plain s.conv := ready_conv hs Plain plain_fresh

/-- Raised flags leave a plain convoy plain. -/
theorem Plain.flagged {c : Convoy} (h : Plain c) (fx : BitVec 7) : Plain { c with fx := fx } :=
  ⟨h.len, h.pend, h.tiles, h.vers, h.samples, h.pubs, h.after, h.cont, h.final⟩

/-- The retirement of a plain convoy. -/
theorem retire_plain (s t : State) (hs : Ready s) (hc : Plain t.conv) (hrew : t.hart.rewEn = false)
    (hheld : ∀ w ∈ t.hart.held, w.now = false) (hres : t.hart.resume = none) :
    t.retire s.hart =
      { t with
        hart := { leave s.hart t.hart (t.conv.npc.getD (t.hart.pc + 4)) t.conv.fx with held := t.hart.held ++ t.conv.pend }
        conv := Convoy.fresh
        hotPend := t.hotPend ++ t.conv.hot } := by
  obtain ⟨c1, c2, c3, c4, c5, c6, c7, c8, c9⟩ := hc
  have hq : t.hart.resume.any (fun r => !r.soft) = false := by rw [hres]; rfl
  have hw : (Hart.keepWrites s.hart (Hart.skipDone s.hart (t.hart.retired t.conv (t.conv.npc.getD (t.hart.pc + 4)))) t.conv) =
      { leave s.hart t.hart (t.conv.npc.getD (t.hart.pc + 4)) t.conv.fx with held := t.hart.held ++ t.conv.pend } := by
    have hsr := hs.straight
    unfold Hart.keepWrites Hart.skipDone Hart.retired leave
    simp only [c3, c4, versionBounds, List.foldl_nil, hq, c8, c9, Option.getD_none, Bool.false_eq_true, if_false]
    by_cases hp : s.hart.priv = .u ∧ s.hart.tip = false
    · simp [hp.1, hp.2, hrew, hsr]
    · have : (s.hart.priv == .u && !s.hart.tip) = false := by
        cases h1 : s.hart.priv <;> cases h2 : s.hart.tip <;> simp_all
      simp [this, hp, hrew, hsr]
  unfold State.retire
  simp only [c1, c7, hs.unstepped, Nat.mul_one]
  rw [show (BitVec.ofNat 64 4 : Word) = 4 from rfl, hw]
  rw [if_neg (by simp [leave])]
  simp only [Bool.false_eq_true, if_false]
  unfold State.retireLater
  simp only [c5, c6, mergeSamples, List.map_nil, List.append_nil]
  refine release_now _ fun w hw => ?_
  rcases List.mem_append.1 hw with h | h
  · exact hheld w h
  · exact c2 w h

/-- A word that answers a state completes with it. -/
theorem word_ok (s t : State) (f : State → Res) (hs : Ready s) (hf : f s = .ok t) (hc : Plain t.conv)
    (hrew : t.hart.rewEn = false) (hheld : ∀ w ∈ t.hart.held, w.now = false) (hres : t.hart.resume = none) :
    s.word f = .next { t with
      hart := { leave s.hart t.hart (t.conv.npc.getD (t.hart.pc + 4)) t.conv.fx with held := t.hart.held ++ t.conv.pend }
      conv := Convoy.fresh
      hotPend := t.hotPend ++ t.conv.hot } := by
  unfold State.word
  rw [if_neg (by simp [State.checksFirst, hs.straight]), hf]
  show Host.Outcome.next (if t.conv.len = 1 then t.retire s.hart else t) = _
  rw [if_pos hc.len, retire_plain s t hs hc hrew hheld hres]

/-- A word that answers a state in which, besides the effects of the word, the hart stands as it did: it completes with it. -/
theorem word_done (s t : State) (f : State → Res) (hs : Ready s) (hf : f s = .ok t) (hc : Plain t.conv) (hn : t.conv.npc = none)
    (h0 : t.hart.pc = s.hart.pc) (h1 : t.hart.rewEn = s.hart.rewEn) (h2 : t.hart.held = s.hart.held)
    (h3 : t.hart.resume = s.hart.resume) : s.word f = completes s t := by
  rw [word_ok s t f hs hf hc (by rw [h1, hs.straight]) (by rw [h2]; exact hs.quiet) (by rw [h3, hs.whole])]
  simp only [completes, hn, Option.getD_none, h0, leave]

/-- A word that only changes registers of the hart. -/
theorem word_hart (s : State) (f : State → Res) (h : Hart) (hs : Ready s) (hf : f s = .ok { s with hart := h })
    (h0 : h.pc = s.hart.pc) (h1 : h.rewEn = s.hart.rewEn) (h2 : h.held = s.hart.held) (h3 : h.resume = s.hart.resume) : s.word f = completes s { s with hart := h } :=
  word_done s _ f hs hf (show Plain s.conv from ready_plain hs) (show s.conv.npc = none from ready_npc hs)
    h0 h1 h2 h3

/-- A word that writes one scalar register and does nothing else (R114). -/
theorem result_ok (s : State) (d : BitVec 5) (v : State → Word) (hs : Ready s) :
    s.result d v = completes s (s.setX d (v s)) :=
  word_hart s _ (s.hart.setReg d (v s)) hs rfl (by simp) (by simp) (by simp) (by simp)

/-- A word that raises a cause. -/
theorem word_trap (s : State) (f : State → Res) (t : Trap) (hs : Ready s) (hf : f s = .trap t) : s.word f = traps s t := by
  unfold State.word
  rw [if_neg (by simp [State.checksFirst, hs.straight]), hf]
  simp [State.finish, State.raise, traps, ready_len hs, ready_only hs]

/-- A word that waits. -/
theorem word_wait (s : State) (f : State → Res) (w : Why) (hs : Ready s) (hf : f s = .wait w) : s.word f = waits s w := by
  unfold State.word
  rw [if_neg (by simp [State.checksFirst, hs.straight]), hf]
  simp [State.finish, State.waitOn, waits, ready_len hs]

end Sys2Proof.Laws
end

