-- ==== Sys2Proof/Laws/Lanes.lean ====
section
/-! SUPPORT. What the writing of element-wise results can change: vector registers, side-arrays, predicates and raised flags. -/

namespace Sys2Proof.Laws

open Sys2Proof.Machine

/-- A state that differs from another at most in vector registers, side-arrays and predicates of the current hart and in the
flags that its convoy raised. -/
def VectorOnly (s t : State) : Prop :=
  ∃ v side p fx, t = { s with hart := { s.hart with v := v, side := side, p := p }, conv := { s.conv with fx := fx } }

theorem VectorOnly.refl (s : State) : VectorOnly s s := ⟨s.hart.v, s.hart.side, s.hart.p, s.conv.fx, rfl⟩

theorem VectorOnly.trans {s t u : State} (h : VectorOnly s t) (k : VectorOnly t u) : VectorOnly s u := by
  obtain ⟨v, d, p, fx, rfl⟩ := h
  obtain ⟨v', d', p', fx', rfl⟩ := k
  exact ⟨v', d', p', fx', rfl⟩

theorem VectorOnly.foldl {α : Type} (l : List α) (f : State → α → State) (h : ∀ s a, VectorOnly s (f s a)) (s : State) :
    VectorOnly s (l.foldl f s) := by
  induction l generalizing s with
  | nil => exact VectorOnly.refl s
  | cons a r ih => exact (h s a).trans (ih (f s a))

theorem VectorOnly.setElem (s : State) (sew v e x : Nat) : VectorOnly s { s with hart := s.hart.setElem sew v e x } :=
  ⟨(s.hart.setElem sew v e x).v, s.hart.side, s.hart.p, s.conv.fx, rfl⟩

theorem VectorOnly.setEntry (s : State) (sew v e x : Nat) : VectorOnly s { s with hart := s.hart.setEntry sew v e x } :=
  ⟨s.hart.v, (s.hart.setEntry sew v e x).side, s.hart.p, s.conv.fx, rfl⟩

theorem VectorOnly.setPred (s : State) (p : Nat) (x : Pred) : VectorOnly s { s with hart := s.hart.setPred p x } := by
  refine ⟨s.hart.v, s.hart.side, (s.hart.setPred p x).p, s.conv.fx, ?_⟩
  unfold Hart.setPred
  split <;> rfl

theorem VectorOnly.flag (s : State) (fx : BitVec 7) : VectorOnly s (s.flag fx) :=
  ⟨s.hart.v, s.hart.side, s.hart.p, s.conv.fx ||| fx, rfl⟩

/-- Many elements written into the hart. -/
theorem VectorOnly.elems {α : Type} (l : List α) (g : Hart → α → Hart)
    (h : ∀ (s : State) a, VectorOnly s { s with hart := g s.hart a }) (s : State) :
    VectorOnly s { s with hart := l.foldl g s.hart } := by
  induction l generalizing s with
  | nil => exact VectorOnly.refl s
  | cons a r ih => exact (h s a).trans (ih { s with hart := g s.hart a })

theorem VectorOnly.putElems (s : State) (sew vd : Nat) (pm : BitVec 4) (f : Nat → Nat × BitVec 7) :
    VectorOnly s (s.putElems sew vd pm f) := by
  unfold State.putElems
  apply VectorOnly.foldl
  intro t i
  dsimp only
  split
  · exact (VectorOnly.setElem t sew vd i (f i).1).trans (VectorOnly.flag _ _)
  · split
    · exact VectorOnly.setElem t sew vd i 0
    · exact VectorOnly.refl t

/-- Elements written, then an entry, then flags. -/
theorem VectorOnly.block (t : State) (l : List Nat) (vd b e : Nat) (c : Nat → Nat) (fx : BitVec 7) :
    VectorOnly t (({ t with hart := (l.foldl (fun h i => h.setElem 8 vd i (c i)) t.hart).setEntry 8 vd b e } : State).flag fx) := by
  have h1 := VectorOnly.elems l (fun h i => h.setElem 8 vd i (c i)) (fun s a => VectorOnly.setElem s _ _ _ _) t
  have h2 := VectorOnly.setEntry { t with hart := l.foldl (fun h i => h.setElem 8 vd i (c i)) t.hart } 8 vd b e
  exact (h1.trans h2).trans (VectorOnly.flag _ fx)

theorem VectorOnly.putBlock (s : State) (fd : Fmt) (rm : Rm) (vd : Nat) (pm : BitVec 4) (f : Nat → Val) (t : State) (b : Nat) :
    VectorOnly t (s.putBlock fd rm vd pm f t b) := by
  unfold State.putBlock
  dsimp only
  split
  · exact VectorOnly.refl t
  · exact VectorOnly.block t _ vd b _ _ _

theorem VectorOnly.putVals (s : State) (fd : Fmt) (rm : Rm) (sat : Bool) (vd : Nat) (pm : BitVec 4) (f : Nat → Val) :
    VectorOnly s (s.putVals fd rm sat vd pm f) := by
  unfold State.putVals
  split
  · exact VectorOnly.foldl _ _ (fun t b => VectorOnly.putBlock s fd rm vd pm f t b) s
  · exact VectorOnly.putElems _ _ _ _ _

theorem VectorOnly.putMask (s : State) (pd : Nat) (pm : BitVec 4) (f : Nat → Bool) : VectorOnly s (s.putMask pd pm f) :=
  VectorOnly.setPred s pd _

/-- A word that only writes vector state completes. -/
theorem word_vector (s t : State) (f : State → Res) (hs : Ready s) (hf : f s = .ok t) (h : VectorOnly s t) :
    s.word f = completes s t := by
  obtain ⟨v, d, p, fx, rfl⟩ := h
  have hp : Plain s.conv := ready_plain hs
  have hn : s.conv.npc = none := ready_npc hs
  exact word_done s _ f hs hf (hp.flagged fx) hn rfl rfl rfl rfl

/-- A word whose register groups fit. -/
theorem guard_groups (s : State) (vs : List (BitVec 5)) (r : Res) (h : GroupsFit s vs) : guard (s.groups vs) r = r := by
  have : (vs.all fun v => v.toNat % lmulOf s.hart.vtype == 0) = true := by
    rw [List.all_eq_true]
    intro v hv
    simp [h v hv]
  simp [State.groups, Machine.guard, this]

/-- The formats of an integer form. -/
theorem intFormats_ok (s : State) (fdw : BitVec 3) (f : Formats) (k : Formats → Res) (h : IntFormats s fdw f) :
    s.intFormats fdw k = k f := by
  unfold IntFormats at h
  unfold State.intFormats State.formats
  split at h
  · rename_i h0
    subst h
    have : (Fmt.nativeInt s.hart.sew).isInt = true := by unfold Fmt.nativeInt; repeat' split <;> rfl
    simp [h0, this]
  · rename_i h0
    obtain ⟨d, hd, rfl, hk⟩ := h
    have hall : ([d.fa, d.fb, d.fd].all fun f => f.isInt && s.hart.fits f) = true := by
      rw [List.all_eq_true]
      intro f hf
      have := hk f hf
      have hb : f.isBx = false := by
        cases f <;> first | rfl | (exact absurd this.1 (by decide))
      simp [Hart.fits, this.1, this.2, hb]
    simp only [h0, if_false, hd, hall, if_true]

/-- The formats of a floating form. -/
theorem fpFormats_ok (s : State) (u : FpUse) (fdw : BitVec 3) (f : Formats) (k : Formats → Res) (h : FpFormats s u fdw f) :
    s.fpFormats u fdw k = k f := by
  unfold FpFormats at h
  unfold State.fpFormats State.formats
  split at h
  · rename_i h0
    obtain ⟨hu, n, hn, rfl⟩ := h
    have : n.isInt = false := by
      unfold Fmt.nativeFloat at hn
      revert hn
      repeat' split
      all_goals (intro hn; first | (cases hn; rfl) | cases hn)
    simp [h0, hu, hn, this]
  · rename_i h0
    obtain ⟨d, hd, rfl, hk⟩ := h
    simp only [h0, if_false, hd, hk, if_true]

end Sys2Proof.Laws
end

