-- ==== Sys2Proof/Laws/Words.lean ====
section
/-! SUPPORT. Running a word does what `exec` does with the instruction that the decoder reads from it. -/

namespace Sys2Proof.Laws

open Sys2Proof.Machine

/-- What running a word does, given the row that the decoder finds for it. -/
def RunsAs (s : State) (r : Out) : Option Instr → Prop
  | some i => r = if i.wf then exec i s else s.badWord
  | none => r = s.badWord

theorem runMaj1_as (w : BitVec 32) (s : State) : RunsAs s (runMaj1 w s) (decodeMaj1 w) := by
  unfold runMaj1 decodeMaj1
  generalize (w.extractLsb' 0 11).toNat = n0
  split <;> first | exact (rfl : _ = _) | (split <;> first | exact (rfl : _ = _) | contradiction)

theorem runMaj2_as (w : BitVec 32) (s : State) : RunsAs s (runMaj2 w s) (decodeMaj2 w) := by
  unfold runMaj2 decodeMaj2
  generalize (w.extractLsb' 13 3).toNat = n0
  generalize (w.extractLsb' 6 2).toNat = n1
  split <;> first | exact (rfl : _ = _) | (split <;> first | exact (rfl : _ = _) | contradiction | (split <;> first | exact (rfl : _ = _) | contradiction | (split <;> first | exact (rfl : _ = _) | contradiction)))

theorem runMaj3_as (w : BitVec 32) (s : State) : RunsAs s (runMaj3 w s) (decodeMaj3 w) := by
  unfold runMaj3 decodeMaj3
  generalize (w.extractLsb' 20 1).toNat = n0
  split <;> first | exact (rfl : _ = _) | (split <;> first | exact (rfl : _ = _) | contradiction)

theorem runMaj4_as (w : BitVec 32) (s : State) : RunsAs s (runMaj4 w s) (decodeMaj4 w) := by
  unfold runMaj4 decodeMaj4
  exact (rfl : _ = _)

theorem runMaj5_as (w : BitVec 32) (s : State) : RunsAs s (runMaj5 w s) (decodeMaj5 w) := by
  unfold runMaj5 decodeMaj5
  generalize (w.extractLsb' 13 3).toNat = n0
  split <;> first | exact (rfl : _ = _) | (split <;> first | exact (rfl : _ = _) | contradiction)

theorem runMaj6_as (w : BitVec 32) (s : State) : RunsAs s (runMaj6 w s) (decodeMaj6 w) := by
  unfold runMaj6 decodeMaj6
  exact (rfl : _ = _)

theorem runMaj7_as (w : BitVec 32) (s : State) : RunsAs s (runMaj7 w s) (decodeMaj7 w) := by
  unfold runMaj7 decodeMaj7
  generalize (w.extractLsb' 13 3).toNat = n0
  split <;> first | exact (rfl : _ = _) | (split <;> first | exact (rfl : _ = _) | contradiction)

theorem runMaj8_as (w : BitVec 32) (s : State) : RunsAs s (runMaj8 w s) (decodeMaj8 w) := by
  unfold runMaj8 decodeMaj8
  generalize (w.extractLsb' 13 3).toNat = n0
  split <;> first | exact (rfl : _ = _) | (split <;> first | exact (rfl : _ = _) | contradiction)

theorem runMaj9_as (w : BitVec 32) (s : State) : RunsAs s (runMaj9 w s) (decodeMaj9 w) := by
  unfold runMaj9 decodeMaj9
  generalize (w.extractLsb' 13 3).toNat = n0
  split <;> first | exact (rfl : _ = _) | (split <;> first | exact (rfl : _ = _) | contradiction)

theorem runMaj10_as (w : BitVec 32) (s : State) : RunsAs s (runMaj10 w s) (decodeMaj10 w) := by
  unfold runMaj10 decodeMaj10
  generalize (w.extractLsb' 7 4).toNat = n0
  split <;> first | exact (rfl : _ = _) | (split <;> first | exact (rfl : _ = _) | contradiction)

theorem runMaj11_as (w : BitVec 32) (s : State) : RunsAs s (runMaj11 w s) (decodeMaj11 w) := by
  unfold runMaj11 decodeMaj11
  generalize (w.extractLsb' 13 3).toNat = n0
  split <;> first | exact (rfl : _ = _) | (split <;> first | exact (rfl : _ = _) | contradiction)

theorem runMaj12_as (w : BitVec 32) (s : State) : RunsAs s (runMaj12 w s) (decodeMaj12 w) := by
  unfold runMaj12 decodeMaj12
  generalize (w.extractLsb' 13 3).toNat = n0
  split <;> first | exact (rfl : _ = _) | (split <;> first | exact (rfl : _ = _) | contradiction)

theorem runMaj13_as (w : BitVec 32) (s : State) : RunsAs s (runMaj13 w s) (decodeMaj13 w) := by
  unfold runMaj13 decodeMaj13
  generalize (w.extractLsb' 0 4).toNat = n0
  split <;> first | exact (rfl : _ = _) | (split <;> first | exact (rfl : _ = _) | contradiction)

theorem runMaj14_as (w : BitVec 32) (s : State) : RunsAs s (runMaj14 w s) (decodeMaj14 w) := by
  unfold runMaj14 decodeMaj14
  generalize (w.extractLsb' 0 4).toNat = n0
  split <;> first | exact (rfl : _ = _) | (split <;> first | exact (rfl : _ = _) | contradiction)

theorem runMaj15_as (w : BitVec 32) (s : State) : RunsAs s (runMaj15 w s) (decodeMaj15 w) := by
  unfold runMaj15 decodeMaj15
  generalize (w.extractLsb' 0 4).toNat = n0
  split <;> first | exact (rfl : _ = _) | (split <;> first | exact (rfl : _ = _) | contradiction)

theorem runMaj16_as (w : BitVec 32) (s : State) : RunsAs s (runMaj16 w s) (decodeMaj16 w) := by
  unfold runMaj16 decodeMaj16
  generalize (w.extractLsb' 0 4).toNat = n0
  split <;> first | exact (rfl : _ = _) | (split <;> first | exact (rfl : _ = _) | contradiction)

theorem runMaj17_as (w : BitVec 32) (s : State) : RunsAs s (runMaj17 w s) (decodeMaj17 w) := by
  unfold runMaj17 decodeMaj17
  generalize (w.extractLsb' 0 4).toNat = n0
  split <;> first | exact (rfl : _ = _) | (split <;> first | exact (rfl : _ = _) | contradiction)

theorem runMaj18_as (w : BitVec 32) (s : State) : RunsAs s (runMaj18 w s) (decodeMaj18 w) := by
  unfold runMaj18 decodeMaj18
  generalize (w.extractLsb' 0 7).toNat = n0
  split <;> first | exact (rfl : _ = _) | (split <;> first | exact (rfl : _ = _) | contradiction)

theorem runMaj19_as (w : BitVec 32) (s : State) : RunsAs s (runMaj19 w s) (decodeMaj19 w) := by
  unfold runMaj19 decodeMaj19
  generalize (w.extractLsb' 0 8).toNat = n0
  split <;> first | exact (rfl : _ = _) | (split <;> first | exact (rfl : _ = _) | contradiction)

theorem runMaj20_as (w : BitVec 32) (s : State) : RunsAs s (runMaj20 w s) (decodeMaj20 w) := by
  unfold runMaj20 decodeMaj20
  generalize (w.extractLsb' 3 2).toNat = n0
  split <;> first | exact (rfl : _ = _) | (split <;> first | exact (rfl : _ = _) | contradiction)

theorem runMaj21_as (w : BitVec 32) (s : State) : RunsAs s (runMaj21 w s) (decodeMaj21 w) := by
  unfold runMaj21 decodeMaj21
  generalize (w.extractLsb' 3 2).toNat = n0
  split <;> first | exact (rfl : _ = _) | (split <;> first | exact (rfl : _ = _) | contradiction)

theorem runMaj22_as (w : BitVec 32) (s : State) : RunsAs s (runMaj22 w s) (decodeMaj22 w) := by
  unfold runMaj22 decodeMaj22
  exact (rfl : _ = _)

theorem runMaj23_as (w : BitVec 32) (s : State) : RunsAs s (runMaj23 w s) (decodeMaj23 w) := by
  unfold runMaj23 decodeMaj23
  split <;> simp_all [RunsAs, Instr.wf, exec]

theorem runMaj24_as (w : BitVec 32) (s : State) : RunsAs s (runMaj24 w s) (decodeMaj24 w) := by
  unfold runMaj24 decodeMaj24
  generalize (w.extractLsb' 0 3).toNat = n0
  split <;> first | exact (rfl : _ = _) | (split <;> first | exact (rfl : _ = _) | contradiction)

theorem runMaj25_as (w : BitVec 32) (s : State) : RunsAs s (runMaj25 w s) (decodeMaj25 w) := by
  unfold runMaj25 decodeMaj25
  generalize (w.extractLsb' 0 3).toNat = n0
  split <;> first | exact (rfl : _ = _) | (split <;> first | exact (rfl : _ = _) | contradiction)

theorem runMaj26_as (w : BitVec 32) (s : State) : RunsAs s (runMaj26 w s) (decodeMaj26 w) := by
  unfold runMaj26 decodeMaj26
  generalize (w.extractLsb' 0 4).toNat = n0
  split <;> first | exact (rfl : _ = _) | (split <;> first | exact (rfl : _ = _) | contradiction)

theorem runMaj27_as (w : BitVec 32) (s : State) : RunsAs s (runMaj27 w s) (decodeMaj27 w) := by
  unfold runMaj27 decodeMaj27
  split <;> simp_all [RunsAs, Instr.wf, exec]

theorem runMaj28_as (w : BitVec 32) (s : State) : RunsAs s (runMaj28 w s) (decodeMaj28 w) := by
  unfold runMaj28 decodeMaj28
  generalize (w.extractLsb' 0 4).toNat = n0
  split <;> first | exact (rfl : _ = _) | (split <;> first | exact (rfl : _ = _) | contradiction)

theorem runMaj29_as (w : BitVec 32) (s : State) : RunsAs s (runMaj29 w s) (decodeMaj29 w) := by
  unfold runMaj29 decodeMaj29
  generalize (w.extractLsb' 0 11).toNat = n0
  split <;> first | exact (rfl : _ = _) | (split <;> first | exact (rfl : _ = _) | contradiction)

theorem runMaj30_as (w : BitVec 32) (s : State) : RunsAs s (runMaj30 w s) (decodeMaj30 w) := by
  unfold runMaj30 decodeMaj30
  generalize (w.extractLsb' 13 3).toNat = n0
  generalize (w.extractLsb' 0 8).toNat = n1
  split <;> first | exact (rfl : _ = _) | (split <;> first | exact (rfl : _ = _) | contradiction | (split <;> first | exact (rfl : _ = _) | contradiction | (split <;> first | exact (rfl : _ = _) | contradiction)))

theorem runMaj31_as (w : BitVec 32) (s : State) : RunsAs s (runMaj31 w s) (decodeMaj31 w) := by
  unfold runMaj31 decodeMaj31
  generalize (w.extractLsb' 0 3).toNat = n0
  split <;> first | exact (rfl : _ = _) | (split <;> first | exact (rfl : _ = _) | contradiction)

/-- The word's row, found by its major opcode. -/
theorem runWord_as (w : BitVec 32) (s : State) : RunsAs s (runWord w s) (decodeRow w) := by
  unfold runWord decodeRow
  generalize (w.extractLsb' 26 5).toNat = n
  split
  · exact runMaj1_as w s
  · exact runMaj2_as w s
  · exact runMaj3_as w s
  · exact runMaj4_as w s
  · exact runMaj5_as w s
  · exact runMaj6_as w s
  · exact runMaj7_as w s
  · exact runMaj8_as w s
  · exact runMaj9_as w s
  · exact runMaj10_as w s
  · exact runMaj11_as w s
  · exact runMaj12_as w s
  · exact runMaj13_as w s
  · exact runMaj14_as w s
  · exact runMaj15_as w s
  · exact runMaj16_as w s
  · exact runMaj17_as w s
  · exact runMaj18_as w s
  · exact runMaj19_as w s
  · exact runMaj20_as w s
  · exact runMaj21_as w s
  · exact runMaj22_as w s
  · exact runMaj23_as w s
  · exact runMaj24_as w s
  · exact runMaj25_as w s
  · exact runMaj26_as w s
  · exact runMaj27_as w s
  · exact runMaj28_as w s
  · exact runMaj29_as w s
  · exact runMaj30_as w s
  · exact runMaj31_as w s
  · first | exact (rfl : _ = _) | (split <;> first | exact (rfl : _ = _) | contradiction)

/-- A word that decodes runs as its instruction. -/
theorem runWord_ok (w : BitVec 32) (s : State) (i : Instr) (h : decode w = .ok i) : runWord w s = exec i s := by
  have k := runWord_as w s
  unfold decode at h
  split at h
  · cases h
  · split at h
    · cases h
    · rename_i j hj
      rw [hj] at k
      split at h
      · cases h
        simpa [RunsAs, *] using k
      · cases h

/-- A word that decodes to nothing is an illegal instruction. -/
theorem runWord_error (w : BitVec 32) (s : State) (e : Illegal) (h : decode w = .error e) : runWord w s = s.badWord := by
  have k := runWord_as w s
  unfold decode at h
  split at h
  · rename_i hz
    unfold runWord
    simp [hz]
  · split at h
    · rename_i hj
      simpa [hj, RunsAs] using k
    · rename_i j hj
      split at h
      · cases h
      · simpa [hj, RunsAs, *] using k

end Sys2Proof.Laws
end

