-- ==== Sys2Proof/Certificates/Slice0/Obligations.lean ====
section
/-! DEFINITION. The statements for the provers. Each names in its docstring what it says of the machine. -/

open Sys2Proof
open Sys2Proof.Machine hiding State PSet

/-- The words that the encoding chapter writes out, one of each format and a convoy of three, decode to the instructions that
they stand for, and the all-zero word is illegal. -/
def Obligations.DecodeWords : Prop :=
  decode 0x86508800 = .ok (.add 18 16 17) ∧
  decode 0x8A101FFD = .ok (.addi 16 16 (-3)) ∧
  decode 0x8A31C085 = .ok (.srai 17 17 5) ∧
  decode 0x8E112345 = .ok (.movh 16 0x12345) ∧
  decode 0x98200028 = .ok (.jal 1 40) ∧
  decode 0x96043FFA = .ok (.bne 16 4 (-6)) ∧
  decode 0xA227C403 = .ok (.ld 17 7 0 1 3) ∧
  decode 0xAA478C0E = .ok (.aswap 18 7 17 0 0 0 1 3) ∧
  decode 0xAC002B00 = .ok (.fenceSv 0b0101 2) ∧
  decode 0x908F000B = .ok (.smb 4 3 6 0 0 5 1) ∧
  decode 0xB204180A = .ok (.vsetvli 16 4 0x180A) ∧
  decode 0xC0411994 = .ok (.vfmac 2 1 3 3 1) ∧
  decode 0xB8912880 = .ok (.vaddVX 4 17 5 1 0) ∧
  decode 0xBCC722BB = .ok (.vmixi 6 7 2 0x2B) ∧
  decode 0xD10C922D = .ok (.vlds 8 12 18 4 1 1 1) ∧
  decode 0xD93352D4 = .ok (.vgat 9 19 10 5 2 2 1 0 0) ∧
  decode 0xE1686348 = .ok (.vaadd 11 8 12 6 1 0 1) ∧
  decode 0xEA0C68A0 = .ok (.mma 16 12 13 0 0 1 2) ∧
  decode 0xCE80E103 = .ok (.pandn 40 3 33) ∧
  decode 0x502C0000 = .ok (.vld 1 12 0 0 0 0) ∧
  decode 0x40411814 = .ok (.vfmac 2 1 3 0 1) ∧
  decode 0xD44D0000 = .ok (.vst 2 13 0 0 0 0) ∧
  decode 0 = .error .majZero

/-- Decoding the word of a well-formed instruction gives the instruction back, whichever way its E bit stands. -/
def Obligations.DecodeEncode : Prop :=
  ∀ (i : Instr) (last : Bool) (w : BitVec 32), i.wf = true → encode last i = some w → decode w = .ok i ∧ isLast w = last

/-- A step runs the instruction that it decodes: where the word at the pc of the current hart, the only one of its convoy,
decodes to an instruction, the turn of the hart is exec of that instruction, in a convoy that is marked as a commit point where
its class makes it one (R383), and then what is on its way arrives, the next hart becomes the current one and the cycle counter
goes on; a pass that a matrix instruction leaves keeps the word; a word that does not decode is an illegal instruction; and a
turn of the agenda runs the hart or the device step that it names. The order of the turns is the model's choice (log entry 3).
-/
def Obligations.StepRunsDecoded : Prop :=
  ∀ (s : Machine.State) (w : BitVec 32), Ready s → Issues s w →
    let b := s.beginConvoy [w]
    Ready b ∧ b = { s with conv := { s.conv with commit := commitWord w } } ∧
    (∀ i t, decode w = .ok i → Machine.exec i b = .next t →
      s.turn = (({ t with conv := Convoy.fresh } : Machine.State).nameWords [w]).standing) ∧
    (∀ e t, decode w = .error e → traps b s.illegal = .next t →
      s.turn = (({ t with conv := Convoy.fresh } : Machine.State).nameWords [w]).standing) ∧
    (s.agenda = [] → Machine.step s = .next (s.turn.settle.rotate).tick) ∧
    (∀ r, let u : Machine.State := { s with agenda := r }
      Machine.step { s with agenda := .run s.hart.id :: r } = .next u.turn.tick ∧
      ∀ (i : Instr), Machine.step { s with agenda := .event i :: r } =
        if i.bits.isSome then .fault .agendaWord
        else match Machine.exec i u with
          | .next t => .next t.tick
          | .fault f => .fault f
          | .refused x => .refused x)

/-- The word that a hart fetches: the four bytes at the physical address that its pc translates to for fetching, as its core
sees them, where no line of its instruction cache holds them and their line is not awaited from the drawer; else the hart waits
for the trunk of the line. A page that is being moved holds the fetch up, and a page that does not translate is the trap of the
fetch. A line of the instruction cache that holds them gives them; it is filled by a turn of the agenda alone (log entry 9). -/
def Obligations.InstructionFetch : Prop :=
  ∀ (s : Machine.State) (va : Word),
    (∀ pa leaf, s.translate s.hart.core s.hart.ptbase s.hart.priv .fetch false va = .pa pa leaf →
      (∀ l ∈ s.l1i, l.core = s.hart.core → l.pa ≠ pa / 64 * 64) →
      (s.unserved false pa = false → s.fetch va = .word (BitVec.ofNat 32 (valueAt s .scalar pa 4))) ∧
      (s.unserved false pa = true → s.fetch va = .wait (.trunk [lineOf pa] false))) ∧
    (∀ pa leaf, s.translate s.hart.core s.hart.ptbase s.hart.priv .fetch false va = .pa pa leaf →
      ∀ l, (s.l1i.find? fun k => k.core == s.hart.core && k.pa == pa / 64 * 64) = some l →
        s.fetch va = .word (BitVec.ofNat 32 (leNat ((l.bytes.drop (pa % 64)).take 4)))) ∧
    (s.translate s.hart.core s.hart.ptbase s.hart.priv .fetch false va = .held → s.fetch va = .wait (.migration va)) ∧
    (∀ code kind, s.translate s.hart.core s.hart.ptbase s.hart.priv .fetch false va = .fault code kind →
      s.fetch va = .trap ⟨if code = 0x06 then 0x05 else code, va, [⟨pageOf va, kind⟩], 0, false, false⟩)

/-- After module reset the module is in Boot with no hart and no gang, and its registers read their reset values. -/
def Obligations.ResetState : Prop :=
  let s := Machine.State.reset
  let reg := fun (off : Nat) => (s.regWord off).toNat
  s.mstate = .boot ∧ s.cycle = 0 ∧ s.harts = [] ∧ s.gangs = [] ∧
  (∀ q, q < 64 → ∀ o ∈ [0x00, 0x08, 0x10, 0x18], reg (0x100000 + 0x40 * q + o) = 0) ∧
  (∀ k, k < 6 → reg (0x101000 + 8 * k) = 2 ^ 64 - 1) ∧
  (∀ o ∈ [0x00, 0x08, 0x10], reg (0x200000 + o) = 0) ∧
  (∀ k, k < 8 → reg (0x200040 + 8 * k) = 0) ∧
  (∀ o ∈ [0x00, 0x08, 0x10, 0x18, 0x20], reg (0x300000 + o) = 0) ∧
  (∀ o ∈ [0x00, 0x08, 0x10, 0x18, 0x20, 0x28, 0x48, 0x60, 0x68], reg (0x400000 + o) = 0) ∧
  reg 0x400040 = 131 ∧ reg 0x400050 = 32768 ∧ reg 0x400058 = 131072 ∧
  (∀ x, x < 0x4000 → reg (0x500000 + 8 * x) = 0) ∧
  Kept s

/-- Every step keeps the canonical form of memory and the legal values of the registers that hardware refuses others for. -/
def Obligations.StepKeeps : Prop :=
  ∀ (s t : Machine.State), Kept s → Machine.step s = .next t → Kept t

/-- The word register form: the two-operand and one-operand scalar instructions complete, and rd alone changes. The immediate
forms and the constants complete, and rd alone changes. -/
def Obligations.ScalarResults : Prop :=
  (∀ (s : Machine.State) (d a b : BitVec 5), Ready s →
    let x := s.x a
    let y := s.x b
    let n := (y.toNat % 64)
    let gives := fun (i : Instr) (v : Word) => Machine.exec i s = completes s (s.setX d v)
    gives (.add d a b) (x + y) ∧
    gives (.sub d a b) (x - y) ∧
    gives (.and d a b) (x &&& y) ∧
    gives (.or d a b) (x ||| y) ∧
    gives (.xor d a b) (x ^^^ y) ∧
    gives (.andn d a b) (x &&& ~~~y) ∧
    gives (.orn d a b) (x ||| ~~~y) ∧
    gives (.sll d a b) (BitVec.ofNat 64 (x.toNat * 2 ^ n)) ∧
    gives (.srl d a b) (BitVec.ofNat 64 (x.toNat / 2 ^ n)) ∧
    gives (.sra d a b) (BitVec.ofInt 64 (x.toInt / 2 ^ n)) ∧
    gives (.rotl d a b) (BitVec.ofNat 64 (x.toNat * 2 ^ n) ||| BitVec.ofNat 64 (x.toNat / 2 ^ (64 - n))) ∧
    gives (.rotr d a b) (BitVec.ofNat 64 (x.toNat / 2 ^ n) ||| BitVec.ofNat 64 (x.toNat * 2 ^ (64 - n))) ∧
    gives (.slt d a b) (if x.toInt < y.toInt then 1 else 0) ∧
    gives (.sltu d a b) (if x.toNat < y.toNat then 1 else 0) ∧
    gives (.min d a b) (BitVec.ofInt 64 (min x.toInt y.toInt)) ∧
    gives (.max d a b) (BitVec.ofInt 64 (max x.toInt y.toInt)) ∧
    gives (.minu d a b) (BitVec.ofNat 64 (min x.toNat y.toNat)) ∧
    gives (.maxu d a b) (BitVec.ofNat 64 (max x.toNat y.toNat)) ∧
    gives (.mul d a b) (BitVec.ofNat 64 (x.toNat * y.toNat)) ∧
    gives (.mulh d a b) (BitVec.ofInt 64 (x.toInt * y.toInt / 2 ^ 64)) ∧
    gives (.mulhu d a b) (BitVec.ofNat 64 (x.toNat * y.toNat / 2 ^ 64)) ∧
    gives (.div d a b) (if y = 0 then BitVec.allOnes 64 else BitVec.ofInt 64 (x.toInt.tdiv y.toInt)) ∧
    gives (.divu d a b) (if y = 0 then BitVec.allOnes 64 else BitVec.ofNat 64 (x.toNat / y.toNat)) ∧
    gives (.rem d a b) (if y = 0 then x else BitVec.ofInt 64 (x.toInt.tmod y.toInt)) ∧
    gives (.remu d a b) (if y = 0 then x else BitVec.ofNat 64 (x.toNat % y.toNat)) ∧
    gives (.clz d a) (BitVec.ofNat 64 (if x = 0 then 64 else 63 - x.toNat.log2)) ∧
    gives (.popc d a) (BitVec.ofNat 64 ((List.range 64).countP fun k => x.getLsbD k)) ∧
    gives (.sextb d a) (BitVec.ofInt 64 (x.setWidth 8).toInt) ∧
    gives (.sexth d a) (BitVec.ofInt 64 (x.setWidth 16).toInt) ∧
    gives (.sextw d a) (BitVec.ofInt 64 (x.setWidth 32).toInt) ∧
    gives (.zextw d a) (BitVec.ofNat 64 (x.toNat % 2 ^ 32)) ∧
    (∀ k, k ≤ 64 → (∀ j, j < k → x.getLsbD j = false) → (k < 64 → x.getLsbD k = true) →
      gives (.ctz d a) (BitVec.ofNat 64 k))) ∧
  (∀ (s : Machine.State) (d a : BitVec 5) (i : BitVec 13) (c : BitVec 20) (n : BitVec 6), Ready s →
    let x := s.x a
    let k := BitVec.ofInt 64 i.toInt
    let gives := fun (i : Instr) (v : Word) => Machine.exec i s = completes s (s.setX d v)
    gives (.addi d a i) (x + k) ∧
    gives (.andi d a i) (x &&& k) ∧
    gives (.ori d a i) (x ||| BitVec.ofNat 64 i.toNat) ∧
    gives (.xori d a i) (x ^^^ k) ∧
    gives (.slti d a i) (if x.toInt < i.toInt then 1 else 0) ∧
    gives (.sltiu d a i) (if x.toNat < k.toNat then 1 else 0) ∧
    gives (.muli d a i) (x * k) ∧
    gives (.slli d a n) (BitVec.ofNat 64 (x.toNat * 2 ^ n.toNat)) ∧
    gives (.srli d a n) (BitVec.ofNat 64 (x.toNat / 2 ^ n.toNat)) ∧
    gives (.srai d a n) (BitVec.ofInt 64 (x.toInt / 2 ^ n.toNat)) ∧
    gives (.movi d c) (BitVec.ofInt 64 c.toInt) ∧
    gives (.movh d c) (BitVec.ofInt 64 (c.toInt * 4096)))

/-- A write of a scalar register: the register named reads the value and every other one what it read; x0 reads 0 and a write to
it changes nothing at all. -/
def Obligations.RegisterWrite : Prop :=
  ∀ (s : Machine.State) (d r : BitVec 5) (v : Word),
    (s.setX d v).x r = (if r = 0 then 0 else if r = d then v else s.x r) ∧ s.setX 0 v = s ∧
      (∃ x, s.setX d v = { s with hart := { s.hart with x := x } })

/-- Branches complete at the target where their condition holds and else at the next convoy; nothing else changes. Jumps: jal
always, and jalr to a word-aligned target, write the link and continue at the target; the target of jalr comes from the value of
rs1 before the link is written. A target that is not word-aligned is a misaligned fetch, with rd not written. -/
def Obligations.BranchesAndJumps : Prop :=
  (∀ (s : Machine.State) (a b : BitVec 5) (o : BitVec 13), Ready s →
    let x := s.x a
    let y := s.x b
    let target := s.hart.pc + BitVec.ofInt 64 (4 * o.toInt)
    let goes := fun (i : Instr) (c : Prop) => ∃ pc, (c → pc = target) ∧ (¬c → pc = s.hart.pc + 4) ∧
      Machine.exec i s = .next { s with hart := leave s.hart s.hart pc 0, conv := Convoy.fresh }
    goes (.beq a b o) (x = y) ∧
    goes (.bne a b o) (x ≠ y) ∧
    goes (.blt a b o) (x.toInt < y.toInt) ∧
    goes (.bge a b o) (y.toInt ≤ x.toInt) ∧
    goes (.bltu a b o) (x.toNat < y.toNat) ∧
    goes (.bgeu a b o) (y.toNat ≤ x.toNat)) ∧
  (∀ (s : Machine.State) (d a : BitVec 5) (o : BitVec 21) (i : BitVec 13), Ready s →
    let jumps := fun (i : Instr) (target : Word) =>
      Machine.exec i s = .next { s.setX d (s.hart.pc + 4) with
        hart := leave s.hart (s.setX d (s.hart.pc + 4)).hart target 0
        conv := Convoy.fresh }
    let t := s.x a + BitVec.ofInt 64 i.toInt
    (s.hart.pc.toNat % 4 = 0 → jumps (.jal d o) (s.hart.pc + BitVec.ofInt 64 (4 * o.toInt))) ∧
    (t.toNat % 4 = 0 → jumps (.jalr d a i) t) ∧
    (s.hart.pc.toNat % 4 ≠ 0 → Machine.exec (.jal d o) s =
      traps s (Trap.plain 0x04 (s.hart.pc + BitVec.ofInt 64 (4 * o.toInt)))) ∧
    (t.toNat % 4 ≠ 0 → Machine.exec (.jalr d a i) s = traps s (Trap.plain 0x04 t)))

/-- Vector integer arithmetic of two vector groups: every form completes, each active element of vd receives the value that
Table 3 gives for it, by rule V, rule B or clamped, and nothing but vd and the flags raised changes. Vector integer arithmetic
with a scalar right operand: the left operand is vs2, the right one rs1[SEW-1:0]. -/
def Obligations.VectorIntegerForms : Prop :=
  (∀ (s : Machine.State) (d a b : BitVec 5) (p : BitVec 4) (fdw : BitVec 3) (f : Formats),
    Ready s → GroupsFit s [d, a, b] → IntFormats s fdw f →
    let h := s.hart
    let P := fun (v : Int) => (v % 2 ^ h.sew).toNat
    let U := fun (k : Fmt) (v : Int) => (v % 2 ^ k.width).toNat
    let w := f.fd.width
    let n := fun (b : Int) => U f.fb b % f.fa.width
    let gives := fun (i : Instr) (r : Int → Int → Nat × BitVec 7) =>
      Machine.exec i s = completes s (s.putElems h.sew d.toNat p fun i =>
        r (decInt f.fa (h.elem h.sew a.toNat i)) (decInt f.fb (h.elem h.sew b.toNat i)))
    gives (.vaddVV d a b p fdw) (fun a b => ruleV f.fd f.sat (a + b)) ∧
    gives (.vsubVV d a b p fdw) (fun a b => ruleV f.fd f.sat (a - b)) ∧
    gives (.vsaddVV d a b p fdw) (fun a b => ruleV f.fd true (a + b)) ∧
    gives (.vssubVV d a b p fdw) (fun a b => ruleV f.fd true (a - b)) ∧
    gives (.vmulVV d a b p fdw) (fun a b => ruleV f.fd f.sat (a * b)) ∧
    gives (.vmulhVV d a b p fdw) (fun a b => ruleV f.fd f.sat (a * b / 2 ^ w)) ∧
    gives (.vandVV d a b p fdw) (fun a b => (ruleB f.fd (P a &&& P b), 0)) ∧
    gives (.vorVV d a b p fdw) (fun a b => (ruleB f.fd (P a ||| P b), 0)) ∧
    gives (.vxorVV d a b p fdw) (fun a b => (ruleB f.fd (P a ^^^ P b), 0)) ∧
    gives (.vsllVV d a b p fdw) (fun a b => (ruleB f.fd (P a * 2 ^ n b), 0)) ∧
    gives (.vsrlVV d a b p fdw) (fun a b => (ruleB f.fd (U f.fa a / 2 ^ n b), 0)) ∧
    gives (.vsraVV d a b p fdw) (fun a b => (ruleB f.fd (P (a / 2 ^ n b)), 0)) ∧
    gives (.vminVV d a b p fdw) (fun a b => ruleV f.fd f.sat (min a b)) ∧
    gives (.vmaxVV d a b p fdw) (fun a b => ruleV f.fd f.sat (max a b)) ∧
    gives (.vminuVV d a b p fdw) (fun a b => ruleV f.fd f.sat (min (U f.fa a) (U f.fb b) : Nat)) ∧
    gives (.vmaxuVV d a b p fdw) (fun a b => ruleV f.fd f.sat (max (U f.fa a) (U f.fb b) : Nat))) ∧
  (∀ (s : Machine.State) (d a b : BitVec 5) (p : BitVec 4) (fdw : BitVec 3) (f : Formats),
    Ready s → GroupsFit s [d, b] → IntFormats s fdw f →
    let h := s.hart
    let P := fun (v : Int) => (v % 2 ^ h.sew).toNat
    let U := fun (k : Fmt) (v : Int) => (v % 2 ^ k.width).toNat
    let w := f.fd.width
    let n := fun (b : Int) => U f.fb b % f.fa.width
    let gives := fun (i : Instr) (r : Int → Int → Nat × BitVec 7) =>
      Machine.exec i s = completes s (s.putElems h.sew d.toNat p fun i =>
        r (decInt f.fa (h.elem h.sew b.toNat i)) (decInt f.fb ((s.x a).toNat % 2 ^ h.sew)))
    gives (.vaddVX d a b p fdw) (fun a b => ruleV f.fd f.sat (a + b)) ∧
    gives (.vsubVX d a b p fdw) (fun a b => ruleV f.fd f.sat (a - b)) ∧
    gives (.vsaddVX d a b p fdw) (fun a b => ruleV f.fd true (a + b)) ∧
    gives (.vssubVX d a b p fdw) (fun a b => ruleV f.fd true (a - b)) ∧
    gives (.vmulVX d a b p fdw) (fun a b => ruleV f.fd f.sat (a * b)) ∧
    gives (.vmulhVX d a b p fdw) (fun a b => ruleV f.fd f.sat (a * b / 2 ^ w)) ∧
    gives (.vandVX d a b p fdw) (fun a b => (ruleB f.fd (P a &&& P b), 0)) ∧
    gives (.vorVX d a b p fdw) (fun a b => (ruleB f.fd (P a ||| P b), 0)) ∧
    gives (.vxorVX d a b p fdw) (fun a b => (ruleB f.fd (P a ^^^ P b), 0)) ∧
    gives (.vsllVX d a b p fdw) (fun a b => (ruleB f.fd (P a * 2 ^ n b), 0)) ∧
    gives (.vsrlVX d a b p fdw) (fun a b => (ruleB f.fd (U f.fa a / 2 ^ n b), 0)) ∧
    gives (.vsraVX d a b p fdw) (fun a b => (ruleB f.fd (P (a / 2 ^ n b)), 0)) ∧
    gives (.vminVX d a b p fdw) (fun a b => ruleV f.fd f.sat (min a b)) ∧
    gives (.vmaxVX d a b p fdw) (fun a b => ruleV f.fd f.sat (max a b)) ∧
    gives (.vminuVX d a b p fdw) (fun a b => ruleV f.fd f.sat (min (U f.fa a) (U f.fb b) : Nat)) ∧
    gives (.vmaxuVX d a b p fdw) (fun a b => ruleV f.fd f.sat (max (U f.fa a) (U f.fb b) : Nat)))

/-- Vector integer arithmetic with an immediate, in the signed integer format of width SEW; vmixi needs SEW 32. -/
def Obligations.VectorIntegerVI : Prop :=
  ∀ (s : Machine.State) (d b : BitVec 5) (p : BitVec 4) (i : BitVec 8), Ready s → GroupsFit s [d, b] →
    let h := s.hart
    let k := Fmt.nativeInt h.sew
    let P := fun (v : Int) => (v % 2 ^ h.sew).toNat
    let U := P
    let V := ruleV k false
    let B := fun (x : Nat) => (ruleB k x, (0 : BitVec 7))
    let n := i.toNat % h.sew
    let gives := fun (j : Instr) (r : Int → Nat × BitVec 7) =>
      Machine.exec j s = completes s (s.putElems h.sew d.toNat p fun e => r (decInt k (h.elem h.sew b.toNat e)))
    gives (.vaddi d b p i) (fun a => V (a + i.toInt)) ∧
    gives (.vandi d b p i) (fun a => B (P a &&& P i.toInt)) ∧
    gives (.vori d b p i) (fun a => B (P a ||| P i.toNat)) ∧
    gives (.vxori d b p i) (fun a => B (P a ^^^ P i.toInt)) ∧
    gives (.vslli d b p i) (fun a => B (P a * 2 ^ n)) ∧
    gives (.vsrli d b p i) (fun a => B (U a / 2 ^ n)) ∧
    gives (.vsrai d b p i) (fun a => B (P (a / 2 ^ n))) ∧
    gives (.vrsubi d b p i) (fun a => V (i.toInt - a)) ∧
    gives (.vmini d b p i) (fun a => V (min a i.toInt)) ∧
    gives (.vmaxi d b p i) (fun a => V (max a i.toInt)) ∧
    gives (.vmvi d p i) (fun _ => V i.toInt) ∧
    (h.sew = 32 → gives (.vmixi d b p i) fun a => B (mix (BitVec.ofInt 32 a) (i.setWidth 32)).toNat) ∧
    (h.sew ≠ 32 → Machine.exec (.vmixi d b p i) s = traps s (Trap.plain 0x0A 0))

/-- Vector floating point of two vector groups: every form completes, and each active element of vd receives the exact result of
its operation on the exact values of its operands, rounded once into FD. Vector floating point with a scalar right operand: the
left operand is vs2, the right one rs1[SEW-1:0] under FB. -/
def Obligations.VectorFloatForms : Prop :=
  (∀ (s : Machine.State) (d a b : BitVec 5) (p : BitVec 4) (fdw : BitVec 3) (f : Formats),
    Ready s → GroupsFit s [d, a, b] → FpFormats s .two fdw f →
    let h := s.hart
    let gives := fun (i : Instr) (r : Exact → Exact → Exact → Exact × BitVec 7) =>
      Machine.exec i s = completes s (s.putVals f.fd f.rm f.sat d.toNat p fun i =>
        let y := r (h.value f.fa a.toNat i) (h.value f.fb b.toNat i) (h.value f.fd d.toNat i)
        ⟨y.1, y.2, false⟩)
    gives (.vfadd d a b p fdw) (fun a b _ => opAdd f.rm a b) ∧
    gives (.vfsub d a b p fdw) (fun a b _ => opSub f.rm a b) ∧
    gives (.vfmul d a b p fdw) (fun a b _ => opMul a b) ∧
    gives (.vfdiv d a b p fdw) (fun a b _ => opDiv a b) ∧
    gives (.vfmac d a b p fdw) (fun a b x => opFma f.rm false a b x) ∧
    gives (.vfnmac d a b p fdw) (fun a b x => opFma f.rm true a b x) ∧
    gives (.vfmin d a b p fdw) (fun a b _ => opMinMax false a b) ∧
    gives (.vfmax d a b p fdw) (fun a b _ => opMinMax true a b) ∧
    Machine.exec (.vfsgnj d a b p fdw) s = completes s (s.putVals f.fd f.rm f.sat d.toNat p fun i =>
      let x := h.value f.fa a.toNat i
      if x.isNan then ⟨.nan false, if x.isSig then 0x10 else 0, false⟩ else ⟨x.withSign (h.signOf f.fb b.toNat i), 0, false⟩)) ∧
  (∀ (s : Machine.State) (d a b : BitVec 5) (p : BitVec 4) (fdw : BitVec 3) (f : Formats),
    Ready s → GroupsFit s [d, b] → FpFormats s .twoScalar fdw f →
    let h := s.hart
    let gives := fun (i : Instr) (r : Exact → Exact → Exact → Exact × BitVec 7) =>
      Machine.exec i s = completes s (s.putVals f.fd f.rm f.sat d.toNat p fun i =>
        let y := r (h.value f.fa b.toNat i) (decode1 f.fb ((s.x a).toNat % 2 ^ h.sew)) (h.value f.fd d.toNat i)
        ⟨y.1, y.2, false⟩)
    gives (.vfaddVX d a b p fdw) (fun a b _ => opAdd f.rm a b) ∧
    gives (.vfsubVX d a b p fdw) (fun a b _ => opSub f.rm a b) ∧
    gives (.vfmulVX d a b p fdw) (fun a b _ => opMul a b) ∧
    gives (.vfmacVX d a b p fdw) (fun a b x => opFma f.rm false a b x) ∧
    gives (.vfminVX d a b p fdw) (fun a b _ => opMinMax false a b) ∧
    gives (.vfmaxVX d a b p fdw) (fun a b _ => opMinMax true a b) ∧
    gives (.vfrsubVX d a b p fdw) (fun a b _ => opSub f.rm b a) ∧
    gives (.vfrdivVX d a b p fdw) (fun a b _ => opDiv b a))

/-- Vector floating point of one source: root, magnitude, negation, conversion and class. A NaN gives the default NaN in the
first three, with NV where it is signalling; the class code raises no flag and is not rounded. -/
def Obligations.VectorFloatUnary : Prop :=
  ∀ (s : Machine.State) (d b : BitVec 5) (p : BitVec 4) (fdw : BitVec 3) (f : Formats),
    Ready s → GroupsFit s [d, b] →
    let h := s.hart
    let gives := fun (i : Instr) (r : Exact → Exact × BitVec 7) =>
      Machine.exec i s = completes s (s.putVals f.fd f.rm f.sat d.toNat p fun i =>
        let y := r (h.value f.fa b.toNat i)
        ⟨y.1, y.2, f.fa.isInt⟩)
    let ofNan := fun (a : Exact) => (Exact.nan false, if a.isSig then (0x10 : BitVec 7) else 0)
    (FpFormats s .one fdw f →
      gives (.vfsqrt d b p fdw) (fun a => if a.isNan then ofNan a else (a.sqrt.1, if a.sqrt.2 then 0x10 else 0)) ∧
      gives (.vfabs d b p fdw) (fun a => if a.isNan then ofNan a else (a.withSign false, 0)) ∧
      gives (.vfneg d b p fdw) (fun a => if a.isNan then ofNan a else (a.negate, 0))) ∧
    (FpFormats s .convert fdw f → gives (.vfcvt d b p fdw) (fun a => (a, 0))) ∧
    (FpFormats s .classify fdw f → Machine.exec (.vfclass d b p fdw) s =
      completes s (s.putElems h.sew d.toNat p fun i => (ruleB f.fd (classOf f.fa (h.value f.fa b.toNat i)), 0)))

/-- Integer compares write one predicate bit for each element, by R145, and nothing else; a write to p0 is discarded. Floating
compares: false for a NaN but for the unordered compare; equality and the unordered compare raise NV for a signalling NaN in an
active element, the others for any NaN there. At SEW 8 they take a format fault. -/
def Obligations.VectorCompares : Prop :=
  (∀ (s : Machine.State) (d a b : BitVec 5) (p : BitVec 4), Ready s → GroupsFit s [a, b] →
    let h := s.hart
    let S := fun (c : Nat) => (BitVec.ofNat h.sew c).toInt
    let gives := fun (i : Instr) (r : Nat → Nat → Bool) => Machine.exec i s =
      completes s (s.putMask d.toNat p fun i => r (h.elem h.sew a.toNat i) (h.elem h.sew b.toNat i))
    gives (.vcmpeq d a b p) (fun x y => decide (x = y)) ∧
    gives (.vcmpne d a b p) (fun x y => decide (x ≠ y)) ∧
    gives (.vcmplt d a b p) (fun x y => decide (S x < S y)) ∧
    gives (.vcmpltu d a b p) (fun x y => decide (x < y)) ∧
    gives (.vcmple d a b p) (fun x y => decide (S x ≤ S y)) ∧
    gives (.vcmpleu d a b p) (fun x y => decide (x ≤ y))) ∧
  (∀ (s : Machine.State) (d a b : BitVec 5) (p : BitVec 4), Ready s → GroupsFit s [a, b] →
    let h := s.hart
    (∀ f, Fmt.nativeFloat h.sew = some f →
      let A := fun i => h.value f a.toNat i
      let B := fun i => h.value f b.toNat i
      let nan := fun i => (A i).isNan || (B i).isNan
      let sig := fun i => (A i).isSig || (B i).isSig
      let gives := fun (j : Instr) (r : Nat → Bool) (nv : Nat → Bool) => Machine.exec j s =
        completes s ((s.putMask d.toNat p r).flag (if (List.range h.vln).any fun i => s.active p i && nv i then 0x10 else 0))
      gives (.vfcmpeq d a b p) (fun i => !nan i && (A i).cmp (B i) == .eq) sig ∧
      gives (.vfcmplt d a b p) (fun i => !nan i && (A i).cmp (B i) == .lt) nan ∧
      gives (.vfcmple d a b p) (fun i => !nan i && (A i).cmp (B i) != .gt) nan ∧
      gives (.vfcmpun d a b p) nan sig) ∧
    (Fmt.nativeFloat h.sew = none → ∀ i ∈ [Instr.vfcmpeq d a b p, .vfcmplt d a b p, .vfcmple d a b p, .vfcmpun d a b p],
      Machine.exec i s = traps s (Trap.plain 0x0A 0)))

/-- Integer reductions: element 0 of vd receives the combination of element 0 of vs1 and the active elements of vs2, and no
other element of vd changes; with MVL 0 nothing is written. Floating reductions combine in the order of R75 (`reduceOver`), each
step rounded into the format native to SEW under FLAGS.FRM, with the identity for an element that is not active. -/
def Obligations.VectorReductions : Prop :=
  (∀ (s : Machine.State) (d a b : BitVec 5) (p : BitVec 4), Ready s → GroupsFit s [d, b] → s.hart.vln ≤ 8192 →
    let h := s.hart
    let S := fun (c : Nat) => (BitVec.ofNat h.sew c).toInt
    let gives := fun (i : Instr) (op : Nat → Nat → Nat) =>
      let r := (s.actives p).foldl (fun x i => op x (h.elem h.sew b.toNat i)) (h.elem h.sew a.toNat 0)
      (h.mvl ≠ 0 → Machine.exec i s = completes s { s with hart := h.setElem h.sew d.toNat 0 r }) ∧
      (h.mvl = 0 → Machine.exec i s = completes s s)
    gives (.vredsum d a b p) (fun x y => (x + y) % 2 ^ h.sew) ∧
    gives (.vredmin d a b p) (fun x y => if S y < S x then y else x) ∧
    gives (.vredmax d a b p) (fun x y => if S x < S y then y else x) ∧
    gives (.vredminu d a b p) (fun x y => min x y) ∧
    gives (.vredmaxu d a b p) (fun x y => max x y) ∧
    gives (.vredand d a b p) (fun x y => x &&& y) ∧
    gives (.vredor d a b p) (fun x y => x ||| y) ∧
    gives (.vredxor d a b p) (fun x y => x ^^^ y)) ∧
  (∀ (s : Machine.State) (d a b : BitVec 5) (p : BitVec 4) (f : Fmt), Ready s → GroupsFit s [d, b] →
    Fmt.nativeFloat s.hart.sew = some f → s.hart.mvl ≠ 0 →
    let h := s.hart
    let gives := fun (i : Instr) (op : Exact → Exact → Exact × BitVec 7) (ident : Nat) =>
      let step := fun (x y : Nat) =>
        let r := op (decFloat f x) (decFloat f y)
        ((cvtFloat f h.frm false r.1).1, r.2 ||| (cvtFloat f h.frm false r.1).2)
      let r := reduceOver step h.vln (h.elem h.sew a.toNat 0) ident
        fun i => if s.active p i then h.elem h.sew b.toNat i else ident
      Machine.exec i s = completes s (({ s with hart := h.setElem h.sew d.toNat 0 r.1 } : Machine.State).flag r.2)
    gives (.vfredsum d a b p) (opAdd h.frm) (f.signBit true) ∧
    gives (.vfredmin d a b p) (opMinMax false) (f.maxFinite + 1) ∧
    gives (.vfredmax d a b p) (opMinMax true) (f.maxFinite + 1 + f.signBit true))

/-- Permutes by index, slides, packing and spreading complete and write vd alone. Moves, the index form, and the passage of one
element to and from a scalar register. -/
def Obligations.VectorPermutesAndMoves : Prop :=
  (∀ (s : Machine.State) (d a b : BitVec 5) (p : BitVec 4), Ready s → GroupsFit s [d, b] →
    let h := s.hart
    let x := (s.x a).toNat
    let V := fun i => h.elem h.sew b.toNat i
    let sel := (List.range h.vln).filter fun i => h.pbit p.toNat i
    let gives := fun (j : Instr) (r : Nat → Nat) => Machine.exec j s = completes s (s.putElems h.sew d.toNat p fun i => (r i, 0))
    let writes := fun (j : Instr) (r : Nat → Option Nat) => Machine.exec j s = completes s { s with
      hart := (List.range h.vln).foldl (fun (t : Hart) i => match r i with | some c => t.setElem h.sew d.toNat i c | none => t) h }
    let masked := if maOf h.vtype then some 0 else none
    (GroupsFit s [a] → gives (.vperm d a b p) fun i => if h.elem h.sew a.toNat i < h.vln then V (h.elem h.sew a.toNat i) else 0) ∧
    writes (.vslideup d a b p) (fun i => if i < x then none else if s.active p i then some (V (i - x)) else masked) ∧
    gives (.vslidedown d a b p) (fun i => if i + x < h.vln then V (i + x) else 0) ∧
    writes (.vcompress d b p) (fun j => match sel[j]? with | some i => some (V i) | none => masked) ∧
    writes (.vexpand d b p) (fun i => if h.pbit p.toNat i then some (V (sel.filter fun k => k < i).length) else masked)) ∧
  (∀ (s : Machine.State) (d a b : BitVec 5) (p : BitVec 4), Ready s →
    let h := s.hart
    let V := fun i => h.elem h.sew b.toNat i
    let x := (s.x a).toNat
    let y := (s.x b).toNat
    let puts := fun (r : Nat → Nat) => s.putElems h.sew d.toNat p fun i => (r i, 0)
    (GroupsFit s [d] → Machine.exec (.vid d p) s = completes s (puts fun i => i)) ∧
    (GroupsFit s [d] → Machine.exec (.vsplat d a p) s = completes s (puts fun _ => x)) ∧
    (GroupsFit s [d, b] → blkOf h.vtype = false → Machine.exec (.vmv d b p) s = completes s (puts V)) ∧
    (GroupsFit s [d, b] → blkOf h.vtype = true → Machine.exec (.vmv d b p) s = completes s { puts V with
      hart := (List.range (h.vln / 16)).foldl (fun k e => k.setEntry h.sew d.toNat e (h.entry h.sew b.toNat e)) (puts V).hart }) ∧
    (GroupsFit s [d, b] → h.sew = 32 → Machine.exec (.vmix d a b p) s =
      completes s (puts fun i => (mix (BitVec.ofNat 32 (V i)) (BitVec.ofNat 32 x)).toNat)) ∧
    (GroupsFit s [d, b] → h.sew ≠ 32 → Machine.exec (.vmix d a b p) s = traps s (Trap.plain 0x0A 0)) ∧
    (GroupsFit s [b] → Machine.exec (.vext d a b) s = completes s (s.setX d
      (if x < h.mvl.toNat then BitVec.ofInt 64 (BitVec.ofNat h.sew (V x)).toInt else 0))) ∧
    (GroupsFit s [d] → Machine.exec (.vins d a b) s = completes s
      (if y < h.mvl.toNat then { s with hart := h.setElem h.sew d.toNat y x } else s)))

/-- Predicate instructions: bits 0 to VL-1 of pd, with no mask, and the two forms that write a scalar register. The predicate
load and store from the first element on: bits 0 to VL-1 of pd come from the bits of the bytes at rs1, and the store writes the
bytes that hold bits 0 to VL-1 of its predicate, with zeros above them, and nothing else; the L2 of the hart's die allocates the
lines that the load reads (log entry 17). -/
def Obligations.PredicateResults : Prop :=
  (∀ (s : Machine.State) (p q r : BitVec 6) (d a : BitVec 5), Ready s → s.hart.vstart = 0 →
    let h := s.hart
    let A := fun i => h.pbit q.toNat i
    let B := fun i => h.pbit r.toNat i
    let gives := fun (j : Instr) (f : Nat → Bool) => Machine.exec j s = completes s
      { s with hart := h.setPred p.toNat (putPred (h.p[p.toNat]'p.isLt) h.vln f) }
    gives (.pand p q r) (fun i => A i && B i) ∧
    gives (.por p q r) (fun i => A i || B i) ∧
    gives (.pxor p q r) (fun i => A i != B i) ∧
    gives (.pandn p q r) (fun i => A i && !B i) ∧
    gives (.pnot p q) (fun i => !A i) ∧
    gives (.pset p) (fun _ => true) ∧
    gives (.pclr p) (fun _ => false) ∧
    gives (.pmv p q) A ∧
    gives (.psetx p a) (fun i => decide (i < (s.x a).toNat)) ∧
    Machine.exec (.pcount d q) s = completes s (s.setX d (BitVec.ofNat 64 ((List.range h.vln).countP A))) ∧
    ((∀ i, i < h.vln → A i = false) → Machine.exec (.pfirst d q) s = completes s (s.setX d (BitVec.allOnes 64))) ∧
    (∀ i, i < h.vln → A i = true → (∀ j, j < i → A j = false) →
      Machine.exec (.pfirst d q) s = completes s (s.setX d (BitVec.ofNat 64 i)))) ∧
  (∀ (s : Machine.State) (p r : BitVec 6) (a : BitVec 5) (P : Word → Nat) (L : Word → Word), Ready s → s.hart.vstart = 0 →
    let vl := s.hart.vln
    let at_ := fun (k : Nat) => s.x a + BitVec.ofNat 64 k
    let ts := (List.range vl).map fun i => (⟨i, at_ (i / 8), 1⟩ : Touch)
    (Maps s s.hart.ptbase .read ts P L → Clean s P ts →
      let f := s.fillL2 false (ts.flatMap (piecesAt P))
      Machine.exec (.pld p a) s = completes s (({ f with
        hart := s.hart.setPred p.toNat (putPred (s.hart.p[p.toNat]'p.isLt) vl fun i =>
          (readAt s P (at_ (i / 8)) 1).testBit (i % 8)) } : Machine.State).addHot 0 (pagesOf P L ts) ts)) ∧
    (Maps s s.hart.ptbase .write ts P L → ∃ (ws : List Write) (b : Nat → Byte),
      (∀ k j, j < 8 → (b k).getLsbD j = (decide (8 * k + j < vl) && s.hart.pbit r.toNat (8 * k + j))) ∧
      Puts s false ws ((List.range ((vl + 7) / 8)).flatMap fun k => putsAt P (at_ k) [b k]) ∧
      Machine.exec (.pst a r) s = completes s ((s.addWrites ws).addHot 0 (pagesOf P L ts) ts)))

/-- The elements of a group after a form has written them: an active element holds its result, one below VL that the mask leaves
out is zero under MA and else unchanged, and the tail is unchanged; other registers, side-arrays and predicates are unchanged,
and the flags of the active elements, and only they, are raised. A predicate after its bits below VL were written: those bits
are the new ones, the others stay, p0 never changes and reads all-true below MVL, and other predicates are unchanged. -/
def Obligations.ElementWrites : Prop :=
  (∀ (s : Machine.State) (d : BitVec 5) (p : BitVec 4) (r : Nat → Nat × BitVec 7),
    let h := s.hart
    let t := s.putElems h.sew d.toNat p r
    h.mvl.toNat = h.mvlOf h.vtype → h.vln ≤ h.mvl.toNat → GroupsFit s [d] →
    (∀ e, e < h.mvl.toNat → t.hart.elem h.sew d.toNat e =
      if s.active p e then (r e).1 % 2 ^ h.sew
      else if e < h.vln ∧ maOf h.vtype = true ∧ s.allowed e = true then 0 else h.elem h.sew d.toNat e) ∧
    (∀ k : Fin 32, k.val < d.toNat ∨ d.toNat + lmulOf h.vtype ≤ k.val → t.hart.v[k] = h.v[k]) ∧
    (∀ n, t.conv.fx.getLsbD n = (s.conv.fx.getLsbD n || (List.range h.vln).any fun e => s.active p e && (r e).2.getLsbD n)) ∧
    (∃ v fx, t = { s with hart := { h with v := v }, conv := { s.conv with fx := fx } })) ∧
  (∀ (h : Hart) (p : BitVec 6) (f : Nat → Bool) (q i : Nat), h.vln ≤ h.mvl.toNat → h.mvl.toNat ≤ 8192 → q < 64 →
    let t := h.setPred p.toNat (putPred (h.p[p.toNat]'p.isLt) h.vln f)
    t.pbit q i = if q = p.toNat ∧ p ≠ 0 ∧ i < h.vln then f i else h.pbit q i)

/-- Integer results: rule V writes a value that the format holds as it is, wraps one that it does not hold modulo 2^W, and
clamps it with SATI under SAT; rule B writes the low W bits of a pattern. -/
def Obligations.IntegerRules : Prop :=
  ∀ (f : Fmt) (x : Int) (n : Nat), f.isInt = true →
    let lo := f.range.1
    let hi := f.range.2
    (lo ≤ x → x ≤ hi → ∀ sat, decInt f (ruleV f sat x).1 = x ∧ (ruleV f sat x).2 = 0) ∧
    (x < lo ∨ hi < x →
      (decInt f (ruleV f false x).1 - x) % 2 ^ f.width = 0 ∧ lo ≤ decInt f (ruleV f false x).1 ∧
      decInt f (ruleV f false x).1 ≤ hi ∧ (ruleV f false x).2 = 0) ∧
    (x < lo → decInt f (ruleV f true x).1 = lo ∧ (ruleV f true x).2 = 0x20) ∧
    (hi < x → decInt f (ruleV f true x).1 = hi ∧ (ruleV f true x).2 = 0x20) ∧
    (decInt f (ruleB f n) - n) % 2 ^ f.width = 0 ∧ lo ≤ decInt f (ruleB f n) ∧ decInt f (ruleB f n) ≤ hi

/-- Scalar loads of sound memory complete with the little-endian value of their bytes, extended as the form says; the pair load
writes rd and the register after it. The L1D of the hart's core then holds the lines that the load missed in it, where they may
be cached, hold no poison and the hint is not na, and the L2 of its die too where the load has no hint; a line that L1D held
answers without its trunk. Which lines allocate is the model's reading (log entry 17). Scalar stores complete: the hart reads
the stored bytes at the address computed, every other byte as before, and nothing else changes but the writes that are on their
way. -/
def Obligations.LoadsAndStores : Prop :=
  ((∀ (s : Machine.State) (d a : BitVec 5) (h : BitVec 2) (t : BitVec 1) (i : BitVec 10) (pa : Nat), Ready s →
    let addr := fun (size : Nat) => s.x a + BitVec.ofInt 64 (i.toInt * size)
    let val := valueAt s .scalar pa
    let signed := fun (n : Nat) => BitVec.ofInt 64 (BitVec.ofNat (8 * n) (val n)).toInt
    let plain := fun (n : Nat) => BitVec.ofNat 64 (val n)
    let loads := fun (j : Instr) (size align : Nat) (put : Machine.State → Machine.State) =>
      (addr size).toNat % align = 0 → Reaches s .read true (addr size) size pa → Answers s pa size →
        Follows s .scalar [(pa, size)] → let ps := l1Pieces [(pa, size)]
          Machine.exec j s = completes s (put ((s.fillL1d h ps).fillL2 (h != 0) (ps.filter fun p => !s.inL1d p.1)))
    loads (.lb d a h i) 1 1 (fun k => k.setX d (signed 1)) ∧
    loads (.lbu d a h i) 1 1 (fun k => k.setX d (plain 1)) ∧
    loads (.lh d a h i) 2 2 (fun k => k.setX d (signed 2)) ∧
    loads (.lhu d a h i) 2 2 (fun k => k.setX d (plain 2)) ∧
    loads (.lw d a h i) 4 4 (fun k => k.setX d (signed 4)) ∧
    loads (.lwu d a h i) 4 4 (fun k => k.setX d (plain 4)) ∧
    loads (.ld d a h t i) 8 8 (fun k => k.setX d (plain 8)) ∧
    loads (.ldp d a h t i) 16 (if t = 1 then 16 else 8)
      (fun k => (k.setX d (plain 8)).setX (d + 1) (BitVec.ofNat 64 (valueAt s .scalar (pa + 8) 8)))) ∧
  (∀ (s : Machine.State) (h : BitVec 2) (pa n : Nat),
    let t := s.fillL1d h (l1Pieces [(pa, n)])
    t = { s with l1d := t.l1d } ∧ (h = 1 → t = s) ∧ (∀ e ∈ s.l1d, e ∈ t.l1d) ∧
    (h ≠ 1 → ∀ p ∈ l1Pieces [(pa, n)], s.cacheable (p.1 / 64 * 64) = true → Sound s (p.1 / 64 * 64) 64 → t.inL1d p.1 = true) ∧
    ∀ e ∈ t.l1d, e ∈ s.l1d ∨ ∃ p ∈ l1Pieces [(pa, n)], s.cacheable (p.1 / 64 * 64) = true ∧ e = (s.hart.core, p.1 / 64 * 64)) ∧
  (∀ (s : Machine.State) (na : Bool) (ps : List (Nat × Nat)),
    let t := s.fillL2 na ps
    t = { s with l2 := t.l2 } ∧ (na = true → t = s) ∧ (∀ e ∈ s.l2, e ∈ t.l2) ∧
    (na = false → ∀ p ∈ ps, s.cacheable p.1 = true → Sound s (lineOf p.1) 128 → t.inL2 p.1 = true) ∧
    ∀ e ∈ t.l2, e ∈ s.l2 ∨ ∃ p ∈ ps, s.cacheable p.1 = true ∧ e = (dieOf s.hart.core, lineOf p.1))) ∧
  (∀ (s : Machine.State) (d a : BitVec 5) (h : BitVec 2) (t : BitVec 1) (i : BitVec 10) (pa : Nat), Ready s →
    let addr := fun (size : Nat) => s.x a + BitVec.ofInt 64 (i.toInt * size)
    let stores := fun (j : Instr) (size align : Nat) (bs : List Byte) =>
      (addr size).toNat % align = 0 → Reaches s .write true (addr size) size pa → ∃ ws u,
        u = { s with
          hart := { leave s.hart s.hart (s.hart.pc + 4) 0 with held := s.hart.held ++ ws, seq := s.hart.seq + 1 }
          conv := Convoy.fresh } ∧
        Machine.exec j s = .next u ∧ Stored s u .scalar pa bs ∧
        ∀ w ∈ ws, w.mine s.hart = true ∧ w.seq = s.hart.seq ∧ w.cls = .scalar ∧ pa ≤ w.pa ∧ w.pa + w.bytes.length ≤ pa + size
    stores (.sb d a h i) 1 1 (leBytes 1 (s.x d).toNat) ∧
    stores (.sh d a h i) 2 2 (leBytes 2 (s.x d).toNat) ∧
    stores (.sw d a h i) 4 4 (leBytes 4 (s.x d).toNat) ∧
    stores (.sd d a h t i) 8 8 (leBytes 8 (s.x d).toNat) ∧
    stores (.sdp d a h t i) 16 (if t = 1 then 16 else 8) (leBytes 8 (s.x d).toNat ++ leBytes 8 (s.x (d + 1)).toNat))

/-- A scalar access whose address is not aligned as its form asks raises the misaligned-access trap before anything else, and
TVAL holds the address. -/
def Obligations.ScalarMisaligned : Prop :=
  ∀ (s : Machine.State) (d a b : BitVec 5) (h : BitVec 2) (t q r w u : BitVec 1) (c : BitVec 2) (i : BitVec 10), Ready s →
    let addr := fun (size : Nat) => s.x a + BitVec.ofInt 64 (i.toInt * size)
    let faults := fun (js : List Instr) (va : Word) (align : Nat) (commit : Bool) => va.toNat % align ≠ 0 →
      ∀ j ∈ js, Machine.exec j s = traps s { Trap.plain 0x03 va with commit := commit }
    faults [.lh d a h i, .lhu d a h i, .sh d a h i] (addr 2) 2 false ∧
    faults [.lw d a h i, .lwu d a h i, .sw d a h i] (addr 4) 4 false ∧
    faults [.ld d a h t i, .sd d a h t i] (addr 8) 8 false ∧
    faults [.ldp d a h t i, .sdp d a h t i] (addr 16) (if t = 1 then 16 else 8) false ∧
    faults [.aadd d a b q r w u c, .aand d a b q r w u c, .aor d a b q r w u c, .axor d a b q r w u c, .amin d a b q r w u c,
      .amax d a b q r w u c, .aminu d a b q r w u c, .amaxu d a b q r w u c, .aswap d a b q r w u c, .acas d a b q r w u c,
      .ald d a q w u c, .ast a b r w c] (s.x a) (if w = 1 then 4 else 8) true

/-- Scalar atomics on sound memory, with nothing of the hart or of its core on its way there: the old value, sign-extended,
reaches rd, the sequence tag rd+1 where the form asks for it, and the new value stands in memory when the instruction is
complete; a failing compare writes nothing, and neither does ald. The caches drop the line at a write, the L1D of the hart's
core at any of these forms, and the LLC takes one of a private drawer partition. A release at SYSTEM scope has no write of tier
X before it to wait for. That the write is performed as the convoy retires is the model's choice (log entry 11). -/
def Obligations.ScalarAtomics : Prop :=
  ∀ (s : Machine.State) (d a b : BitVec 5) (q r w u : BitVec 1) (c : BitVec 2) (pa : Nat), Ready s → Alone s →
    let n := if w = 1 then 4 else 8
    let va := s.x a
    let line := lineOf pa
    let old := valueAt s .scalar pa n
    let y := (s.x b).toNat % 2 ^ (8 * n)
    let S := fun (x : Nat) => (BitVec.ofNat (8 * n) x).toInt
    let tag := fun (wrote : Bool) => if (regionOf pa).hasTags then
      BitVec.zeroExtend 64 (s.tag line + if wrote then 1 else 0) else BitVec.allOnes 64
    let s1 : Machine.State := { s with hart := { s.hart with seq := s.hart.seq + 1 } }
    let regs := fun (wrote : Bool) =>
      let t := s1.setX d (BitVec.ofInt 64 (S old))
      if u = 1 then t.setX (d + 1) (tag wrote) else t
    let unwritten : Machine.State :=
      { regs false with l1d := s.l1d.filter fun l => !(l.1 == s.hart.core && overlaps l.2 64 line 128) }
    let wrote := fun (j : Instr) (t : Machine.State) (v : Nat) => ∃ ws, (regionOf pa ≠ .cxl → ws = []) ∧
      (∀ k ∈ ws, k.mine s.hart = true ∧ k.pa = pa ∧ k.bytes = wholeBytes (leBytes n v)) ∧
      Machine.exec j s = completes s { t with
        mem := Memory.setBytes s.mem pa (leBytes n v)
        tags := (s.stamp pa).tags
        poison := clearPoison s.poison none pa n pa (pa + n)
        llc := if regionOf pa = .drawer ∧ s.sharedPa pa = false then (s.takeLlc line true).llc else s.llc
        l1d := s.l1d.filter fun l => !overlaps l.2 64 line 128
        l2 := s.l2.filter fun l => !overlaps l.2 128 line 128
        unacked := s.unacked ++ ws }
    va.toNat % n = 0 → (r = 1 → c = 3 → s.unacked = []) →
    (Reaches s .read true va n pa → Sound s pa n → s.unserved false pa = false →
      Machine.exec (.ald d a q w u c) s = completes s unwritten ∧
      (Reaches s .write true va n pa → Open s pa n →
        wrote (.aadd d a b q r w u c) (regs true) ((old + y) % 2 ^ (8 * n)) ∧
        wrote (.aand d a b q r w u c) (regs true) (old &&& y) ∧
        wrote (.aor d a b q r w u c) (regs true) (old ||| y) ∧
        wrote (.axor d a b q r w u c) (regs true) (old ^^^ y) ∧
        wrote (.amin d a b q r w u c) (regs true) (if S old ≤ S y then old else y) ∧
        wrote (.amax d a b q r w u c) (regs true) (if S old ≤ S y then y else old) ∧
        wrote (.aminu d a b q r w u c) (regs true) (min old y) ∧
        wrote (.amaxu d a b q r w u c) (regs true) (max old y) ∧
        wrote (.aswap d a b q r w u c) (regs true) y ∧
        (old = (s.x d).toNat % 2 ^ (8 * n) → wrote (.acas d a b q r w u c) (regs true) y) ∧
        (old ≠ (s.x d).toNat % 2 ^ (8 * n) → Machine.exec (.acas d a b q r w u c) s = completes s unwritten))) ∧
    (Reaches s .write true va n pa → Sound s pa n → s.unserved true pa = false → Open s pa n → wrote (.ast a b r w c) s1 y)

/-- Fences: one that orders earlier writes completes at once and leaves its pairs of classes as orders, which hold the hart's
later accesses back until the earlier writes they name are performed at the scope; one that orders earlier reads alone leaves
nothing, for every read of the hart is performed as it executes (log entry 13). fence.w completes once every earlier write of
the hart is performed and acknowledged, at SYSTEM scope too, and none of its publications is outstanding: those that can be are
performed in order, and while one is left it waits, or takes the trap of one that met poison. fence.i discards the lines of the
core's instruction cache. -/
def Obligations.Fences : Prop :=
  ∀ (s : Machine.State) (m : BitVec 4) (c : BitVec 2), Ready s →
    let order := fun (p q : Cls) =>
      (⟨s.hart.seq, p, q, decide (c ≠ 0), decide (c = 3), m.getLsbD 1, m.getLsbD 0, false⟩ : Order)
    let fence := fun (j : Instr) (os : List Order) =>
      (m.getLsbD 0 = false → m.getLsbD 1 = false → Machine.exec j s = completes s s) ∧
      (m.getLsbD 0 = true ∨ m.getLsbD 1 = true → Machine.exec j s = completes s (s.order os))
    fence (.fence m c) [order .scalar .scalar, order .vector .vector] ∧
    fence (.fenceSv m c) [order .scalar .vector] ∧
    fence (.fenceVs m c) [order .vector .scalar] ∧
    (let t := (s.release fun _ => true).drain fun w => w.mine s.hart
      let left := t.hart.held ++ (t.wq ++ t.unacked).filter fun w => w.mine s.hart
      (left = [] → s.ownPubs = [] → s.acksDue = [] → Machine.exec (.fenceW c) s = completes s t) ∧
      (left = [] → s.ownPubs = [] → s.acksDue = [] → AtWord s (.fenceW c) → Waits s .writes →
        Machine.exec (.fenceWComplete s.hart.id) s = completes s t) ∧
      (left ≠ [] → Machine.exec (.fenceW c) s = waits s .writes) ∧
      (left = [] → s.ownPubs = [] → s.acksDue ≠ [] → Machine.exec (.fenceW c) s = waits s .writes) ∧
      (left = [] → ∀ p r, s.ownPubs = p :: r → p.poisoned = true →
        Machine.exec (.fenceW c) s = traps s { consumed p.pa with commit := true, pub := true }) ∧
      (left = [] →
        let u := State.performPubs t.ownPubs t
        (u.ownPubs = [] → ((u.wq ++ u.unacked).filter fun w => w.mine s.hart) = [] → u.acksDue = [] →
          Machine.exec (.fenceW c) s = completes s u) ∧
        ∀ p r, u.ownPubs = p :: r → Machine.exec (.fenceW c) s =
          if p.poisoned then traps s { consumed p.pa with commit := true, pub := true } else waits s .writes)) ∧
    Machine.exec .fenceI s = completes s { s with l1i := s.l1i.filter fun l => l.core != s.hart.core }

/-- What orders hold back: a hart's later write is accepted by its core only after the earlier ones that come before it, which
are those of its class that overlap it or where the class is ordered, and those that an order of a fence or of a strip boundary
names; an order is kept while a write that it names is on its way, and no longer. -/
def Obligations.WriteOrder : Prop :=
  (∀ (s : Machine.State) (h : Hart) (p : Write → Bool) (i j : Nat) (k w : Write), h.held.Nodup → i < j →
    h.held[i]? = some k → h.held[j]? = some w → k ∈ (s.acceptOf h p).1 →
    ((k.cls = w.cls ∧ (w.ordered = true ∨ overlaps k.pa k.bytes.length w.pa w.bytes.length = true)) ∨
      ∃ o ∈ h.orders, o.writes = true ∧ o.before = k.cls ∧ o.after = w.cls ∧ k.seq < o.at_ ∧
        (if o.next = true then w.seq = o.at_ else o.at_ ≤ w.seq)) →
    w ∈ (s.acceptOf h p).1) ∧
  (∀ (s : Machine.State) (os : List Order) (o : Order),
    o ∈ (s.order os).hart.orders ↔ (o ∈ s.hart.orders ∨ o ∈ os) ∧
      ∃ w, w.mine s.hart = true ∧ w.cls = o.before ∧ w.seq < o.at_ ∧
        (w ∈ s.hart.held ∨ w ∈ s.hart.rheld ∨ w ∈ s.conv.pend ∨ (o.wide = true ∧ w ∈ s.wq) ∨ (o.sys = true ∧ w ∈ s.unacked)))

/-- Taking a trap, for every cause that squashes its convoy: the Waybill stands at WBASE, the trap CSRs name the cause and save
the pc and the privilege, and the hart goes on at TVEC at privilege S; its requests at the trunks are withdrawn, and nothing
else changes. Where the first fetch at TVEC traps, it is a double trap. While a write of the core that overlaps the Waybill
cannot reach its ordering point, the hart waits to take the trap. That SKIP goes where the convoy was at privilege U, and stays
at privilege S, is the model's reading (log entry 48). -/
def Obligations.TrapEntry : Prop :=
  ∀ (s : Machine.State) (t : Trap) (k : Nat), s.hart.rewEn = false → t.code ≠ 0x10 → s.hart.tip = false →
    let wb := s.hart.wbase.toNat
    regionOf wb = .hbm → regionOf (wb + 1599) = .hbm →
    let hit := fun (w : Write) => overlaps w.pa w.bytes.length wb 1600
    let own := fun (w : Write) => w.core == s.hart.core && hit w
    let s0 : Machine.State := { s with hart := { s.hart with vstart := 0 } }
    let q := (s0.release hit).drain own
    let u : Machine.State := ({ s0.poke wb (s0.waybill t s.hart.pc k false s.hart.pc) 8 with
      conv := Convoy.fresh
      hart := { s0.hart with
        tepc := s.hart.pc
        tval := t.tval
        tcause := BitVec.ofNat 11 (t.code.toNat + 256 * k)
        tstatus := if s.hart.priv = .s then 0x41 else 0x40
        priv := .s
        pc := s.hart.tvec
        status := .running
        resume := none
        carry := Carry.none
        got := []
        gathered := []
        due := none
        pass := none
        retried := false
        shrunk := false
        dbgctl := if s.hart.priv = .u then s.hart.dbgctl &&& ~~~(8#57) else s.hart.dbgctl } } : Machine.State).withdraw s.hart
    ((∀ w ∈ s.hart.held, hit w = false) → (∀ w ∈ s.wq, own w = false) →
      ((∀ e, u.fetch s.hart.tvec ≠ .trap e) → s.squash t k = u) ∧
      (∀ e, u.fetch s.hart.tvec = .trap e → s.squash t k = u.doubleTrap)) ∧
    ((∃ w ∈ q.hart.held, hit w = true) ∨ (∃ w ∈ q.wq, own w = true) → s.squash t k = { q with
      hart := { q.hart with due := some ⟨t, s.hart.pc, k, false, s.hart.pc, none⟩, status := .waiting .writes s.cycle }
      conv := Convoy.fresh })

/-- The fields of a Waybill, byte by byte (Table 4), for a cause that squashes its convoy. -/
def Obligations.WaybillFields : Prop :=
  ∀ (s : Machine.State) (t : Trap) (pc epc : Word) (k : Nat), k < 4 →
    let b := s.waybill t pc k false epc
    let field := fun (o n : Nat) => leNat ((b.drop o).take n)
    let ps := sortPages t.pages
    b.length = 1600 ∧
    field 0x00 1 = t.code.toNat ∧
    field 0x01 3 = k + (if 64 < ps.length then 8 else 0) ∧
    field 0x04 4 = min 64 ps.length ∧
    field 0x08 4 = ((List.range 8192).filter fun i => t.mask.getLsbD i).length ∧
    field 0x0C 4 = s.hart.vl.toNat ∧
    field 0x10 8 = epc.toNat ∧
    field 0x18 8 = t.tval.toNat ∧
    field 0x20 8 = s.hart.vtype.toNat ∧
    field 0x28 8 = (s.insnAt (pc + BitVec.ofNat 64 (4 * k))).toNat ∧
    field 0x30 8 = s.hart.lanesCsr.toNat ∧
    field 0x38 8 = (s.hart.ptbase.extractLsb' 52 9).toNat ∧
    field 0x40 1024 = t.mask.toNat ∧
    (∀ j, j < 64 → field (0x440 + 8 * j) 8 = match ps[j]? with
      | some p => (pageOf p.va).toNat + p.kind.toNat
      | none => 0)

/-- A trap while TIP is 1, or with a Waybill outside tier H, stops the hart: its registers stay, but for VSTART, and an event
record of KIND 1 is queued where there is room. That a Waybill which lies only partly in tier H counts as outside it is the
model's reading (log entry 41). -/
def Obligations.DoubleTrap : Prop :=
  ∀ (s : Machine.State) (t : Trap) (k : Nat), s.hart.rewEn = false → t.code ≠ 0x10 →
    (s.hart.tip = true ∨ regionOf s.hart.wbase.toNat ≠ .hbm ∨ regionOf (s.hart.wbase.toNat + 1599) ≠ .hbm) →
    let record := leBytes 8 1 ++ leBytes 8 s.hart.coreid.toNat ++ leBytes 8 s.hart.gangid.toNat ++
      leBytes 8 (s.hart.tcause.toNat + 2 ^ 32 * (s.hart.tepc.toNat % 2 ^ 32))
    s.squash t k = { s with
      hart := { s.hart with vstart := 0, status := .doubleTrap, resume := none, due := none, pass := none }
      conv := Convoy.fresh
      mbox := if s.mbox.events.length < 64 then { s.mbox with events := s.mbox.events ++ [record] } else s.mbox }

/-- tret at privilege S: the privilege becomes SPP and TIP 0; without RESUME the hart goes on at TEPC with VSTART 0 (log entry
24) and no tile buffer, and with RESUME it goes on with the suspended convoy there, whose complete words and elements left
TSTATUS, TCAUSE and p63 name, if the type state matches the Waybill, and else tret is an illegal instruction. -/
def Obligations.ReturnFromTrap : Prop :=
  ∀ (s : Machine.State), Ready s → s.hart.priv = .s →
    let resuming := s.hart.tstatus.getLsbD 1
    let goes := fun (carry : Carry) (r : Option Resume) => Machine.exec .tret s = .next { s with
      hart := { leave s.hart { s.hart with
          priv := if s.hart.tstatus.getLsbD 0 then .s else .u
          vstart := if resuming then s.hart.vstart else 0
          tstatus := s.hart.tstatus &&& 0x3F
          copyBuf := if resuming then s.hart.copyBuf else []
          stash := s.hart.stash.filter fun k => k.1 != s.hart.tepc } s.hart.tepc 0 with
        carry := carry
        resume := r }
      conv := Convoy.fresh }
    (resuming = false → goes Carry.none none) ∧
    (resuming = true → s.matchesWaybill = true →
      goes (((s.hart.stash.find? fun k => k.1 == s.hart.tepc).map fun k => k.2).getD Carry.none)
      (some ⟨s.hart.tstatus.extractLsb' 2 4, (s.hart.tcause.extractLsb' 8 2).toNat, s.hart.p[63], false, s.hart.tcause.getLsbD 10⟩)) ∧
    (resuming = true → s.matchesWaybill = false →
      Machine.exec .tret s = traps s { s.illegal with commit := true })

/-- The system call: its convoy retires, and then the trap is taken with TVAL holding rs1 and TEPC the next convoy. The
breakpoint squashes its convoy. Privileged instructions at privilege U raise the privilege trap and do nothing else. -/
def Obligations.SystemAndPrivilege : Prop :=
  (∀ (s : Machine.State) (a : BitVec 5), Ready s →
    Machine.exec (.sys a) s = .next (({ s with
      hart := { leave s.hart s.hart (s.hart.pc + 4) 0 with got := s.hart.got }
      conv := Convoy.fresh } : Machine.State).takeTrap
      (Trap.plain 0x12 (s.x a)) s.hart.pc 0 false (s.hart.pc + 4) none) ∧
    Machine.exec .brk s = traps s { Trap.plain 0x13 0 with commit := true }) ∧
  (∀ (s : Machine.State) (d a b : BitVec 5), Ready s → s.hart.priv = .u →
    ∀ i ∈ [Instr.tret, .tlbinv a b, .ptcinv a, .pgshare a, .pgdrop a, .pgmove a b, .pghot d a, .halt],
      Machine.exec i s = traps s { s.denied with commit := true })

/-- CSR instructions: rd receives the old value, and the CSR the new one; csrrs and csrrc with x0 only read. A number that is
not assigned, or a write to a read-only CSR, is an illegal instruction, and else the system range at privilege U a privilege
trap; either way no CSR changes. Enabling REWIND takes a forced checkpoint at the boundary after the instruction. -/
def Obligations.CsrInstructions : Prop :=
  (∀ (s : Machine.State) (d a : BitVec 5) (c : BitVec 12), Ready s →
    let v := s.x a
    let ill := traps s { s.illegal with commit := true }
    let sys := decide (0x800 ≤ c.toNat ∧ s.hart.priv = .u)
    let reads := fun (j : Instr) => ∀ old, s.csr c = some old → sys = false → Machine.exec j s = completes s (s.setX d old)
    let writes := fun (j : Instr) (new : Word → Word) => ∀ old, s.csr c = some old → c.getLsbD 10 = false → sys = false →
      (c ≠ 0x832 ∨ (new old).getLsbD 0 = false) → Machine.exec j s = completes s ((s.setCsr c (new old)).setX d old)
    writes (.csrrw d a c) (fun _ => v) ∧
    (a ≠ 0 → writes (.csrrs d a c) (fun old => old ||| v)) ∧
    (a ≠ 0 → writes (.csrrc d a c) (fun old => old &&& ~~~v)) ∧
    (a = 0 → reads (.csrrs d a c)) ∧
    (a = 0 → reads (.csrrc d a c)) ∧
    (s.csr c = none → ∀ j ∈ [Instr.csrrw d a c, .csrrs d a c, .csrrc d a c], Machine.exec j s = ill) ∧
    (c.getLsbD 10 = true → Machine.exec (.csrrw d a c) s = ill) ∧
    (c.getLsbD 10 = true → a ≠ 0 → ∀ j ∈ [Instr.csrrs d a c, .csrrc d a c], Machine.exec j s = ill) ∧
    (∀ old, s.csr c = some old → c.getLsbD 10 = false → sys = true →
      ∀ j ∈ [Instr.csrrw d a c, .csrrs d a c, .csrrc d a c], Machine.exec j s = traps s { s.denied with commit := true }) ∧
    (∀ old, s.csr c = some old → a = 0 → sys = true →
      ∀ j ∈ [Instr.csrrs d a c, .csrrc d a c], Machine.exec j s = traps s { s.denied with commit := true })) ∧
  (∀ (s : Machine.State) (d a : BitVec 5), Ready s → s.hart.priv = .s → (s.x a).getLsbD 0 = true →
    let h := leave s.hart ((s.setCsr 0x832 (s.x a)).setX d s.hart.rewindCsr).hart (s.hart.pc + 4) 0
    Machine.exec (.csrrw d a 0x832) s = .next { s with
      hart := { h with check := some (h.checkpoint h.pc true), checkCarry := Carry.none }
      conv := Convoy.fresh })

/-- A CSR that was written reads its writable bits as written and the others as before; every other CSR reads as before. -/
def Obligations.CsrWrites : Prop :=
  ∀ (s : Machine.State) (w old : Word) (c e : BitVec 12) (m : Word), s.hart.core < 384 → (c.toNat, m) ∈ csrMasks →
    s.csr c = some old →
    (s.setCsr c w).csr e = if e = c then some ((old &&& ~~~m) ||| (w &&& m)) else s.csr e

/-- halt at privilege S with nothing of the hart outstanding: an event record of KIND 2 is queued where there is room, and the
hart stops at the next convoy. park: the hart asks to be switched out where what the launch front end serves waits on its core,
for a group that a victim there still holds or for a slot that a hart there still has, with a priority at or above its own, and
else does nothing. -/
def Obligations.HaltAndPark : Prop :=
  (∀ (s : Machine.State), Ready s → s.hart.priv = .s → s.hart.held = [] →
    (∀ w ∈ s.wq ++ s.unacked, w.mine s.hart = false) → s.ownPubs = [] →
    let record := leBytes 8 2 ++ leBytes 8 s.hart.coreid.toNat ++ leBytes 8 s.hart.gangid.toNat ++
      leBytes 8 (s.hart.tcause.toNat + 2 ^ 32 * ((s.hart.pc + 4).toNat % 2 ^ 32))
    Machine.exec .halt s = .next { s with
      hart := { leave s.hart s.hart (s.hart.pc + 4) 0 with status := .halted }
      conv := Convoy.fresh
      mbox := if s.mbox.events.length < 64 then { s.mbox with events := s.mbox.events ++ [record] } else s.mbox }) ∧
  (∀ (s : Machine.State), Ready s →
    let core := s.hart.core
    let waiting := (s.named.any fun k => k / 4 == core && s.groupHeld core (k % 4)) ||
      s.namedSlots.any fun k => k / 4 == core && (s.hartAt k).isSome
    (∀ p, s.servedPrio = some p → waiting = true → s.hart.prio.toNat ≤ p →
      Machine.exec .park s = completes s { s with hart := { s.hart with switchReq := true } }) ∧
    ((waiting = false ∨ ∀ p, s.servedPrio = some p → p < s.hart.prio.toNat) → Machine.exec .park s = completes s s))

/-- Translation and permutation caches: tlbinv drops the entries that its operands name in every core once the accesses
translated with them, publications and the passes of matrix instructions among them, are performed; ptcinv with rs1 = 0 drops
the entries of its own core, and with another rs1 those of the set there in every core. That ptcinv drops them as it executes,
whatever permuted writes are on their way, is the model's choice (log entry 79). -/
def Obligations.CacheInvalidation : Prop :=
  ∀ (s : Machine.State) (a b : BitVec 5), Ready s → s.hart.priv = .s →
    let r := s.x b
    let uses := usedEntry (if r.getLsbD 9 then none else some (r.extractLsb' 0 9)) (if r.getLsbD 10 then none else some (s.x a))
    (Alone s → (∀ w ∈ onWay s, w.tr.any uses = false) → (∀ q ∈ s.pubs, q.tr.any uses = false) →
        (∀ h ∈ s.others, ∀ x, h.pass = some x → ∀ k ∈ x.pins, uses k.tr = false) → Machine.exec (.tlbinv a b) s = completes s { s with tlb := s.tlb.filter fun t =>
      !((r.getLsbD 9 || t.asid == r.extractLsb' 0 9) && (r.getLsbD 10 || t.maps (s.x a))) }) ∧
    (s.x a = 0 → Machine.exec (.ptcinv a) s = completes s { s with ptc := s.ptc.filter fun e => e.core != s.hart.core }) ∧
    (∀ pa, s.x a ≠ 0 → Reaches s .read true (s.x a) 1 pa →
      Machine.exec (.ptcinv a) s = completes s { s with ptc := s.ptc.filter fun e => e.psd != pa })

/-- Page counts and hotness: pgshare adds one to a count unless it is pinned, pgdrop takes one off unless it is 0 or pinned and
gives a page whose count becomes 0 to the free list, and pghot returns the counters that its operand selects and clears them. An
address without an entry is a protection fault; that its page kind is 4 is the model's reading (log entry 58). -/
def Obligations.PageForms : Prop :=
  ∀ (s : Machine.State) (d a : BitVec 5), Ready s → s.hart.priv = .s → Alone s →
    let pa := (s.x a).toNat / 65536 * 65536
    let at_ := s.hart.prtbase.toNat + 4 * pageIndex pa
    let n := Memory.value s.mem at_ 4
    let list := s.hart.fplist.toNat
    let hpa := (s.x a).toNat % 2 ^ 52 / 65536 * 65536
    let hot := s.hart.hotbase.toNat + 16 * pageIndex hpa
    let sel := (s.x a).toNat % 4
    let sum := fun (t : Machine.State) (ks : List Nat) => ks.foldl (fun m k => m + Memory.value t.mem (hot + 4 * k) 4) 0
    let cleared := fun (ks : List Nat) => ks.foldl (fun (t : Machine.State) k => t.poke (hot + 4 * k) (leBytes 4 0) 4) s
    let ks := if sel = 3 then [0, 1, 2] else [sel]
    (s.privatePage pa = true → s.poisonAt at_ 4 = none → s.unserved false at_ = false →
      (n = 0xFFFFFFFF → Machine.exec (.pgshare a) s = completes s s ∧ Machine.exec (.pgdrop a) s = completes s s) ∧
      (n < 0xFFFFFFFF → Machine.exec (.pgshare a) s = completes s (s.poke at_ (leBytes 4 (n + 1)) 4)) ∧
      (n = 0 → Machine.exec (.pgdrop a) s = completes s s) ∧
      (1 < n → n < 0xFFFFFFFF → Machine.exec (.pgdrop a) s = completes s (s.poke at_ (leBytes 4 (n - 1)) 4)) ∧
      (n = 1 → list = 0 → Machine.exec (.pgdrop a) s = completes s (s.poke at_ (leBytes 4 0) 4)) ∧
      (n = 1 → list ≠ 0 → Machine.exec (.pgdrop a) s =
        completes s ((s.poke at_ (leBytes 4 0) 4).fpPush list (BitVec.ofNat 64 pa)))) ∧
    (s.privatePage hpa = true → s.hart.hotbase = 0 → Machine.exec (.pghot d a) s = completes s (s.setX d 0)) ∧
    (s.privatePage hpa = true → s.hart.hotbase ≠ 0 → s.poisonAt hot 12 = none → s.unserved false hot = false →
      Machine.exec (.pghot d a) s = completes s ((cleared ks).setX d (BitVec.ofNat 64 (sum s ks)))) ∧
    (s.privatePage pa = false → ∀ i ∈ [Instr.pgshare a, .pgdrop a],
      Machine.exec i s = traps s ⟨0x07, s.x a, [⟨pageOf (s.x a), 4⟩], 0, true, false⟩)

/-- pgmove: the hart waits with its page marked as moving in every other access's way, and completes once its move is no longer
under way; a target that may not receive a page, or a page that may not be moved, is a fault. That the page kinds of these
faults are 4 and 3 is the model's reading (log entry 58). -/
def Obligations.PageMoves : Prop :=
  ∀ (s : Machine.State) (a b : BitVec 5), Ready s → s.hart.priv = .s →
    let va := s.x a
    let new := (s.x b).toNat
    let fault := fun (code : BitVec 8) (kind : BitVec 4) =>
      Machine.exec (.pgmove a b) s = traps s ⟨code, va, [⟨pageOf va, kind⟩], 0, true, false⟩
    (∀ v e at_ n c, s.hart.status = .waiting (.move v at_ e n) c → (∀ m ∈ s.pageMoves, m.hart ≠ s.hart.id) →
      Machine.exec (.pgmove a b) s = completes s s) ∧
    (∀ e at_, s.hart.status = .running → Alone s → (∀ w ∈ onWay s, overlaps (ptePa e) 65536 w.pa w.bytes.length = false) →
      (∀ q ∈ s.pubs, overlaps (ptePa e) 65536 q.pa 8 = false) →
      (∀ h ∈ s.others, ∀ x, h.pass = some x → ∀ k ∈ x.pins, overlaps (ptePa e) 65536 k.pa 65536 = false) →
      new % 65536 = 0 → s.moveTarget new = true → canonical va = true → s.walk s.hart.ptbase va = .leaf e 16 at_ →
      pteSh e = false → pteM e = false → ptePa e ≠ new →
      Machine.exec (.pgmove a b) s = waits s (.move (pageOf va) at_ e new)) ∧
    (s.hart.status = .running →
      (new % 65536 ≠ 0 ∨ s.moveTarget new = false → fault 0x07 4) ∧
      (new % 65536 = 0 → s.moveTarget new = true →
        (canonical va = false → fault 0x06 2) ∧
        (canonical va = true → s.walk s.hart.ptbase va = .bad → fault 0x06 1) ∧
        (canonical va = true → s.walk s.hart.ptbase va = .denied → fault 0x07 4) ∧
        (∀ u, canonical va = true → s.walk s.hart.ptbase va = .poisoned u →
          Machine.exec (.pgmove a b) s = traps s { consumed u with commit := true }) ∧
        (∀ pa, canonical va = true → s.walk s.hart.ptbase va = .blocked pa →
          Machine.exec (.pgmove a b) s = waits s (.trunk [lineOf pa] false)) ∧
        (∀ e lg at_, canonical va = true → s.walk s.hart.ptbase va = .leaf e lg at_ →
          (lg ≠ 16 ∨ pteSh e = true → fault 0x07 3) ∧
          (lg = 16 → pteSh e = false → ptePa e = new → fault 0x07 4) ∧
          (lg = 16 → pteSh e = false → ptePa e ≠ new → pteM e = true →
            Machine.exec (.pgmove a b) s = waits s .otherMove))))

/-- mfcmp: a Manifest that is not one gives −2, one without installed keys −3, one whose signatures do not verify −1, and a
verified one 0 or the number of the lowest selected field that differs from the device; rd alone changes, and the caches hold
the lines it read. -/
def Obligations.ManifestCompare : Prop :=
  ∀ (s : Machine.State) (d a : BitVec 5) (pa : Nat), Ready s → (s.x a).toNat % 64 = 0 →
    Reaches s .read true (s.x a) 2048 pa → regionOf (pa / 65536 * 65536) ≠ .regs → Sound s pa 2048 →
    (∀ k, k < 2048 → s.unserved false (pa + k) = false) → Follows s .scalar [(pa, 2048)] →
    let bs := (List.range 2048).map fun k => s.readByte .scalar (pa + k)
    let at_ := fun (o n : Nat) => (bs.drop o).take n
    let mask := leNat (at_ 4 4)
    let formed := leNat (at_ 0 4) = 1 ∧ mask % 2 = 0 ∧ mask < 2 ^ 14 ∧ (∀ b ∈ at_ 0x148 0x38, b = 0) ∧ ∀ b ∈ at_ 0x78C 0x74, b = 0
    let miss := ((List.range 32).map fun k => (pa + 64 * k, 64)).filter fun p => !s.inL1d p.1
    let gives := fun (v : Int) => Machine.exec (.mfcmp d a) s =
      completes s (((s.fillL1d 0 miss).fillL2 false miss).setX d (BitVec.ofInt 64 v))
    let differs := fun (f : Nat × Nat × List Byte) => mask.testBit f.1 ∧ at_ f.2.1 f.2.2.length ≠ f.2.2
    (¬formed → gives (-2)) ∧
    (formed → s.mbox.keys = none → gives (-3)) ∧
    (∀ e l, formed → s.mbox.keys = some (e, l) →
      let ok := Config.manifestVerifies (at_ 0 0x180) (at_ 0x180 0x60) (at_ 0x1E0 0x5AC) e l
      (ok = false → gives (-1)) ∧
      (ok = true → (∀ f ∈ s.manifestFields (some s.hart), ¬differs f) → gives 0) ∧
      (ok = true → ∀ p f r, s.manifestFields (some s.hart) = p ++ f :: r → (∀ g ∈ p, ¬differs g) → differs f → gives f.1))

/-- Length-setting instructions: on a grant that R36 makes, VTYPE, MVL and VL take their new values, VSTART is 0, and rd
receives VL; vsetvl with a reserved VTYPE value is an illegal instruction; without a free lane group the hart waits; and vsetvlw
waits first until the doubleword at WWAIT, as the hart's core sees it, has reached its bound. A hart that waited for its grant,
or for its bound, completes so in the step that ends the wait. That this read finds what the queue of its core holds, and what a
reclaim during a wait keeps, are the model's reading (log entry 68). -/
def Obligations.LengthSetting : Prop :=
  ∀ (s : Machine.State) (d a b : BitVec 5) (v : BitVec 13), Ready s →
    let avl := if a = 0 then BitVec.allOnes 64 else s.x a
    let mvl := fun (g : BitVec 4) (vt : BitVec 13) =>
      (if s.hart.prot then 4 else 8) * ((List.range 4).countP fun k => g.getLsbD k) * (256 / sewOf vt) * lmulOf vt
    let vl := fun (g : BitVec 4) (vt : BitVec 13) =>
      let n := min avl.toNat (mvl g vt)
      if blkOf vt then n - n % 16 else n
    let set := fun (g : BitVec 4) (short : Nat) (vt : BitVec 13) => (lengthened s g short vt (mvl g vt) (vl g vt)).setX d (BitVec.ofNat 64 (vl g vt))
    let sets := fun (i : Instr) (vt : BitVec 13) =>
      (∀ g short, s.grant vt = .some g short → Machine.exec i s = completes s (set g short vt)) ∧
      (∀ w, s.grant vt = .wait w → Machine.exec i s = waits s w) ∧
      (∀ g short, s.grant vt = .some g short → AtWord s i →
        ((∃ n, Waits s (.lanes n)) ∨ Waits s .handover → Machine.exec (.parkedHartGrant s.hart.id) s = completes s (set g short vt)) ∧
        ((∃ ls, Waits s (.watermark ls)) → Machine.exec (.vsetvlwSatisfied s.hart.id) s = completes s (set g short vt)))
    let ok := (s.x b).getLsbD 2 = false ∧ (s.x b).getLsbD 5 = false ∧ (s.x b).extractLsb' 6 2 ≠ 3 ∧ (s.x b).getLsbD 9 = false ∧
      (s.x b).toNat < 2 ^ 13
    sets (.vsetvli d a v) v ∧
    (ok → sets (.vsetvl d a b) ((s.x b).extractLsb' 0 13)) ∧
    (¬ok → Machine.exec (.vsetvl d a b) s = traps s s.illegal) ∧
    (s.hart.wwait = 0 → sets (.vsetvlw d a v) v) ∧
    (s.hart.wwait.toNat % 8 ≠ 0 → Machine.exec (.vsetvlw d a v) s = traps s (Trap.plain 0x03 s.hart.wwait)) ∧
    (∀ pa, s.hart.wwait ≠ 0 → s.hart.wwait.toNat % 8 = 0 → Reaches s .read true s.hart.wwait 8 pa → Sound s pa 8 →
      s.unserved false pa = false → Follows s .scalar [(pa, 8)] →
      ((s.x d).toNat ≤ valueAt s .scalar pa 8 → sets (.vsetvlw d a v) v) ∧
      (valueAt s .scalar pa 8 < (s.x d).toNat → Machine.exec (.vsetvlw d a v) s = waits s (.watermark [])))

/-- What a length-setting instruction is granted: the groups that the hart holds under DET, or while a resumption is pending;
else, where none of its groups is named for reclaim and none is on its way to it, as many groups as it requests, kept ones
before free ones of its core, and no others; and with neither a kept nor a free one it waits. A group that LPR gives it already
and that another hart still holds is waited for; groups named for reclaim are given up, and with none left it waits. Free for it
are the free groups of the core and, by the model's reading (log entry 53), those that it gave up itself with vrel, but for as
many as harts whose requests go before its own still take (log entry 86). vrel: the hart holds no group, VL and MVL are 0, and
the registers but p0 hold what nothing states; its groups are on their way back to the core. Under DET it keeps its groups.
Registers that hold what nothing states are free values (log entry 6). -/
def Obligations.GrantRule : Prop :=
  (∀ (s : Machine.State) (v : BitVec 13), s.hart.status ≠ .gone →
    let h := s.hart
    let count := fun (g : BitVec 4) => (List.range 4).countP fun k => g.getLsbD k
    let asked := match (v.extractLsb' 11 2).toNat with | 0 => h.request | 1 => 1 | 2 => 2 | _ => 4
    let req := min (max asked h.lgmin) h.lgmax
    let mine := fun (k : Nat) => h.gmask.getLsbD k = false ∧ lprOwner (s.lprOf h.core) k = some h.slot ∧ k ∉ s.givenUp
    let n := count h.gmask + s.freeHere.length
    let free := (List.range 4).filter fun k => s.groupFree h.core k false || s.givenUp.contains k
    (h.det = true ∨ h.tstatus.getLsbD 1 = true → s.grant v = .some h.gmask 0) ∧
    (h.det = false → h.tstatus.getLsbD 1 = false → (∃ k, k < 4 ∧ mine k ∧ s.groupHeld h.core k = true) →
      s.grant v = .wait .handover) ∧
    (h.det = false → h.tstatus.getLsbD 1 = false → s.namedGroups ≠ [] → (∀ k, k < 4 → ¬mine k) →
      ((∀ k, k < 4 → h.gmask.getLsbD k = true → k ∈ s.namedGroups) → s.grant v = .wait (.lanes req)) ∧
      (∀ j, j < 4 → h.gmask.getLsbD j = true → j ∉ s.namedGroups → ∃ g, s.grant v = .some g 0 ∧
        ∀ k, k < 4 → (g.getLsbD k = true ↔ h.gmask.getLsbD k = true ∧ k ∉ s.namedGroups))) ∧
    s.freeHere.length =
      free.length - ((s.others.filter fun o => o.core == h.core && asksFirst o h).map fun o => s.awaited o).sum ∧
    (∀ k ∈ s.freeHere, k ∈ free) ∧
    (h.det = false → h.tstatus.getLsbD 1 = false → s.namedGroups = [] → 0 < req → (∀ k, k < 4 → ¬mine k) →
      (∀ k ∈ s.givenUp, h.gmask.getLsbD k = false) →
      (n = 0 → s.grant v = .wait (.lanes req)) ∧
      (0 < n → ∃ g, s.grant v = .some g (req - min req n) ∧ count g = min req n ∧
        (∀ k, k < 4 → g.getLsbD k = true → h.gmask.getLsbD k = true ∨ k ∈ s.freeHere) ∧
        (count h.gmask ≤ req → ∀ k, h.gmask.getLsbD k = true → g.getLsbD k = true) ∧
        (req ≤ count h.gmask → ∀ k, g.getLsbD k = true → h.gmask.getLsbD k = true)))) ∧
  (∀ (s : Machine.State), Ready s → ∃ v side p, p[0] = s.hart.p[0] ∧
    let own := (List.range 4).filter fun k => s.hart.gmask.getLsbD k && lprOwner (s.lprOf s.hart.core) k == some s.hart.slot
    Machine.exec .vrel s = completes s { s with
      relPend := if s.hart.det then s.relPend else s.relPend ++ own.map fun k => 4 * s.hart.core + k
      fresh := s.fresh + 96
      hart := { s.hart with
        vl := 0
        mvl := 0
        gmask := if s.hart.det then s.hart.gmask else 0
        reclaimAt := none
        vdead := true
        v := v
        side := side
        p := p } })

/-- What a change of the granted groups keeps under the same element width and grouping: the elements below VL and below the MVL
of the old and of the new grant, of the groups that VCARRY names, with the side-array entries of their blocks, the bits below
them of the predicates that PCARRY names, and p0; no other register of the hart but its grant and its vector and predicate
registers changes. -/
def Obligations.GrantCarries : Prop :=
  ∀ (s : Machine.State) (g : BitVec 4), g ≠ s.hart.gmask →
    let h := s.hart
    let t := (s.regrant g true).hart
    let m := lmulOf h.vtype
    let keep := min h.vl.toNat (min (h.mvlOf h.vtype) (t.mvlOf h.vtype))
    t.gmask = g ∧ t.p[0] = h.p[0] ∧
    { t with gmask := h.gmask, v := h.v, side := h.side, p := h.p } = h ∧
    (∀ (i : Fin 64) e, h.pcarry.getLsbD i.val = true → e < keep → t.p[i].getLsbD e = h.p[i].getLsbD e) ∧
    (∀ v e, v < 32 → h.vcarry.getLsbD v = true → v % m = 0 → e < keep → t.elem h.sew v e = h.elem h.sew v e) ∧
    (∀ v b, v < 32 → h.vcarry.getLsbD v = true → v % m = 0 → b < (keep + 15) / 16 → t.entry h.sew v b = h.entry h.sew v b)

/-- smb: the pointers m0 to m3 advance by their strides and the count falls by VL; with elements left the next length is set and
the convoy jumps back, and without it VL and VSTART are 0 and the hart goes on; either way it is a strip boundary; with PUBLISH
the publication of VL is on its way. -/
def Obligations.StripLoop : Prop :=
  ∀ (s : Machine.State) (c : BitVec 5) (k l m n : BitVec 3) (b : BitVec 8) (p : BitVec 1), Ready s →
    let vl := s.hart.vl.toNat
    let stride := fun (q : BitVec 3) => if q.toNat < 6 then [0, 1, 2, 4, 8, 16][q.toNat]?.getD 0 * vl else s.strideOf q vl
    let moved := fun (t : Machine.State) (r : BitVec 5) (q : BitVec 3) => t.setX r (t.x r + BitVec.ofNat 64 (stride q))
    let rc := s.x c - BitVec.ofNat 64 vl
    let t := (moved (moved (moved (moved s 12 k) 13 l) 14 m) 15 n).setX c rc
    let mvl := fun (g : BitVec 4) =>
      (if s.hart.prot then 4 else 8) * ((List.range 4).countP fun j => g.getLsbD j) * (256 / sewOf s.hart.vtype) * lmulOf s.hart.vtype
    let left := fun (g : BitVec 4) =>
      let q := min rc.toNat (mvl g)
      if blkOf s.hart.vtype then q - q % 16 else q
    let ends := fun (u : Machine.State) (pc : Word) (ps : List Pub) => Machine.exec (.smb c k l m n b p) s = .next { u with
      hart := leave s.hart u.hart pc 0
      conv := Convoy.fresh
      pubs := u.pubs ++ ps }
    let does := fun (ps : List Pub) =>
      (rc.toInt ≤ 0 → ends (({ t with hart := { t.hart with vl := 0, vstart := 0 } } : Machine.State).order [stripOrder s])
        (s.hart.pc + 4) ps) ∧
      (∀ g short, 0 < rc.toInt → t.grant s.hart.vtype = .some g short →
        ends (lengthened t g short s.hart.vtype (mvl g) (left g))
          (if 0 < left g then s.hart.pc - BitVec.ofNat 64 (4 * b.toNat) else s.hart.pc + 4) ps) ∧
      (∀ w, 0 < rc.toInt → t.grant s.hart.vtype = .wait w → Machine.exec (.smb c k l m n b p) s = waits s w)
    ((p = 0 ∨ vl = 0 ∨ s.hart.wmark = 0) → does []) ∧
    (∀ pa, p = 1 → 0 < vl → s.hart.wmark ≠ 0 → s.hart.wmark.toNat % 8 = 0 → Reaches s .write true s.hart.wmark 8 pa →
      does [⟨s.hart.id, BitVec.zeroExtend 64 s.hart.gangid, s.hart.hartix, s.hart.seq, s.hart.cores, pa, BitVec.ofNat 64 vl,
        s.hart.route, s.transOf s.hart.ptbase s.hart.wmark, false, s.cycle⟩]) ∧
    (p = 1 → 0 < vl → s.hart.wmark ≠ 0 → s.hart.wmark.toNat % 8 ≠ 0 →
      Machine.exec (.smb c k l m n b p) s = traps s (Trap.plain 0x03 s.hart.wmark))

/-- Vector loads of readable, sound memory complete: each active element of vd receives its stored element, copied or converted
as its MFC says; with VL 0 nothing is accessed; a fault-only-first load whose fault lies above its first active element
completes below the fault, with VL lowered to it; and an expanding load takes the groups of its stream, sets VL and advances
rs1. The L2 of the hart's die allocates the lines read where they may be cached and no hint prevents it (log entry 17). The
groups of a compressed stream: each begins with a 16-bit mask, followed by the elements that it names, and a group is taken only
where all of it lies within the budget. -/
def Obligations.VectorLoads : Prop :=
  (∀ (s : Machine.State) (d a b : BitVec 5) (p : BitVec 4) (f t2 : BitVec 2) (n1 : BitVec 1) (m : MemFmt), Ready s →
    GroupsFit s [d] →
    let sew := s.hart.sew
    let size := m.size sew
    let at_ := fun (i : Nat) => s.x a + BitVec.ofNat 64 i * s.x b
    let loaded := fun (s : Machine.State) (raw : Nat → Nat) =>
      match m.stored, m.reg with
      | some sf, some rf =>
        if rf.isBx then s.putLoad m d.toNat p raw
        else if m.copies then s.putElems sew d.toNat p fun i => (if sf = Fmt.int4 then intContainer .int4 (decInt .int4 (raw i)) else raw i, 0)
        else s.putVals rf s.hart.frm m.sat d.toNat p fun i => ⟨(m.exact i (raw i)).scale m.power, 0, sf.isInt⟩
      | _, _ => s.putElems sew d.toNat p fun i => (raw i, 0)
    let unit := fun (s : Machine.State) (P : Word → Nat) (L : Word → Word) =>
      let ts := (s.actives p).flatMap fun i => m.unitTouch sew (s.x a) i
      (loaded (s.fillL2 (n1 == 1) (ts.flatMap (piecesAt P))) fun i =>
        m.rawOf i (readAt s P (m.unitAddr sew (s.x a) i) (m.unitSize sew))).addHot 0 (pagesOf P L ts) ts
    let whole := fun (s : Machine.State) => (s.actives p).map fun i => (⟨i, m.unitAddr sew (s.x a) i, m.unitSize sew⟩ : Touch)
    (s.hart.vl = 0 → ∀ j ∈ [Instr.vld d a p f n1 t2, .vlds d a b p f n1 t2, .vldff d a p f n1 t2], Machine.exec j s = completes s s) ∧
    (∀ P L, s.hart.vl ≠ 0 → MemFits s f false m → Maps s s.hart.ptbase .read (whole s) P L → Clean s P (whole s) →
      Machine.exec (.vld d a p f n1 t2) s = completes s (unit s P L) ∧
      Machine.exec (.vldff d a p f n1 t2) s = completes s (unit s P L)) ∧
    (∀ P L, s.hart.vl ≠ 0 → MemFits s f true m →
      let ts := (s.actives p).map fun i => (⟨i, at_ i, size⟩ : Touch)
      Maps s s.hart.ptbase .read ts P L → Clean s P ts →
      Machine.exec (.vlds d a b p f n1 t2) s =
        completes s ((loaded (s.fillL2 (n1 == 1) (ts.flatMap (piecesAt P))) fun i =>
          readAt s P (at_ i) size).addHot 1 (pagesOf P L ts) ts)) ∧
    (∀ P L k first c kd, s.hart.vl ≠ 0 → MemFits s f false m → k ∈ s.actives p →
      (∃ t ∈ m.unitTouch sew (s.x a) k, ∃ q ∈ pagesAt t.va t.n,
        s.translate s.hart.core s.hart.ptbase s.hart.priv .read false q = .fault c kd) →
      (∀ j ∈ s.actives p, ∀ t ∈ m.unitTouch sew (s.x a) j, ∀ q ∈ pagesAt t.va t.n,
        ∀ u, s.translate s.hart.core s.hart.ptbase s.hart.priv .read false q ≠ .poison u ∧
          s.translate s.hart.core s.hart.ptbase s.hart.priv .read false q ≠ .blocked u) →
      s.lowestActive p = some first →
      let cut := if blkOf s.hart.vtype then k - k % 16 else k
      first < cut →
      let t : Machine.State := { s with hart := { s.hart with vl := BitVec.ofNat 14 cut } }
      (∀ j ∈ s.actives p, j < k → ∀ t ∈ m.unitTouch sew (s.x a) j, ∀ q ∈ pagesAt t.va t.n,
        s.translate s.hart.core s.hart.ptbase s.hart.priv .read false q = .pa (P q) (L q)) →
      Maps s s.hart.ptbase .read (whole t) P L → Clean s P (whole t) →
      Machine.exec (.vldff d a p f n1 t2) s = completes s (unit t P L)) ∧
    (∀ P L, MemFits s f true m →
      let budget := (s.x b).toNat
      let groups := s.hart.mvl.toNat / 16
      let range := min budget (groups * (2 + 16 * size))
      (budget < 2 ∨ groups = 0 →
        Machine.exec (.vldz d a b p f n1 t2) s = completes s { s with hart := { s.hart with vl := 0 } }) ∧
      let read := fun (off k : Nat) => readAt s P (s.x a + BitVec.ofNat 64 off) k
      let r := streamGroups read size budget groups 0
      let bytes := if r.1.length < groups ∧ r.2 + 2 ≤ budget then r.2 + 2 else r.2
      (2 ≤ budget → 0 < groups → Maps s s.hart.ptbase .read [⟨0, s.x a, range⟩] P L → Clean s P [⟨0, s.x a, bytes⟩] →
        let g := s.fillL2 (n1 == 1) (piecesAt P ⟨0, s.x a, bytes⟩)
        let t : Machine.State := { g with hart := { g.hart with vl := BitVec.ofNat 14 (16 * r.1.length) } }
        let u := (loaded t fun i => groupElem read size (r.1[i / 16]?.getD (0, 0)) (i % 16)).setX a (s.x a + BitVec.ofNat 64 r.2)
        ∃ hot : List Hot, (s.hart.hotbase = 0 → hot = []) ∧ (∀ h ∈ hot, h.counter = 0) ∧
          Machine.exec (.vldz d a b p f n1 t2) s = completes s { u with conv := { u.conv with hot := hot } }))) ∧
  (∀ (read : Nat → Nat → Nat) (size budget groups : Nat),
    let r := streamGroups read size budget groups 0
    r.1.length ≤ groups ∧ r.2 ≤ budget ∧
    (∀ g (h : g < r.1.length), ∃ off, r.1[g] = (read off 2, off + 2) ∧
      let c := (List.range 16).countP fun j => (read off 2).testBit j
      off + 2 + c * size ≤ budget ∧
      (if h' : g + 1 < r.1.length then (r.1[g + 1]'h').2 = off + 2 + c * size + 2 else r.2 = off + 2 + c * size)) ∧
    (r.1.length < groups → budget < r.2 + 2 ∨
      budget < r.2 + 2 + ((List.range 16).countP fun j => (read r.2 2).testBit j) * size))

/-- Vector stores to writable memory complete: each active element's stored form is written where the form's addresses place it,
in ascending order, and nothing else; a partial block of a block format is read and written back whole; a compressing store
writes its groups within the budget, lowers VL to them and advances rs1. -/
def Obligations.VectorStores : Prop :=
  ∀ (s : Machine.State) (d a b : BitVec 5) (p : BitVec 4) (f t : BitVec 2) (n1 : BitVec 1) (m : MemFmt) (P : Word → Nat)
    (L : Word → Word), Ready s → GroupsFit s [d] →
    let sew := s.hart.sew
    let size := m.size sew
    let els := s.actives p
    let bits := fun (i : Nat) => (s.storeBits m d.toNat i).1
    let raised := els.foldl (fun k i => k ||| (s.storeBits m d.toNat i).2) (0 : BitVec 7)
    let at_ := fun (i : Nat) => s.x a + BitVec.ofNat 64 i * s.x b
    let stores := fun (j : Instr) (counter : Nat) (ts : List Touch) (ps : List (Nat × WByte)) (fx : BitVec 7) =>
      s.hart.vl ≠ 0 → Maps s s.hart.ptbase .write ts P L → ∃ ws, Puts s false ws ps ∧
        Machine.exec j s = completes s (((s.addWrites ws).flag fx).addHot counter (pagesOf P L ts) ts)
    let unit := m.unitAddr sew (s.x a)
    let ts := els.map fun i => (⟨i, unit i, m.unitSize sew⟩ : Touch)
    (s.hart.vl = 0 → ∀ j ∈ [Instr.vst d a p f n1 t, .vsts d a b p f n1 t], Machine.exec j s = completes s s) ∧
    (MemFits s f false m → (∀ k, m.stored = some k → k.isBx = false ∧ k ≠ .int4) →
      stores (.vst d a p f n1 t) 0 ts (els.flatMap fun i => putsAt P (unit i) (leBytes (m.unitSize sew) (bits i))) raised) ∧
    (MemFits s f false m → m.stored = some .int4 →
      stores (.vst d a p f n1 t) 0 ts (els.map fun i =>
        let sh := 4 * ((m.skip + i) % 2)
        (byteAt P (unit i), ⟨BitVec.ofNat 8 (bits i * 2 ^ sh), BitVec.ofNat 8 (15 * 2 ^ sh)⟩)) raised) ∧
    (∀ k, MemFits s f false m → m.stored = some k → k.isBx = true → (∀ t ∈ ts, ∀ q ∈ piecesAt P t, Sound s q.1 q.2) →
      let blocks := (List.range ((m.skip + s.hart.vln + 15) / 16)).filter fun q => els.any fun i => (m.skip + i) / 16 == q
      let place := fun (q : Nat) => s.x a + BitVec.ofNat 64 (q * k.blockBytes)
      let image := fun (q : Nat) => s.storeBlock m k d.toNat q (fun i => els.contains i) (readAt s P (place q) k.blockBytes)
      stores (.vst d a p f n1 t) 0 ts (blocks.flatMap fun q => putsAt P (place q) (image q).1)
        (blocks.foldl (fun x q => x ||| (image q).2) 0)) ∧
    (MemFits s f true m →
      stores (.vsts d a b p f n1 t) 1 (els.map fun i => ⟨i, at_ i, size⟩)
        (els.flatMap fun i => putsAt P (at_ i) (leBytes size (bits i))) raised) ∧
    (MemFits s f true m → s.hart.vl = 0 → Machine.exec (.vstz d a b p f n1 t) s = completes s s) ∧
    (MemFits s f true m → s.hart.vl ≠ 0 →
      let vl := s.hart.vln
      let from_ := s.hart.vstart.toNat
      let act := fun (i : Nat) => from_ ≤ i && i < vl && s.hart.pbit p.toNat i
      let budget := (s.x b).toNat
      let gs := compressGroups (fun i => act i && bits i != 0) bits size vl budget ((vl + 15) / 16) 0 0
      let range := min budget ((vl + 15) / 16 * (2 + 16 * size))
      let done := min vl (16 * gs.length)
      let fx := (List.range vl).foldl (fun k i =>
        if act i && i < done then k ||| (s.storeBits m d.toNat i).2 else k) (0 : BitVec 7)
      Maps s s.hart.ptbase .write (if range = 0 then [] else [⟨0, s.x a, range⟩]) P L → ∃ (ws : List Write) (hot : List Hot),
        Puts s false ws ((List.range gs.length).flatMap fun g =>
          putsAt P (s.x a + BitVec.ofNat 64 (gs[g]?.getD (0, [])).1) (gs[g]?.getD (0, [])).2) ∧
        (s.hart.hotbase = 0 → hot = []) ∧ (∀ h ∈ hot, h.counter = 0) ∧
        let u := ((({ s with hart := { s.hart with vl := BitVec.ofNat 14 done } } : Machine.State).setX a
          (s.x a + BitVec.ofNat 64 (gs.foldl (fun k g => k + g.2.length) 0))).addWrites ws).flag fx
        Machine.exec (.vstz d a b p f n1 t) s = completes s { u with conv := { u.conv with hot := hot } })

/-- Gathers and scatters complete: each active element is read from or written to its place by its index, or in its row of a
permuted set; the versions of permuted rows reach PSVLO and PSVHI; and a recorded gather is offered to its slot. At VL 0 they
access nothing, with any slot. The L2 of the hart's die allocates the lines that a gather reads, and those of FWD that are read
for a slot (log entry 17). That a permuted scatter is performed as its convoy retires, and which version an element carries, are
the model's choices (log entries 11 and 83). -/
def Obligations.GathersAndScatters : Prop :=
  ∀ (s : Machine.State) (d a b : BitVec 5) (p : BitVec 4) (f sl : BitVec 2) (c n1 n2 : BitVec 1) (m : MemFmt) (space : BitVec 61)
    (items : List Item) (P : Word → Nat) (L : Word → Word), Ready s → GroupsFit s [d, b] →
    (s.hart.vl = 0 → ∀ j ∈ [Instr.vgat d a b p f sl c n1 n2, .vsca d a b p f sl n1 n2], Machine.exec j s = completes s s) ∧
    (s.hart.vl ≠ 0 → MemFits s f true m → s.hart.gathered = [] →
    let size := m.size s.hart.sew
    let els := s.indices b p
    let ts := items.map fun x => x.t
    Indexed s sl els (s.x a) size space items →
    (sl ≠ 0 → ∀ t ∈ ts, ∀ q ∈ pagesAt t.va t.n, s.privatePage (P q) = true) →
    (Maps s space .read ts P L → Clean s P ts →
      let place := fun (i : Nat) => ((items.find? fun x => x.t.el == i).map fun x => x.t.va).getD 0
      let t := versioned ((s.putLoad m d.toNat p fun i => readAt s P (place i) size).addHot 2 (pagesOf P L ts) ts) items
      ∃ l2 : List (Nat × Nat), (sl = 0 → l2 = (s.fillL2 (n1 == 1) (ts.flatMap (piecesAt P))).l2) ∧ (∀ e ∈ s.l2, e ∈ l2) ∧
        (∀ e ∈ l2, e ∈ s.l2 ∨ e.1 = dieOf s.hart.core) ∧
        (c = 0 ∨ sl = 0 ∨ els = [] → Machine.exec (.vgat d a b p f sl c n1 n2) s = completes s { t with l2 := l2 }) ∧
        (c = 1 → sl ≠ 0 → els ≠ [] → Machine.exec (.vgat d a b p f sl c n1 n2) s =
          completes s (({ t with l2 := l2 } : Machine.State).recordSample (sl.toNat, distinctRows (els.map fun e => e.2))))) ∧
    (Maps s space .write ts P L → (sl ≠ 0 → Alone s ∧ (∀ t ∈ ts, ∀ q ∈ piecesAt P t, Open s q.1 q.2) ∧
        ∀ set, s.boundSet sl = some set → ∀ e ∈ els, ∀ m ∈ set.moves, m.row = e.2 → m.st ≠ .locked) →
      ∃ (ws : List Write) (l2 : List (Nat × Nat)), (sl = 0 → l2 = s.l2) ∧ (∀ e ∈ s.l2, e ∈ l2) ∧
      (∀ e ∈ l2, e ∈ s.l2 ∨ e.1 = dieOf s.hart.core) ∧
      Puts s (sl != 0) ws (items.flatMap fun x => putsAt P x.t.va (leBytes size (s.storeBits m d.toNat x.t.el).1)) ∧
      let fx := items.foldl (fun k x => k ||| (s.storeBits m d.toNat x.t.el).2) (0 : BitVec 7)
      Machine.exec (.vsca d a b p f sl n1 n2) s =
        completesNow s { versioned (((s.addWrites ws).flag fx).addHot 2 (pagesOf P L ts) ts) items with l2 := l2 }))

/-- Vector atomics on sound memory with nothing of the core still on its way: the fetching forms give each active element the
value that it found and write the new one, one element after another in ascending order; the ordered updates write alike and
leave vd as it is; and both are complete only with their writes performed, as far as they can be. At VL 0 nothing happens, and
an element width other than 32 and 64 is a format fault. That their writes are performed as the convoy retires, and which
version a permuted element carries, are the model's choices (log entries 11 and 83). With a slot, the L2 of the hart's die may
allocate lines of FWD that were read for it (log entry 17). Vector waits: a wait whose condition every active element meets
completes with nothing written, and one that some element does not meet waits, to complete in the round in which all do. That
the versions of that round's permuted elements reach PSVLO and PSVHI, and which versions they are, are the model's choices (log
entries 80 and 83). With a slot, the L2 of the hart's die may allocate lines of FWD that were read for it (log entry 17). -/
def Obligations.VectorAtomics : Prop :=
  (∀ (s : Machine.State) (d a b : BitVec 5) (p : BitVec 4) (q r : BitVec 1) (sl : BitVec 2) (space : BitVec 61)
    (items : List Item) (P : Word → Nat) (L : Word → Word), Ready s → GroupsFit s [d, b] →
    let h := s.hart
    let w := h.sew
    let S := fun (x : Nat) => (BitVec.ofNat w x).toInt
    let op := fun (f : Nat → Nat → Nat) (i old : Nat) => some (f old (h.elem w d.toNat i))
    let add := op fun old x => (old + x) % 2 ^ w
    let band := op fun old x => old &&& x
    let bor := op fun old x => old ||| x
    let bxor := op fun old x => old ^^^ x
    let smin := op fun old x => if S x < S old then x else old
    let smax := op fun old x => if S old < S x then x else old
    let umin := op fun old x => min old x
    let umax := op fun old x => max old x
    let swap := op fun _ x => x
    let m := lmulOf h.vtype
    let cas := fun (i old : Nat) => if old = h.elem w (d.toNat + m) i then some (h.elem w d.toNat i) else none
    let fits := d.toNat + 2 * m ≤ 32
    let fetching := [(Instr.vaadd d a b p q r sl, add), (.vaand d a b p q r sl, band), (.vaor d a b p q r sl, bor),
      (.vaxor d a b p q r sl, bxor), (.vamin d a b p q r sl, smin), (.vamax d a b p q r sl, smax), (.vaminu d a b p q r sl, umin),
      (.vamaxu d a b p q r sl, umax), (.vaswap d a b p q r sl, swap)] ++ if fits then [(.vacas d a b p q r sl, cas)] else []
    let updating := [(Instr.vuadd d a b p q r sl, add), (.vuand d a b p q r sl, band), (.vuor d a b p q r sl, bor),
      (.vuxor d a b p q r sl, bxor), (.vumin d a b p q r sl, smin), (.vumax d a b p q r sl, smax), (.vuminu d a b p q r sl, umin),
      (.vumaxu d a b p q r sl, umax)]
    (h.vl = 0 → ∀ e ∈ fetching ++ updating, Machine.exec e.1 s = completes s s) ∧
    (¬fits → Machine.exec (.vacas d a b p q r sl) s = traps s s.illegal) ∧
    (h.vl ≠ 0 → w ≠ 32 → w ≠ 64 → ∀ e ∈ fetching ++ updating,
      Machine.exec e.1 s = traps s { Trap.plain 0x0A 0 with commit := true }) ∧
    (h.vl ≠ 0 → w = 32 ∨ w = 64 → Alone s → (∀ k ∈ s.sets, k.moves = []) →
      let ts := items.map fun x => x.t
      (∀ t ∈ ts, ∀ z ∈ piecesAt P t, Open s z.1 z.2) →
      Indexed s sl (s.indices b p) (s.x a) (w / 8) space items → (∀ t ∈ ts, t.va.toNat % (w / 8) = 0) →
      (sl ≠ 0 → (s.x a).toNat % (w / 8) = 0) →
      (sl ≠ 0 → ∀ t ∈ ts, ∀ z ∈ pagesAt t.va t.n, s.privatePage (P z) = true) →
      Maps s space .write ts P L → Maps s space .read ts P L → Clean s P ts →
      let run := fun (f : Nat → Nat → Option Nat) => atomicRun P (w / 8) f items fun x => s.readByte .vector x
      let wrote := fun (f : Nat → Nat → Option Nat) (ws : List Write) =>
        (∀ k ∈ ws, k.hart = h.id ∧ k.cls = .vector ∧ k.now = true) ∧
          ∀ x, overlay ws x (s.readByte .vector x) = (run f).1 x
      ∃ l2 : List (Nat × Nat), (sl = 0 → l2 = s.l2) ∧ (∀ e ∈ s.l2, e ∈ l2) ∧ (∀ e ∈ l2, e ∈ s.l2 ∨ e.1 = dieOf h.core) ∧
      (∀ e ∈ fetching, ∃ ws, wrote e.2 ws ∧
        let t := s.putElems w d.toNat p fun i => ((((run e.2).2.find? fun z => z.1 == i).map fun z => z.2).getD 0, 0)
        Machine.exec e.1 s = completesNow s
          { versioned ((t.addWrites ws).addHot 2 (pagesOf P L ts) ts) items with l2 := l2 }) ∧
      (∀ e ∈ updating, ∃ ws, wrote e.2 ws ∧
        Machine.exec e.1 s = completesNow s
          { versioned ((s.addWrites ws).addHot 2 (pagesOf P L ts) ts) items with l2 := l2 }))) ∧
  (∀ (s : Machine.State) (d a b : BitVec 5) (p : BitVec 4) (q : BitVec 1) (sl : BitVec 2) (space : BitVec 61)
    (items : List Item) (P : Word → Nat) (L : Word → Word), Ready s → GroupsFit s [d, b] →
    let h := s.hart
    let w := h.sew
    let S := fun (x : Nat) => (BitVec.ofNat w x).toInt
    let forms : List (Instr × (Nat → Nat → Prop)) := [(.vwaitEq d a b p q sl, fun x y => x = y),
      (.vwaitNe d a b p q sl, fun x y => x ≠ y), (.vwaitGe d a b p q sl, fun x y => S y ≤ S x),
      (.vwaitGeu d a b p q sl, fun x y => y ≤ x)]
    (h.vl = 0 → ∀ e ∈ forms, Machine.exec e.1 s = completes s s) ∧
    (h.vl ≠ 0 → w ≠ 32 → w ≠ 64 → ∀ e ∈ forms, Machine.exec e.1 s = traps s { Trap.plain 0x0A 0 with commit := true }) ∧
    (h.vl ≠ 0 → w = 32 ∨ w = 64 → Alone s →
      let ts := items.map fun x => x.t
      Indexed s sl (s.indices b p) (s.x a) (w / 8) space items → (∀ t ∈ ts, t.va.toNat % (w / 8) = 0) →
      (sl ≠ 0 → (s.x a).toNat % (w / 8) = 0) →
      (sl ≠ 0 → ∀ t ∈ ts, ∀ z ∈ pagesAt t.va t.n, s.privatePage (P z) = true) →
      Maps s space .read ts P L → Clean s P ts →
      let met := fun (c : Nat → Nat → Prop) => ∀ x ∈ items, c (readAt s P x.t.va (w / 8)) (h.elem w d.toNat x.t.el)
      ∃ l2 : List (Nat × Nat), (sl = 0 → l2 = s.l2) ∧ (∀ e ∈ s.l2, e ∈ l2) ∧ (∀ e ∈ l2, e ∈ s.l2 ∨ e.1 = dieOf h.core) ∧
      let t := { versioned (s.addHot 2 (pagesOf P L ts) ts) items with l2 := l2 }
      ∀ e ∈ forms,
        (met e.2 → Machine.exec e.1 s = completes s t) ∧
        (met e.2 → AtWord s e.1 → Waits s .watch →
          Machine.exec (.vwaitRound s.hart.id) s = completes s t) ∧
        (¬met e.2 → Machine.exec e.1 s = waits s .watch)))

/-- Matrix forms on readable, sound operands: each row of C and each active column receives its new value, from the K-sum of the
row of A and the column of B as the descriptor takes them: as stored, or at the level that narrow-first replay settles at, which
its counters record; a failing check is taken once more where the monitor's register allows it, and then traps. Over lines that
modules share each level is a step of its own, and the first pass leaves its translations to the later ones. The L2 of the
hart's die allocates the lines read (log entry 17). The step of one pass completes the instruction where that pass is accepted.
With K = 0 the forms without C write zero and the others nothing. A level of TVAL where no narrow format exists is left open
(log entry 54). -/
def Obligations.MatrixResults : Prop :=
  ∀ (s : Machine.State) (d a b : BitVec 5) (q : BitVec 2) (ta tb : BitVec 1) (fdw : BitVec 3) (P : Word → Nat) (L : Word → Word),
    Ready s → s.hart.pass = none →
    let h := s.hart
    let tr := trOf h.vtype
    let n := h.vln
    let cols := (List.range h.tileCols).filter fun j => h.pbit q.toNat j
    let st := h.ts[q.toNat]?.getD 0
    let side := fun (desc : Desc) (isA : Bool) =>
      if isA then (⟨desc.fa, s.x a, (st.extractLsb' 0 32).signExtend 64, ta == 0, List.range tr⟩ : Side2)
      else ⟨desc.fb, s.x b, (st.extractLsb' 32 32).signExtend 64, tb == 1, cols⟩
    let at_ := fun (o : Side2) (l k : Nat) => rowOf o.base o.stride o.along l k
    let place := fun (o : Side2) (l k : Nat) => (rowFmt o.f).unitAddr 8 (at_ o l k).1 (at_ o l k).2
    let value := fun (o : Side2) (l k : Nat) => (rowFmt o.f).exact (at_ o l k).2
      ((rowFmt o.f).rawOf (at_ o l k).2 (readAt s P (place o l k) ((rowFmt o.f).unitSize 8)))
    let line := fun (o : Side2) (l : Nat) => (List.range n).map fun k => value o l k
    let whole := fun (o : Side2) => o.lines.flatMap fun l =>
      (List.range n).map fun k => (⟨k, place o l k, (rowFmt o.f).unitSize 8⟩ : Touch)
    let readable := fun (desc : Desc) =>
      let ts := whole (side desc true) ++ whole (side desc false)
      Maps s h.ptbase .read ts P L ∧ Clean s P ts
    let hot := fun (t : Machine.State) (desc : Desc) =>
      let ts := (side desc true).touches n ++ (side desc false).touches n
      { t.addHot 1 (pagesOf P L ts) (kTouches (pagesOf P L ts) ts n) with l2 := (s.fillL2 false (ts.flatMap (piecesAt P))).l2 }
    let floats := [(Instr.mma d a b q ta tb fdw, TileOp.add), (.mmaz d a b q ta tb fdw, .set), (.mms d a b q ta tb fdw, .sub)]
    let ints := [(Instr.mmai d a b q ta tb fdw, false), (.mmaiz d a b q ta tb fdw, true)]
    (32 < d.toNat + tr → (∀ e ∈ floats, Machine.exec e.1 s = traps s s.illegal) ∧
      ∀ e ∈ ints, Machine.exec e.1 s = traps s s.illegal) ∧
    (∀ desc w, d.toNat + tr ≤ 32 → TileDesc s fdw false desc w → h.tileOk false ta tb desc = true →
      let zeros := completes s { s with hart := h.putTile d.toNat cols (List.replicate tr (cols.map fun _ => 0)) }
      let ra := (List.range tr).map (line (side desc true))
      let rb := cols.map fun j => (j, line (side desc false) j)
      let pass := fun (l : Option Nat) => passAt desc l ra rb
      let fails := fun (l : Option Nat) => if desc.chk then
        (pass l).2.2.firstFailure n (h.mck.extractLsb' 0 5).toNat (pass l).2.2.partials else none
      let new := fun (op : TileOp) (l : Option Nat) =>
        let xa := ra.map fun r => (lineAt desc.fa desc.rm l r).xs
        let xb := rb.map fun c => (lineAt desc.fb desc.rm l c.2).xs
        let out := (List.range tr).map fun i => (List.range cols.length).map fun j =>
          op.result (h.elem 32 (d.toNat + i) (cols[j]?.getD 0)) (kSum (xa[i]?.getD []) (xb[j]?.getD []))
        ({ s with hart := h.putTile d.toNat cols (out.map fun r => r.map fun x => x.1) } : Machine.State).flag
          (out.foldl (fun k r => r.foldl (fun k x => k ||| x.2) k) (0 : BitVec 7))
      let failure := fun (k : Nat) (l : BitVec 3) => traps s (Trap.plain 0x15 (BitVec.ofNat 64 (k + 131072 * l.toNat)))
      let shared := ∃ t ∈ (side desc true).touches n ++ (side desc false).touches n, ∃ p ∈ pagesAt t.va t.n, s.sharedPa (P p) = true
      let later := fun (l : Option Nat) (again : Bool) (o : Out) => ∃ pins,
        o = .next (s.setPass ⟨l, again, [], pins⟩) ∧ (∀ k ∈ pins, k.pa = P k.page ∧ k.leaf = L k.page) ∧
          pins.map (fun k => k.page) = touchPages ((side desc true).touches n ++ (side desc false).touches n)
      let fits := fun (l : Nat) => within (h.mb[desc.mbi]?.getD 0) (pass (some l)).1 (pass (some l)).2.1 (pass (some l)).2.2
      (n = 0 → ∀ e ∈ floats, Machine.exec e.1 s = if e.2 = .set then zeros else completes s s) ∧
      (n ≠ 0 → readable desc → ∀ e ∈ floats,
        (desc.nff = false → fails none = none → Machine.exec e.1 s = completes s (hot (new e.2 none) desc) ∧
          (AtWord s e.1 → Machine.exec (.passComplete h.id) s = completes s (hot (new e.2 none) desc))) ∧
        (desc.nff = true → fails (some desc.try_) = none → fits desc.try_ = true → AtWord s e.1 →
          let t := hot (new e.2 (some desc.try_)) desc
          Machine.exec (.passComplete h.id) s = completes s { t with hart := t.hart.countTile (desc.try_, false) }) ∧
        (∀ k, desc.nff = false → fails none = some k → ¬shared ∨ h.mck.getLsbD 5 = true →
          Machine.exec e.1 s = failure k (Config.plainLevel w)) ∧
        (desc.nff = true → (∀ l, fails (some l) = none) → ∀ l b, Replays desc (fun l => fits l = true) desc.try_ l b →
          ¬shared ∨ l = desc.try_ →
          let t := hot (new e.2 (some l)) desc
          Machine.exec e.1 s = completes s { t with hart := t.hart.countTile (l, b) }) ∧
        (∀ k, desc.nff = true → fails (some desc.try_) = some k → ¬shared ∨ h.mck.getLsbD 5 = true →
          Machine.exec e.1 s = failure k (BitVec.ofNat 3 desc.try_)) ∧
        (∀ l, desc.nff = true → shared → fails (some desc.try_) = none → fits desc.try_ = false → desc.nextLevel desc.try_ = some l →
          later (some l) false (Machine.exec e.1 s)) ∧
        (∀ k, shared → h.mck.getLsbD 5 = false → fails (if desc.nff then some desc.try_ else none) = some k →
          later (if desc.nff then some desc.try_ else none) true (Machine.exec e.1 s)))) ∧
    (∀ desc w, d.toNat + tr ≤ 32 → TileDesc s fdw true desc w → h.tileOk true ta tb desc = true →
      let zeros := completes s { s with hart := h.putTile d.toNat cols (List.replicate tr (cols.map fun _ => 0)) }
      let int := fun (x : Exact) => match x with | .fin neg m _ _ => if neg then -(m : Int) else m | .nan _ | .inf _ => 0
      let sum := fun (i j : Nat) => ((List.range n).map fun k =>
        int (value (side desc true) i k) * int (value (side desc false) j k)).foldl (fun x y => x + y) 0
      let out := fun (zero : Bool) => (List.range tr).map fun i => cols.map fun j =>
        (((if zero then 0 else (h.elem 32 (d.toNat + i) j : Int)) + sum i j) % 2 ^ 32).toNat
      (n = 0 → ∀ e ∈ ints, Machine.exec e.1 s = if e.2 then zeros else completes s s) ∧
      (n ≠ 0 → readable desc → ∀ e ∈ ints, Machine.exec e.1 s =
        completes s (hot { s with hart := h.putTile d.toNat cols (out e.2) } desc)))

/-- vcp on a legal shape record: the strip of up to VL elements from CURSOR on is read, converted and written to its places,
each block of a block format as a whole, the higher element of two at one place last, and CURSOR advances by the strip, its new
value written after the strip's. At VL 0 nothing happens; a record that is not 64-byte aligned, a shape that is not legal and
formats that are not legal trap. The L2 of the hart's die allocates the lines read (log entry 17). Its reading of the shape
record's details is the model's (log entry 55). -/
def Obligations.CopyStrip : Prop :=
  ∀ (s : Machine.State) (a : BitVec 5) (P : Word → Nat) (L : Word → Word), Ready s →
    let va := s.x a
    let vl := s.hart.vln
    let ts : List Touch := [⟨0, va, 128⟩]
    let r := Shape.read ((List.range 128).map fun k => s.readByte .vector (byteAt P (va + BitVec.ofNat 64 k)))
    let legal := r.ok vl && match r.codes with
      | some (sf, df) => wholeStrides sf r.sstr && wholeStrides df r.dstr
      | none => true
    (s.hart.vl = 0 → Machine.exec (.vcp a) s = completes s s) ∧
    (s.hart.vl ≠ 0 → va.toNat % 64 ≠ 0 → Machine.exec (.vcp a) s = traps s (Trap.plain 0x03 va)) ∧
    (s.hart.vl ≠ 0 → va.toNat % 64 = 0 → Maps s s.hart.ptbase .read ts P L → Clean s P ts →
      (legal = false → Machine.exec (.vcp a) s = traps s (Trap.plain 0x0C va)) ∧
      (legal = true → r.formats = none → Machine.exec (.vcp a) s = traps s (Trap.plain 0x0B (BitVec.zeroExtend 64 r.fmt))) ∧
      (∀ m, legal = true → r.formats = some m →
        let n := min vl (r.total - r.cursor)
        let j : Job := ⟨r, m, s.hart.sew, r.cursor, n⟩
        let size := placeBytes m.df s.hart.sew
        let reads := (List.range n).map fun i => (⟨i, (j.src i).va, placeBytes m.sf s.hart.sew⟩ : Touch)
        let writes := (List.range n).map fun i => (⟨i, (j.dst i).va, size⟩ : Touch)
        let isBx := m.df.any fun f => f.isBx
        let buf := fun (i : Nat) => (j.src i).bits m.sf (readAt s P (j.src i).va (placeBytes m.sf s.hart.sew)) % 2 ^ 64
        let frm := s.hart.frm
        let blocks := distinctWords ((List.range n).map fun i => (j.dst i).va)
        let image := fun (at_ : Word) => j.block (m.df.getD .bx4) frm
          (fun k => (((List.range n).reverse.filter fun i => (j.dst i).va == at_).find? fun i => (j.dst i).sub == k).map buf)
          (readAt s P at_ size)
        let put := fun (i : Nat) =>
          let o := j.out frm (buf i)
          if m.df = some .int4 then
            [(byteAt P (j.dst i).va, (⟨BitVec.ofNat 8 (o.1 * 16 ^ (j.dst i).sub), BitVec.ofNat 8 (15 * 16 ^ (j.dst i).sub)⟩ : WByte))]
          else putsAt P (j.dst i).va (leBytes size o.1)
        let ps := if isBx then blocks.flatMap fun w => putsAt P w (image w).1 else (List.range n).flatMap put
        let fx := if isBx then blocks.foldl (fun k w => k ||| (image w).2) (0 : BitVec 7)
          else (List.range n).foldl (fun k i => k ||| (j.out frm (buf i)).2) 0
        Maps s s.hart.ptbase .read reads P L → Clean s P reads →
        (isBx = true → ∀ t ∈ writes, ∀ q ∈ piecesAt P t, Sound s q.1 q.2) →
        Maps s s.hart.ptbase .write (writes ++ [⟨0, va + 0x10, 8⟩]) P L →
        ∃ (ws cs : List Write) (hot : List Hot),
          Puts s false ws ps ∧ Puts s false cs (putsAt P (va + 0x10) (leBytes 8 (r.cursor + n))) ∧
          (s.hart.hotbase = 0 → hot = []) ∧ (∀ h ∈ hot, h.counter = 1) ∧
          let strip := (({ s with hart := { s.hart with copyBuf := [] }, fresh := s.fresh + n } : Machine.State).addWrites ws).flag fx
          let t := (strip.order [⟨strip.hart.seq, .vector, .vector, false, false, false, true, true⟩]).addWrites cs
          let l2 := ((s.fillL2 false (ts.flatMap (piecesAt P))).fillL2 (r.ctrl.getLsbD 24)
            (((List.range n).flatMap fun i => (j.src i).reads m.sf s.hart.sew i).flatMap (piecesAt P))).l2
          Machine.exec (.vcp a) s = completes s { t with l2 := l2, conv := { t.conv with hot := hot } }))

/-- Permuted-set forms with the slot's set bound: its version, its status and waits for a version; the recording of gathers; the
freeing of the slot, which waits for the slot's sketch updates; and the unbound-set trap of a form whose slot binds nothing.
psord and psimp ask for a reorder, which is accepted or rejected with its reason at once; psord waits first for the sketch
updates of the slot's recorded lists, which is the model's choice (log entry 56); psexp writes VL entries of the forward table
to memory, with the version of the set in PSVLO and PSVHI, and the L2 of the hart's die allocates the lines that it reads (log
entry 17). -/
def Obligations.PermutedSetForms : Prop :=
  (∀ (s : Machine.State) (d a b : BitVec 5) (q : BitVec 2), Ready s →
    let slot := s.hart.slots[q.toNat]?.getD PSlot.unbound
    let pending := ∃ x ∈ s.samples, x.gang = s.hart.gangid ∧ x.hartix = s.hart.hartix ∧ x.slot = q.toNat
    let put := fun (p : PSlot) => ({ s with hart := { s.hart with slots := s.hart.slots.setIfInBounds q.toNat p } } : Machine.State)
    (s.boundSet q = none → ∀ i ∈ [Instr.psver d q, .psstat d q, .psexp a b q, .psimp a q, .psord q, .pswait a q],
      Machine.exec i s = traps s { Trap.plain 0x0D (BitVec.ofNat 64 q.toNat) with commit := true }) ∧
    (∀ k, s.boundSet q = some k →
      let running := k.reorder ≠ .none
      let forming := k.reorder = .numbering ∨ ∃ t r, k.reorder = .importing t r
      Machine.exec (.psver d q) s = completes s (s.setX d k.ver) ∧
      (∃ v : Word, Machine.exec (.psstat d q) s = completes s (s.setX d v) ∧
        (v.extractLsb' 0 32).toNat = k.reorder.remain % 2 ^ 32 ∧ (v.getLsbD 32 = true ↔ running) ∧ v.getLsbD 33 = k.rej ∧
        (v.getLsbD 34 = true ↔ forming) ∧ v.extractLsb' 35 29 = 0) ∧
      ((s.x a).toNat ≤ k.ver.toNat → Machine.exec (.pswait a q) s = completes s s) ∧
      ((s.x a).toNat ≤ k.ver.toNat → AtWord s (.pswait a q) → Waits s .version →
        Machine.exec (.pswaitSatisfied s.hart.id) s = completes s s) ∧
      (k.ver.toNat < (s.x a).toNat → Machine.exec (.pswait a q) s = waits s .version)) ∧
    Machine.exec (.psrec a q) s = completes s (put { slot with
      exp := if (s.x a).toNat < 32 then some ((s.x a).extractLsb' 0 5) else none, count := 0 }) ∧
    (slot.psd = none → Machine.exec (.psfree q) s = completes s s) ∧
    (slot.psd ≠ none → pending → Machine.exec (.psfree q) s = waits s .sketch) ∧
    (slot.psd ≠ none → ¬pending → Machine.exec (.psfree q) s = completes s (put PSlot.unbound).pruneSets)) ∧
  (∀ (s : Machine.State) (a b : BitVec 5) (q : BitVec 2) (k : Machine.PSet), Ready s → s.boundSet q = some k →
    let va := s.x a
    let reason := fun (sketch : Bool) => if k.reorder ≠ .none then some 1 else if k.staging = 0 ∨ k.nomove = true then some 2
      else if sketch ∧ k.sketch = 0 then some 3 else if s.rowsMisplaced k then some 4 else none
    let asks := fun (i : Instr) (sketch : Bool) (r : Reorder) =>
      (reason sketch = none → Machine.exec i s = completes s (s.onSet k.psd fun k => { k with reorder := r, rej := false })) ∧
      (∀ n, reason sketch = some n → Machine.exec i s =
        completes s ((s.onSet k.psd fun k => { k with rej := true }).log 0x0A 6 (BitVec.ofNat 16 n) 0xFFFFFFFF
          (BitVec.ofNat 64 k.psd) 0).pruneSets)
    let pending := ∃ x ∈ s.samples, x.gang = s.hart.gangid ∧ x.hartix = s.hart.hartix ∧ x.slot = q.toNat
    (pending → Machine.exec (.psord q) s = waits s .sketch) ∧
    (¬pending → asks (.psord q) true .numbering) ∧
    (va.toNat % 4 = 0 → asks (.psimp a q) false (.importing va k.space)) ∧
    (va.toNat % 4 ≠ 0 → ∀ i ∈ [Instr.psimp a q, .psexp a b q],
      Machine.exec i s = traps s { Trap.plain 0x03 va with commit := true }) ∧
    (va.toNat % 4 = 0 →
      let vl := s.hart.vl.toNat
      let from_ := (s.x b).toNat
      (vl = 0 → Machine.exec (.psexp a b q) s = completes s s) ∧
      (0 < vl → k.n < from_ + vl →
        Machine.exec (.psexp a b q) s = traps s { Trap.plain 0x0E (BitVec.ofNat 64 (max from_ k.n)) with commit := true }) ∧
      (∀ P L, 0 < vl → from_ + vl ≤ k.n → s.hart.gathered = [] →
        let els := (List.range vl).filter fun i => s.hart.vstart.toNat ≤ i
        let dst := fun (i : Nat) => va + BitVec.ofNat 64 (4 * i)
        let src := fun (i : Nat) => k.fwd + BitVec.ofNat 64 (4 * (from_ + i))
        let rs := els.map fun i => (⟨i, src i, 4⟩ : Touch)
        Maps s s.hart.ptbase .write (els.map fun i => ⟨i, dst i, 4⟩) P L → Maps s k.space .read rs P L → Clean s P rs →
        ∃ ws, Puts s false ws (els.flatMap fun i => putsAt P (dst i) (leBytes 4 (readAt s P (src i) 4))) ∧
          let t := { s.addWrites ws with l2 := (s.fillL2 false (rs.flatMap (piecesAt P))).l2 }
          Machine.exec (.psexp a b q) s =
            completes s (if els = [] then t else { t with hart := { t.hart with psvlo := k.ver, psvhi := k.ver } }))))

/-- psbind: the slot binds the set whose descriptor stands at the address, an active one as it is, and else a new one with the
fields of the descriptor, if it keeps the limits of its table and a set is free; the slot's own set is released first. The L2 of
the hart's die allocates the lines of a descriptor that is read (log entry 17). The order of reading, judging and releasing,
that a set whose old rows still forward is active, and that the hart's privilege is the set's, are the model's choices (log
entries 56, 78 and 32). -/
def Obligations.PermutedSetBind : Prop :=
  ∀ (s : Machine.State) (a : BitVec 5) (q : BitVec 2) (P : Word → Nat) (L : Word → Word), Ready s →
    let va := s.x a
    let ts : List Touch := [⟨0, va, 64⟩]
    let pa := byteAt P va
    let slot := s.hart.slots[q.toNat]?.getD PSlot.unbound
    let put := fun (t : Machine.State) (p : PSlot) =>
      ({ t with hart := { t.hart with slots := t.hart.slots.setIfInBounds q.toNat p } } : Machine.State)
    let free := if slot.psd = none then s else (put s PSlot.unbound).pruneSets
    let kept := (put s PSlot.unbound).pruneSets
    let pending := ∃ x ∈ s.samples, x.gang = s.hart.gangid ∧ x.hartix = s.hart.hartix ∧ x.slot = q.toNat
    let bind := fun (t : Machine.State) => put t ⟨some pa, va, none, 0⟩
    let bs := (List.range 64).map fun k => s.readByte .vector (byteAt P (va + BitVec.ofNat 64 k))
    let at_ := fun (o n : Nat) => leNat ((bs.drop o).take n)
    let w := fun (o : Nat) => BitVec.ofNat 64 (at_ o 8)
    let legal := at_ 0 8 % 64 = 0 ∧ canonical (w 0) = true ∧ at_ 8 4 % 64 = 0 ∧ 64 ≤ at_ 8 4 ∧ at_ 8 4 ≤ 2 ^ 24 ∧ at_ 0x0C 4 ≤ 64 ∧
      1 ≤ at_ 0x10 8 ∧ at_ 0x10 8 + at_ 0x0C 4 ≤ 2 ^ 32 ∧ at_ 0x18 8 % 64 = 0 ∧ canonical (w 0x18) = true ∧ at_ 0x20 8 % 64 = 0 ∧
      canonical (w 0x20) = true ∧ at_ 0x30 8 % 32 = 0 ∧ canonical (w 0x30) = true ∧ at_ 0x38 8 ≤ 1
    let new : Machine.PSet := ⟨pa, w 0, at_ 8 4, at_ 0x0C 4, at_ 0x10 8, w 0x18, w 0x20, w 0x28, w 0x30, at_ 0x38 8 = 1, s.hart.ptbase,
      s.hart.priv, .none, [], false⟩
    let idle := slot.psd = none ∨ ¬pending
    (va.toNat % 64 ≠ 0 → Machine.exec (.psbind a q) s = traps s { Trap.plain 0x03 va with commit := true }) ∧
    (va.toNat % 64 = 0 → Maps s s.hart.ptbase .read ts P L → Clean s P ts →
      ((∃ k ∈ kept.sets, k.psd = pa) → idle → Machine.exec (.psbind a q) s = completes s (bind free)) ∧
      ((∃ k ∈ kept.sets, k.psd = pa) → ¬idle → Machine.exec (.psbind a q) s = waits s .sketch) ∧
      ((∀ k ∈ kept.sets, k.psd ≠ pa) →
        (legal → kept.sets.length < 256 → idle →
          Machine.exec (.psbind a q) s = completes s { bind { free with sets := free.sets ++ [new] } with l2 := (s.fillL2 false (ts.flatMap (piecesAt P))).l2 }) ∧
        (legal → kept.sets.length < 256 → ¬idle → Machine.exec (.psbind a q) s = waits s .sketch) ∧
        (¬legal ∨ 256 ≤ kept.sets.length →
          Machine.exec (.psbind a q) s = traps s { Trap.plain 0x0F va with commit := true })))

/-- Gang barriers with nothing of the hart and its core outstanding: garr and gbar arrive, gdrop leaves, and the last arrival or
drop completes the phase; gbar and gwait wait for the phase of the hart's arrival; a hart that is no member, or names no
barrier, goes on. -/
def Obligations.GangBarriers : Prop :=
  ∀ (s : Machine.State) (a : BitVec 5), Ready s → Alone s →
    let b := (s.x a).toNat % 16
    let me := s.hart.hartix.toNat
    let at_ := s.barrierAt s.hart.gangid b
    let member := fun (k : Barrier) => k.member[me]?.getD false
    let arrived := fun (k : Barrier) => k.arr[me]?.getD false
    let done := fun (k : Barrier) => (k.member.zip k.arr).all fun m => !m.1 || m.2
    let settle := fun (k : Barrier) => if done k then { k with phase := k.phase + 1, arr := k.arr.map fun _ => false } else k
    let arrive := fun (k : Barrier) => settle { k with arr := k.arr.set me true }
    let drop := fun (k : Barrier) =>
      if member k then settle { k with member := k.member.set me false, arr := k.arr.set me false } else k
    let changed := fun (f : Barrier → Barrier) => ({ s with gangs := s.gangs.map fun g =>
      if g.id = s.hart.gangid then { g with barriers := g.barriers.modify b f } else g } : Machine.State)
    let all := [Instr.gbar a, .garr a, .gdrop a, .gwait a]
    (at_ = none → ∀ i ∈ all, Machine.exec i s = completes s s) ∧
    (∀ k, at_ = some k → member k = false → ∀ i ∈ all, Machine.exec i s = completes s s) ∧
    (∀ k, at_ = some k → member k = true →
      (arrived k = false → Machine.exec (.garr a) s = completes s (changed arrive) ∧ Machine.exec (.gwait a) s = completes s s) ∧
      (arrived k = true → Machine.exec (.garr a) s = waits s .barrier ∧ Machine.exec (.gwait a) s = waits s .barrier) ∧
      Machine.exec (.gdrop a) s = completes s (changed drop) ∧
      (s.hart.arrived = none → arrived k = true → Machine.exec (.gbar a) s = waits s .barrier) ∧
      (s.hart.arrived = none → arrived k = false →
        (done { k with arr := k.arr.set me true } = true → Machine.exec (.gbar a) s = completes s (changed arrive)) ∧
        (done { k with arr := k.arr.set me true } = false → Machine.exec (.gbar a) s = .next { changed arrive with hart := { s.hart with
          status := .waiting .barrier (s.waitSince .barrier)
          carry := { Carry.none with commit := true }
          arrived := some (b, k.phase) } })) ∧
      (∀ n phase, s.hart.arrived = some (n, phase) →
        (n = b ∧ k.phase = phase → Machine.exec (.gbar a) s = waits s .barrier) ∧
        (¬(n = b ∧ k.phase = phase) → Machine.exec (.gbar a) s = completes s s)))

/-- launch with nothing of the hart and its core outstanding: rd is 2 where the queue is not one that the hart may use, 1 with
the overflow bit set where it is full, and else 0 with the packet in the ring, where that lies in the module, and the tail moved
on; a hart that waited to launch does so in the step that ends the wait. That a packet for a ring in host memory is left to the
host, that its 64 bytes stamp one tag, and that a BASE is taken with all its bits, are the model's choices (log entries 19, 89
and 90). The L2 of the hart's die allocates the packet's line (log entry 17). -/
def Obligations.LaunchResults : Prop :=
  ∀ (s : Machine.State) (d a b : BitVec 5) (pa : Nat), Ready s → Alone s →
    let q := s.x b
    let n := (q.extractLsb' 0 6).toNat
    let k := s.queues[n]?.getD Queue.empty
    let may := q.toNat < 64 ∧ k.en = true ∧ k.dev = true ∧
      (s.hart.priv = .s ∨ k.sup = true ∨ k.as = s.hart.ptbase.extractLsb' 52 9)
    let full := (k.tail - k.head).toNat = 2 ^ k.log2sz.toNat
    let put := fun (t : Machine.State) (k : Queue) => ({ t with queues := t.queues.setIfInBounds n k } : Machine.State)
    let packet := (List.range 64).map fun j => s.readByte .scalar (pa + j)
    let does := fun (o : Machine.State) => Machine.exec (.launch d a b) s = completes s o ∧
      (AtWord s (.launch d a b) → Waits s .writes ∨ Waits s .accept → Machine.exec (.launchAccept s.hart.id) s = completes s o)
    let f := s.fillL2 false [(pa, 64)]
    let stored := if k.loc then f else f.poke (k.base.toNat + 64 * (k.tail.toNat % 2 ^ k.log2sz.toNat)) packet 64
    ((s.x a).toNat % 64 ≠ 0 → Machine.exec (.launch d a b) s = traps s { Trap.plain 0x03 (s.x a) with commit := true }) ∧
    ((s.x a).toNat % 64 = 0 → Reaches s .read true (s.x a) 64 pa → Sound s pa 64 → Served s [(pa, 64)] →
      Follows s .scalar [(pa, 64)] →
      (¬may → does (f.setX d 2)) ∧
      (may → full → does ((put f { k with ovf := true }).setX d 1)) ∧
      (may → ¬full → does ((put stored { k with tail := k.tail + 1 }).setX d 0)))

/-- Lane exchange: vxsend adds the slices of LMUL registers to the FIFO of each lane that the hart holds, toward a partner core,
and vxrecv takes them out, oldest first; of a vxsend the lanes without room wait, while the others go; a vxrecv waits until
every lane has its entries; the hart's own core is no partner. That a lane of a vxsend which has gone is done while the others
wait, and that the lanes of a vxrecv go together, are the model's choices (log entries 57 and 87). -/
def Obligations.LaneExchange : Prop :=
  ∀ (s : Machine.State) (v a : BitVec 5), Ready s → GroupsFit s [v] →
    let me := s.hart.core
    let n := (s.x a).toNat % 8
    let other := s.hart.core / 8 * 8 + n
    let m := lmulOf s.hart.vtype
    let lanes := s.hart.physLanes
    let slices := fun (j : Nat) => (List.range m).map fun k => s.hart.slice (v.toNat + k) j
    let room := fun (l : Nat × Nat) => decide ((s.fifo me other l.1).length + m ≤ 4)
    let full := fun (l : Nat × Nat) => decide (m ≤ (s.fifo other me l.1).length)
    let paused := fun (why : Why) (t : Machine.State) (rest : Pred) => Host.Outcome.next { t with hart := { t.hart with
      status := .waiting why s.cycle
      resume := some ⟨0, 0, rest, true, true⟩
      carry := { Carry.none with begun := true, commit := true }
      got := [] } }
    let names := fun (rest : Pred) (p : Nat × Nat → Bool) => ∀ j, rest.getLsbD j = true ↔ ∃ l ∈ lanes, l.2 = j ∧ p l = false
    let sent := fun (fs) => ∀ x y z, ({ s with fifos := fs } : Machine.State).fifo x y z = s.fifo x y z ++
      if x = me ∧ y = other then (lanes.filter fun l => l.1 == z && room l).flatMap fun l => slices l.2 else []
    let taken := fun (fs) => ∀ x y z, ({ s with fifos := fs } : Machine.State).fifo x y z =
      if x = other ∧ y = me ∧ ∃ l ∈ lanes, l.1 = z ∧ full l then (s.fifo x y z).drop m else s.fifo x y z
    let received := fun (regs) => ∀ r j, r < 32 → j < 32 → ({ s.hart with v := regs } : Hart).slice r j =
      match lanes.find? fun l => l.2 == j && full l with
      | some l => if v.toNat ≤ r ∧ r < v.toNat + m then (s.fifo other me l.1)[r - v.toNat]?.getD 0 else s.hart.slice r j
      | none => s.hart.slice r j
    (n = me % 8 → ∀ i ∈ [Instr.vxsend v a, .vxrecv v a], Machine.exec i s = traps s { s.illegal with commit := true }) ∧
    (n ≠ me % 8 → (∀ l ∈ lanes, room l) → ∃ fs, sent fs ∧
      Machine.exec (.vxsend v a) s = completes s { s with fifos := fs } ∧
      (AtWord s (.vxsend v a) → Waits s .push → Machine.exec (.vxsendPush s.hart.id) s = completes s { s with fifos := fs })) ∧
    (n ≠ me % 8 → (∃ l ∈ lanes, room l) → (∃ l ∈ lanes, ¬room l) → ∃ fs rest, sent fs ∧ names rest room ∧
      Machine.exec (.vxsend v a) s = paused .push { s with fifos := fs } rest) ∧
    (n ≠ me % 8 → lanes ≠ [] → (∀ l ∈ lanes, ¬room l) → Machine.exec (.vxsend v a) s = waits s .push) ∧
    (n ≠ me % 8 → (∀ l ∈ lanes, full l) → ∃ fs regs, taken fs ∧ received regs ∧
      Machine.exec (.vxrecv v a) s = completes s { s with fifos := fs, hart := { s.hart with v := regs } } ∧
      (AtWord s (.vxrecv v a) → Waits s .pop →
        Machine.exec (.vxrecvPop s.hart.id) s = completes s { s with fifos := fs, hart := { s.hart with v := regs } })) ∧
    (n ≠ me % 8 → (∃ l ∈ lanes, ¬full l) → Machine.exec (.vxrecv v a) s = waits s .pop)

/-- exit waits for no write: the hart leaves its slot and its lane groups are free; its gang counts it and takes its flags and
its RPCX; and its drops from the sixteen barriers are outstanding. With no write of the hart held, memory and the queued writes
stand as they did. -/
def Obligations.HartExit : Prop :=
  ∀ (s : Machine.State), Ready s → (∀ h ∈ s.others, h.status ≠ .gone ∧ h.id ≠ s.hart.id) →
    s.hart.core < 384 → ∃ t, Machine.exec .exit s = .next t ∧
      t.harts = s.others ∧ t.hartAt s.hart.id = none ∧
      (∀ k, k < 4 → lprOwner (t.lprOf s.hart.core) k =
        if lprOwner (s.lprOf s.hart.core) k = some s.hart.slot then none else lprOwner (s.lprOf s.hart.core) k) ∧
      (t.gangs = s.gangs.map fun g => if g.id = s.hart.gangid then { g with
        exited := g.exited + 1
        cores := g.cores ++ s.hart.cores
        flags := g.flags ||| s.hart.flags.extractLsb' 0 7
        rpcx := g.rpcx + s.hart.rpcx } else g) ∧
      (t.exitDrops = s.exitDrops ++ (List.range 16).map fun b => ⟨s.hart.gangid, s.hart.hartix, s.hart.cores, b⟩) ∧
      (t.pubs = s.pubs.filter fun p => !(p.mine s.hart && p.poisoned)) ∧ t.tlb = s.tlb ∧ t.queues = s.queues ∧
      (s.hart.held = [] → t.mem = s.mem ∧ t.wq = s.wq ∧ t.ended = s.ended)

/-- Steps of the device that move one hart: the end of a wait lets the hart at that wait go on, and no other; a retirement, the
delivery of a trap and the consumption of poison are turns of the hart that have that end; a mirror mismatch of a protected
hart, at a site that its word has, runs its vector convoy once more, and the second time is a machine check; a breakpoint traps;
an expired wait ends its convoy in its fault; and one pass of a matrix form is one step. Which wait ends when is a turn of the
agenda (log entry 3), a vector convoy runs at its hart's turn (log entry 12), and which causes go before a mirror mismatch is
the model's reading (log entry 85). What such a step leaves of a hart that is at a word: an addition retires in the step that
retires its convoy; a vector convoy that starts completes; a breakpoint instruction takes its trap in the step that delivers it;
a load from a poisoned line takes the trap of the consumption; a load that a trunk has held up too long takes the stall fault,
and one that a page move has, the migration fault; and under element step an addition completes and the debug event follows. -/
def Obligations.HartEvents : Prop :=
  ((∀ (s t : Machine.State) (w : BitVec 32) (i : Instr), Ready s → Issues s w → decode w = .ok i →
    Machine.exec i (s.beginConvoy [w]) = .next t →
    let id := s.hart.id
    let u := (({ t with conv := Convoy.fresh } : Machine.State).nameWords [w]).standing
    let waiting := fun (p : Why → Prop) => ∃ y c, s.hart.status = .waiting y c ∧ p y
    let runs := fun (j : Instr) (p : Prop) => (p → Machine.exec j s = .next u) ∧ (¬p → Machine.exec j s = .next s)
    let now := u.hartAt id
    let trapped := fun (k : Hart) => (k.status = .doubleTrap ∧ s.hart.status ≠ .doubleTrap) ∨
      (s.hart.tip = false ∧ k.tip = true ∧ k.pc = k.tvec ∧ k.priv = .s)
    runs (.parkedHartGrant id) (waiting fun y => (∃ n, y = .lanes n) ∨ y = .handover) ∧
    runs (.vsetvlwSatisfied id) (waiting fun y => ∃ ls, y = .watermark ls) ∧
    runs (.vwaitRound id) (waiting fun y => y = .watch) ∧
    runs (.pswaitSatisfied id) (waiting fun y => y = .version) ∧
    runs (.launchAccept id) (waiting fun y => y = .writes ∨ y = .accept) ∧
    runs (.vxsendPush id) (waiting fun y => y = .push) ∧
    runs (.vxrecvPop id) (waiting fun y => y = .pop) ∧
    runs (.fenceWComplete id) (waiting fun y => y = .writes) ∧
    runs (.vectorConvoyStart id none) (isVector [w] = true) ∧
    runs (.convoyRetire id) (∀ k, now = some k → k.convoys ≠ s.hart.convoys) ∧
    runs (.trapDelivery id) (∃ k, now = some k ∧ trapped k) ∧
    (∀ k, now = some k → trapped k → (k.tcause.extractLsb' 0 8 = 0x10 ∨ k.status = .doubleTrap) →
      Machine.exec (.poisonConsumed id) s = .next u)) ∧
  (∀ (s : Machine.State) (w : BitVec 32), Ready s → Issues s w →
    let id := s.hart.id
    let trapAs := fun (t : Trap) => Out.stateOr s (traps s t)
    let expired := fun (why : Why) => ({ s with conv := { Convoy.fresh with expired := some why } } : Machine.State).beginConvoy [w]
    let ended := fun (t : Machine.State) => (({ t with conv := Convoy.fresh } : Machine.State).nameWords [w])
    (∀ v : BitVec 14, s.hart.prot = true → isVector [w] = true →
      let site := (v.extractLsb' 0 8).toNat
      let z := (s.beginConvoy [w]).judge [w]
      comparedAt w site = true → (v.extractLsb' 8 4).toNat < s.hart.plane →
      (∀ k e, z.cause = some (k, e) → 6 < causeRank e.code ∧ (e.code = 0x15 → site ≠ 0x82)) →
      (site = 0x82 → z.done.getLsbD 0 = true) →
      (s.hart.retried = false → Machine.exec (.vectorConvoyStart id (some v)) s = .next { s with hart := { s.hart with
        retry := if s.hart.retry = BitVec.allOnes 32 then s.hart.retry else s.hart.retry + 1
        retried := true
        pass := none
        gathered := []
        status := .running } }) ∧
      (s.hart.retried = true → Machine.exec (.vectorConvoyStart id (some v)) s =
        .next { trapAs (Trap.plain 0x14 (BitVec.zeroExtend 64 (v.extractLsb' 0 12))) with conv := Convoy.fresh })) ∧
    (∀ v : BitVec 14, s.hart.prot = false ∨ isVector [w] = false ∨ comparedAt w (v.extractLsb' 0 8).toNat = false ∨
      s.hart.plane ≤ (v.extractLsb' 8 4).toNat → Machine.exec (.vectorConvoyStart id (some v)) s = .next s) ∧
    (∀ i t ls k, decode w = .ok i → Waits s (.trunk ls k) →
      (∀ l, s.lateRequest ls k = some l →
        Machine.exec i (expired (.trunk [l] k)) = .next t → Machine.exec (.stallFault id) s = .next (ended t)) ∧
      (s.lateRequest ls k = none → Machine.exec (.stallFault id) s = .next s)) ∧
    (∀ i t ls, decode w = .ok i → Waits s (.watermark ls) →
      (∀ l, s.lateRequest ls false = some l →
        Machine.exec i (expired (.watermark [l])) = .next t → Machine.exec (.stallFault id) s = .next (ended t)) ∧
      (s.lateRequest ls false = none → Machine.exec (.stallFault id) s = .next s)) ∧
    (∀ i t, decode w = .ok i → Waits s .writes →
      (s.lateWrite = true → Machine.exec i (expired .writes) = .next t → Machine.exec (.stallFault id) s = .next (ended t)) ∧
      (s.lateWrite = false → Machine.exec (.stallFault id) s = .next s)) ∧
    (∀ i t p since, decode w = .ok i → s.hart.status = .waiting (.migration p) since →
      (s.migthr.toNat < s.cycle - since →
        Machine.exec i (expired (.migration p)) = .next t → Machine.exec (.migrationFault id) s = .next (ended t)) ∧
      (s.cycle - since ≤ s.migthr.toNat → Machine.exec (.migrationFault id) s = .next s)) ∧
    (∀ i t, decode w = .ok i → majOf w = 26 →
      Machine.exec i (({ s with conv := { Convoy.fresh with onePass := true } } : Machine.State).beginConvoy [w]) = .next t →
      Machine.exec (.passComplete id) s = .next (ended t)) ∧
    Machine.exec (.elementStep id) s = .next s) ∧
  (∀ (s : Machine.State), s.hart.status ≠ .gone → s.abortedHere = false → s.hart.switchReq = false → s.hart.due = none →
    let id := s.hart.id
    (s.hart.breaks = true → Machine.exec (.instructionBreakpoint id) s = .next
      ({ s.takeTrap (Trap.plain 0x16 3) s.hart.pc 0 false s.hart.pc none with conv := Convoy.fresh } : Machine.State).standing) ∧
    (s.hart.breaks = false → Machine.exec (.instructionBreakpoint id) s = .next s) ∧
    (s.hart.stepping 2 = true → Machine.exec (.elementStep id) s = .next s.turn)) ∧
  (∀ (s : Machine.State) (id : Nat), s.hartAt id = none → (∀ h ∈ s.others, h.id ≠ id) →
    ∀ j ∈ [Instr.parkedHartGrant id, .vsetvlwSatisfied id, .vwaitRound id, .pswaitSatisfied id, .launchAccept id, .vxsendPush id,
      .vxrecvPop id, .fenceWComplete id, .convoyRetire id, .trapDelivery id, .poisonConsumed id, .elementStep id, .instructionBreakpoint id,
      .stallFault id, .migrationFault id, .passComplete id, .vectorConvoyStart id none], Machine.exec j s = .next s)) ∧
  (∀ (s : Machine.State) (d a : BitVec 5) (k : BitVec 13) (p : BitVec 4) (h : BitVec 2) (t : BitVec 1) (i : BitVec 10), Ready s →
    let id := s.hart.id
    let added := s.setX d (s.x a + BitVec.ofInt 64 k.toInt)
    let va := s.x a + BitVec.ofInt 64 (i.toInt * 8)
    let addi := Instr.addi d a k
    let ld := Instr.ld d a h t i
    (AtWord s addi → Machine.exec (.convoyRetire id) s = completes s added) ∧
    (AtWord s (.vid d p) → GroupsFit s [d] → Machine.exec (.vectorConvoyStart id none) s =
      completes s (s.putElems s.hart.sew d.toNat p fun i => (i, 0))) ∧
    (AtWord s .brk → Delivers s → Machine.exec (.trapDelivery id) s = traps s { Trap.plain 0x13 0 with commit := true }) ∧
    (∀ pa u, AtWord s ld → Delivers s → va.toNat % 8 = 0 → Reaches s .read true va 8 pa → s.inL1d pa = false →
      s.unserved false pa = false → Follows s .scalar [(pa, 8)] → s.ahead .scalar = [] → u ∈ s.poison →
      overlaps u.1 u.2.1 pa 8 = true → s.struck false u = true → (∀ u ∈ s.poison, overlaps u.1 u.2.1 pa 8 = true → lineOf u.1 = lineOf pa) →
      Machine.exec (.poisonConsumed id) s = traps s (consumed pa)) ∧
    (∀ pa r, AtWord s ld → va.toNat % 8 = 0 → Reaches s .read true va 8 pa → s.inL1d pa = false → s.unserved false pa = true →
      Waits s (.trunk [lineOf pa] false) → (∃ x ∈ s.trunks.toList, r ∈ x.waiting ++ x.again ++ x.flying.map fun f => f.1) →
      r.posted = false → r.gang = s.hart.gangid → r.hartix = s.hart.hartix → r.write = false → r.line = lineOf pa →
      s.stallthr.toNat < s.cycle - r.since → Machine.exec (.stallFault id) s = traps s (stalledAt pa)) ∧
    (∀ since, AtWord s ld → va.toNat % 8 = 0 →
      s.translate s.hart.core s.hart.ptbase s.hart.priv .read true (pageOf va) = .held →
      s.hart.status = .waiting (.migration (pageOf va)) since → s.migthr.toNat < s.cycle - since →
      Machine.exec (.migrationFault id) s = traps s ⟨0x09, va, [⟨pageOf va, 7⟩], 0, false, false⟩) ∧
    (∀ w, s.hart.status = .running → s.abortedHere = false → s.hart.switchReq = false → s.hart.due = none → s.hart.pass = none →
      s.hart.breaks = false → s.hart.stepping 2 = true → s.fetch s.hart.pc = .word w → w.getLsbD 31 = true → decode w = .ok addi →
      ∃ u, completes s added = .next u ∧
        Machine.exec (.elementStep id) s = .next (u.takeTrap (Trap.plain 0x16 2) s.hart.pc 0 false u.hart.pc none)))

/-- Reclaims and context switches: a victim past its deadline is to be switched out; a switched-out hart leaves its slot and its
groups, and its state stands in a free frame of the pool, which is the lowest by the model's choice (log entry 92); resumed, as
it is once its turn to take a place has come, it stands on a free slot and on the lowest free groups of a core that its gang may
use, with what its frame holds; drops of exit reach their barriers; and groups given up by vrel are free. What a parked hart's
request keeps from one that returns is the model's reading (log entry 86). -/
def Obligations.SwitchEvents : Prop :=
  ∀ (s : Machine.State),
    (∀ id h, s.hartAt id = some h →
      (∀ c, h.reclaimAt = some c → c + 262144 ≤ s.cycle →
        Machine.exec (.reclaimDeadline id) s = .next (s.onHart id fun h => { h with switchReq := true })) ∧
      ((∀ c, h.reclaimAt = some c → s.cycle < c + 262144) → Machine.exec (.reclaimDeadline id) s = .next s)) ∧
    (s.hart.status ≠ .gone → s.hart.rewEn = false → s.hart.switchReq = true → s.switchable s.hart = true →
      s.hart.held = [] → s.hart.rheld = [] → (∀ w ∈ s.wq, w.part = false) → s.hart.core < 384 → (∀ h ∈ s.others, h.status ≠ .gone ∧ h.id ≠ s.hart.id) →
      (s.freeFrame = none → Machine.exec (.fullContextSwitch s.hart.id) s = .next s) ∧
      (∀ f, s.freeFrame = some f → ∃ t, Machine.exec (.fullContextSwitch s.hart.id) s = .next t ∧ t.harts = s.others ∧
        t.frames = s.frames ++ [f] ∧
        (∃ k, t.swapped = s.swapped ++ [k] ∧ k.frame = f ∧ k.gang = s.hart.gangid ∧ k.groups = s.hart.groups ∧
          k.prio = s.hart.prio) ∧
        (∀ k, k < 4 → lprOwner (t.lprOf s.hart.core) k =
          if lprOwner (s.lprOf s.hart.core) k = some s.hart.slot then none else lprOwner (s.lprOf s.hart.core) k) ∧
        t.mem = s.hart.frameParts.foldl (fun m p => Memory.splice m (f + p.1) p.2) s.mem)) ∧
    (s.hart.switchReq = false ∨ s.switchable s.hart = false → s.hart.status ≠ .gone →
      Machine.exec (.fullContextSwitch s.hart.id) s = .next s) ∧
    (∀ k id w ks prio served, s.swapped[k]? = some w → s.nextPlaced = some ((.hart w.frame, prio), served) → id / 4 < 384 →
      s.roomFor (match s.gangOf w.gang with | some g => g.mask | none => 0) id w.groups w.keep.det
        served (s.asksNow (.hart w.frame, prio)) = some ks → ∃ t h, Machine.exec (.hartResume k id) s = .next t ∧
        t.others = s.others ++ [h] ∧ h.core = id / 4 ∧ h.slot = id % 4 ∧ h.gmask = BitVec.ofNat 4 (bitsOf ks) ∧
        h.pc = s.frameWord w.frame 0 ∧ (∀ r : BitVec 5, r ≠ 0 → h.reg r = s.frameWord w.frame (8 * r.toNat)) ∧
        t.swapped = s.swapped.eraseIdx k ∧ t.frames = s.frames.filter fun f => f != w.frame) ∧
    (∀ k d, s.exitDrops[k]? = some d → s.ended = [] →
      (∀ w ∈ s.wq, ¬(w.gang = BitVec.zeroExtend 64 d.gang ∧ w.hartix = d.hartix) ∧ w.core ∉ d.cores) →
      Machine.exec (.exitGdropApply k) s = .next { s.onBarrier d.gang d.barrier fun b => b.drop d.hartix.toNat with
        exitDrops := s.exitDrops.eraseIdx k }) ∧
    (∀ core slot, core < 384 → slot < 4 → (∀ h, s.hartAt (4 * core + slot) = some h → h.rewEn = false) →
      ∃ t, Machine.exec (.vrelGroupRelease (4 * core + slot)) s = .next t ∧ ∀ k, k < 4 →
        lprOwner (t.lprOf core) k =
          if 4 * core + k ∈ s.relPend ∧ lprOwner (s.lprOf core) k = some slot then none else lprOwner (s.lprOf core) k)

/-- Steps on pages: a page walk fills the translation cache of the hart's core, also with the finding that a page has no valid
entry; the resolution of an unshared copy-on-write leaf makes it writable in place; a hotness addition saturates; a move of a
page is committed with its leaf naming the new page and its tier, unless a trunk or a queued write holds it up; a move whose
copy a trunk has held up for longer than the stall threshold is abandoned; and a publication that needs no place of a trunk is
made once the hart's earlier writes are, and the writes of other harts that it may have read. That a finding of no valid entry
may be cached is what R288 allows; which walks fill the caches is a turn of the agenda (log entry 3). -/
def Obligations.PageEvents : Prop :=
  ∀ (s : Machine.State) (id : Nat),
    (∀ h va, s.hartAt id = some h → canonical va = true →
      (∀ e lg at_, s.walk h.ptbase va = .leaf e lg at_ → pteM e = false →
        (ptePa e + va.toNat % 2 ^ lg) / 65536 * 65536 ∉ s.absentPages →
        let asid := h.ptbase.extractLsb' 52 9
        Machine.exec (.pageWalk id va) s = .next { s with tlb :=
          (s.tlb.filter fun t => !(t.core == h.core && t.asid == asid && t.va.toNat / 2 ^ t.lg == va.toNat / 2 ^ t.lg)) ++
            [⟨h.core, asid, BitVec.ofNat 64 (va.toNat / 2 ^ lg * 2 ^ lg), lg, e, at_, false⟩] }) ∧
      (s.walk h.ptbase va = .bad →
        let asid := h.ptbase.extractLsb' 52 9
        Machine.exec (.pageWalk id va) s = .next { s with tlb :=
          (s.tlb.filter fun t => !(t.core == h.core && t.asid == asid && t.va.toNat / 2 ^ t.lg == va.toNat / 2 ^ t.lg)) ++
            [⟨h.core, asid, pageOf va, 16, 0, 0, true⟩] }) ∧
      ((∀ e lg at_, s.walk h.ptbase va ≠ .leaf e lg at_) → s.walk h.ptbase va ≠ .bad → Machine.exec (.pageWalk id va) s = .next s) ∧
      (∀ e lg at_, s.walk h.ptbase va = .leaf e lg at_ → pteM e = false → pteCow e = true → (h.priv = .s ∨ pteU e = true) →
        let own := (e ||| 4) &&& ~~~(0x20#64)
        let follows := fun (c : Option (Word × Nat)) => c.map fun k => if k.2 = at_ then (own, at_) else k
        (pteSh e = false → Machine.exec (.cowResolution id va) s = .next { s.poke at_ (leBytes 8 own.toNat) 8 with
          tlb := s.tlb.filter fun t => t.at_ != at_
          hart := s.hart.unpin at_
          others := s.others.map fun k => k.unpin at_
          offers := s.offers.map fun o => { o with crecCow := follows o.crecCow }
          gangs := s.gangs.map fun g => { g with crecCow := follows g.crecCow } }) ∧
        (pteSh e = true → ∀ t, s.resolveWith h.fplist.toNat h.prtbase.toNat e at_ = some t →
          Machine.exec (.cowResolution id va) s = .next t))) ∧
    (∀ k h, s.hotPend[k]? = some h →
      let at_ := h.pa + 4 * h.counter
      Machine.exec (.hotnessAddition k) s = .next
        { s.poke at_ (leBytes 4 (min 0xFFFFFFFF (Memory.value s.mem at_ 4 + h.amount))) 4 with hotPend := s.hotPend.eraseIdx k }) ∧
    (∀ m : PageMove, (s.pageMoves.find? fun m => m.hart == id) = some m →
      let noted : Machine.State := { s with pageMoves := s.pageMoves.map fun k => if k.hart = id
        then { k with since := (s.pageBlocked k).map fun a => k.since.getD (a, s.cycle) } else k }
      (s.pageBlocked m = none → (∀ w ∈ s.wq, overlaps m.old 65536 w.pa w.bytes.length = false) →
        let e := (m.leaf &&& ~~~(0xFFFFFFFFFC080#64)) ||| BitVec.ofNat 64 m.new ||| (tierOf m.new <<< 14)
        Machine.exec (.migrationCommit id) s = .next (((s.copyPage m.old m.new).writePte m.leafPa e).releaseMarks m m.new)) ∧
      (s.pageBlocked m ≠ none ∨ (∃ w ∈ s.wq, overlaps m.old 65536 w.pa w.bytes.length = true) →
        Machine.exec (.migrationCommit id) s = .next noted) ∧
      (s.pageBlocked m = none ∨ (∀ e, m.since = some e → s.cycle ≤ e.2 + s.stallthr.toNat) →
        Machine.exec (.migrationAbandon id) s = .next noted) ∧
      (∀ e, s.pageBlocked m ≠ none → m.since = some e → e.2 + s.stallthr.toNat < s.cycle →
        let q := s.dropMove m
        (q.hartAt id = none → (∀ h ∈ q.others, h.id ≠ id) → Machine.exec (.migrationAbandon id) s = .next q) ∧
        (∀ w i t va at_ e new since, s.hart.id = id → s.hart.status = .waiting (.move va at_ e new) since → Ready q → Issues q w →
          decode w = .ok i →
          Machine.exec i (({ q with conv := { Convoy.fresh with expired := some (.move va at_ e new) } } : Machine.State).beginConvoy
            [w]) = .next t →
          Machine.exec (.migrationAbandon id) s = .next (({ t with conv := Convoy.fresh } : Machine.State).nameWords [w])))) ∧
    ((∀ m ∈ s.pageMoves, m.hart ≠ id) → Machine.exec (.migrationCommit id) s = .next s ∧
      Machine.exec (.migrationAbandon id) s = .next s) ∧
    (∀ p : Pub, (s.pubs.find? fun p => p.hart == id && !p.poisoned) = some p →
      (s.pubs.find? fun q => q.gang == p.gang && q.hartix == p.hartix && !q.poisoned) = some p →
      let before := fun (w : Write) => w.gang = p.gang ∧ w.hartix = p.hartix ∧ w.seq < p.seq
      (∀ w ∈ s.wq, ¬before w ∧ w.core ∉ p.cores) → (∀ h ∈ s.hart :: s.others ++ s.ended, ∀ w ∈ h.held, ¬before w) →
      s.downTrunk p.pa = none → s.overTrunk p.pa = false →
      (∀ m ∈ s.pageMoves, overlaps m.old 65536 p.pa 8 = false) →
      (∀ u ∈ s.poison, overlaps u.1 u.2.1 p.pa 8 = false) → Machine.exec (.publication id) s = .next
        { s.pokeAs { engineWrite p.pa (leBytes 8 ((Memory.value s.mem p.pa 8 + p.amount.toNat) % 2 ^ 64)) 8 with
            hart := p.hart, gang := p.gang, hartix := p.hartix, seq := p.seq } with pubs := s.pubs.erase p })

/-- The launch front end: a doorbell moves the tail or sets the overflow bit, once the earlier posted writes of its requester
are performed; a valid packet at the head of an enabled queue is offered, or held for its watermark; an invalid one is rejected
with its reason in its completion record; an offered packet ages; the candidate of highest priority is served; its gang is
placed with the registers that placement gives its harts; a gang that has ended gets its completion record; and the abort of a
gang ends its harts, but for one that is part way through its writes. That such a hart goes on to its convoy boundary is the
model's choice (log entry 75); so are, where the clauses rest on them, that a packet is checked when it is first read (log entry
29), the order among cores and among equals (log entries 31 and 66), what parked harts keep from a gang (log entry 86), and that
a BASE is taken with all its bits (log entry 90). -/
def Obligations.LaunchEvents : Prop :=
  ∀ (s : Machine.State) (q : BitVec 6), s.mstate ≠ .talk →
    let k := s.queues[q.toNat]?.getD Queue.empty
    let put := fun (k : Queue) => s.queues.setIfInBounds q.toNat k
    let record := fun (s : Machine.State) (pa code reason harts : Nat) (id : BitVec 48) (tstart flags rpcx : Word) =>
      (s.poke (pa + 4) (leBytes 4 harts ++ leBytes 8 id.toNat ++ leBytes 8 tstart.toNat ++ leBytes 8 (s.cycle * 4 / 7 % 2 ^ 64) ++
        leBytes 8 flags.toNat ++ leBytes 8 rpcx.toNat ++ List.replicate 16 0) 8).poke pa (leBytes 4 (code + 256 * reason)) 4
    (∀ (rq : Nat) (tail : BitVec 32),
      let waits := ∃ o ∈ s.stalled, o.rq = some rq ∧ o.kind = 1 ∧ o.relaxed = false
      (waits → Machine.exec (.doorbell ⟨rq, q⟩ tail) s = .next { s with
        stalled := s.stalled ++ [Outside.at (some rq) false 1 (regsBase + 0x100008 + 64 * q.toNat) 4 (leBytes 4 tail.toNat)] }) ∧
      (¬waits → (∀ m ∈ s.pageMoves, m.old + 65536 ≤ regsBase) →
        ((tail - k.head).toNat ≤ 2 ^ k.log2sz.toNat →
          Machine.exec (.doorbell ⟨rq, q⟩ tail) s = .next { s with queues := put { k with tail := tail } }) ∧
        (2 ^ k.log2sz.toNat < (tail - k.head).toNat →
          Machine.exec (.doorbell ⟨rq, q⟩ tail) s = .next { s with queues := put { k with ovf := true } }))) ∧
    (k.en = false ∨ k.tail = k.head ∨ (∃ o ∈ s.offers, o.queue = q) → Machine.exec (.packetOffer q) s = .next s) ∧
    (∀ pa, k.en = true → k.tail ≠ k.head → (∀ o ∈ s.offers, o.queue ≠ q) → k.loc = false →
      let at_ := k.base.toNat + 64 * (k.head.toNat % 2 ^ k.log2sz.toNat)
      let p := BitVec.ofNat 512 (Memory.value s.mem at_ 64)
      s.poisonAt at_ 64 = none → s.poisonAt (at_ + 38) 7 = none → s.asBad k p = false → s.lfeAddr (pkAs p) .write (pkCrec p) = .at_ pa none →
      (s.packetReason k p = 0 → pkWaddr p = 0 → Machine.exec (.packetOffer q) s = .next
        { s with offers := s.offers ++ [⟨q, p, none, pa, none, at_, true, s.cycle, (pkPrio p).toNat⟩] }) ∧
      (∀ w c, s.packetReason k p = 0 → pkWaddr p ≠ 0 → s.lfeAddr (pkAs p) .read (pkWaddr p) = .at_ w c →
        Machine.exec (.packetOffer q) s = .next
          { s with offers := s.offers ++ [⟨q, p, some w, pa, none, at_, false, s.cycle, (pkPrio p).toNat⟩] }) ∧
      (s.packetReason k p ≠ 0 → s.downTrunk pa = none →
        let t := record s pa 2 (s.packetReason k p) 0 (k.head ++ 0#10 ++ q) s.time 0 0
        Machine.exec (.packetOffer q) s = .next { t with queues := put { k with head := k.head + 1 } })) ∧
    (∀ (o : Offer) w, (s.offers.find? fun o => o.queue == q && !o.offered) = some o → o.wpa = some w → s.downTrunk w = none →
      s.poisonAt w 8 = none →
      ((pkBound o.packet).toNat ≤ Memory.value s.mem w 8 → Machine.exec (.watermarkRead q) s = .next { s with offers :=
        (s.offers.map fun k => if k.queue = q then { k with offered := true, since := s.cycle } else k) }) ∧
      (Memory.value s.mem w 8 < (pkBound o.packet).toNat → Machine.exec (.watermarkRead q) s = .next s)) ∧
    (k.en = true → ∃ t, Machine.exec (.launchAging q) s = .next t ∧ t.offers.length = s.offers.length ∧
      ∀ j (h : j < s.offers.length), t.offers[j]? = some (let o := s.offers[j]
        if o.queue = q ∧ o.offered = true ∧ o.prio < 6 ∧ o.since + 65536 ≤ s.cycle then
          { o with prio := o.prio + 1, since := o.since + 65536 } else o)) ∧
    (s.candidates = [] → Machine.exec .gangServe s = .next { s with served := none, named := [], namedSlots := [] }) ∧
    (s.candidates ≠ [] → ∃ t c, Machine.exec .gangServe s = .next t ∧ c ∈ s.candidates ∧ t.served = some c.1 ∧
      ∀ d ∈ s.candidates, d.2 ≤ c.2) ∧
    (∀ (o : Offer) places prio served, s.nextPlaced = some ((.queue q, prio), served) →
      (s.offers.find? fun o => o.queue == q) = some o → (s.placeGang o places served).isSome = true →
      let p := o.packet
      let id := k.head ++ 0#10 ++ q
      ∃ t, Machine.exec (.gangPlacement places) s = .next t ∧ (served = true → t.served = none) ∧ (∀ n ∈ t.offers, n.queue ≠ q) ∧
      (t.queues[q.toNat]?.getD Queue.empty).head = k.head + 1 ∧
      (∃ g, t.gangs = s.gangs ++ [g] ∧ g.id = id ∧ g.h = pkH p ∧ g.exited = 0 ∧ g.cores = [] ∧ g.aborted = false) ∧
      ∀ j (hj : j < places.length), ∃ h ∈ t.others, h.id = places[j] ∧ h.pc = pkEntry p ∧ h.priv = .u ∧ h.status = .running ∧
        h.gangid = id ∧ h.hartix.toNat = j % 2048 ∧ h.reg 5 = BitVec.ofNat 64 j ∧ h.reg 6 = BitVec.ofNat 64 (pkH p) ∧
        (let lo := min (pkN p).toNat (j * shareOf (pkN p).toNat (pkH p))
         h.reg 3 = BitVec.ofNat 64 lo ∧
          h.reg 4 = BitVec.ofNat 64 (min (pkN p).toNat ((j + 1) * shareOf (pkN p).toNat (pkH p)) - lo)) ∧
        (∀ a, a < 4 → h.reg (BitVec.ofNat 5 (7 + a)) = p.extractLsb' (64 * a) 64)) ∧
    (∀ id g, s.gangOf id = some g → (g.aborted = true ∨ g.exited = g.h ∧ ∀ d ∈ s.exitDrops, d.gang ≠ id) →
      s.ended = [] → s.quiet g = true → g.crecCow = none → s.downTrunk g.crec = none →
      let t := record s g.crec (if g.aborted then 3 else 1) 0 g.exited id g.tstart (BitVec.zeroExtend 64 g.flags) g.rpcx
      Machine.exec (.completionRecord (BitVec.zeroExtend 64 id)) s = .next { t with
        gangs := s.gangs.filter fun k => k.id != id, exitDrops := s.exitDrops.filter fun d => d.gang != id }) ∧
    (∀ id, s.gangOf id ≠ none → s.abortedHere = false → ∃ t, Machine.exec (.gangAbort (BitVec.zeroExtend 64 id)) s = .next t ∧
      (∀ h ∈ t.harts, h.gangid = id → h.inWrites = true) ∧ (∀ k ∈ t.swapped, k.gang ≠ id) ∧ ∃ g, t.gangOf id = some g ∧ g.aborted = true) ∧
    (∀ v : Word, (2 ^ 48 ≤ v.toNat ∨ s.gangOf (v.extractLsb' 0 48) = none) → s.abortedHere = false →
      Machine.exec (.gangAbort v) s = .next s)

/-- The registers of the module and its mailbox. A register write has the effect that the register's row gives it, or is
refused; in Talk only the mailbox answers; and the command that runs ends with its result, its data and DONE, whichever step of
the mailbox ends it. That EN is judged with the LOG2SZ of the same write, details of the mailbox commands, that held slice-map
requests of the two kinds stand side by side, and that a BASE keeps all its bits, are the model's choices (log entries 36, 37,
69 and 90). -/
def Obligations.RegisterEvents : Prop :=
  (∀ (s : Machine.State) (v : Word) (q : BitVec 6), s.mstate ≠ .talk →
    let k := s.queues[q.toNat]?.getD Queue.empty
    let put := fun (k : Queue) => s.queues.setIfInBounds q.toNat k
    let writes := fun (off : Nat) (t : Machine.State) =>
      Machine.exec (.deviceRegisterWrite (BitVec.ofNat 44 off) 3 v) s = .next t
    let refused := ({ s with refused := true } : Machine.State)
    let ask := fun (c : MapChange) (n : BitVec 8) => (match s.change with
      | none => { s with llcreq := n, change := some ⟨c, false, s.llcp, s.tgActive, [], []⟩ }
      | some _ => { s with llcreq := n, changeHeld := (s.changeHeld.filter fun k => !MapChange.sameKind k c) ++ [c] } : Machine.State)
    writes 0x400050 { s with migthr := v.extractLsb' 0 32 } ∧
    writes 0x400058 { s with stallthr := BitVec.ofNat 32 (max 98304 (v.toNat % 2 ^ 32)) } ∧
    writes (0x100000 + 64 * q.toNat) { s with queues := put (if k.en then k else { k with base := v.extractLsb' 0 52 }) } ∧
    writes (0x100018 + 64 * q.toNat) { s with queues := put { k with rmask := v } } ∧
    (∃ t, writes (0x100010 + 64 * q.toNat) t ∧ ∃ n : Queue, t.queues = put n ∧ n.base = k.base ∧ n.head = k.head ∧ n.tail = k.tail ∧
      n.sup = v.getLsbD 1 ∧ n.dev = v.getLsbD 2 ∧ n.ovf = (k.ovf && !v.getLsbD 18) ∧
      (if k.en then n.loc = k.loc ∧ n.log2sz = k.log2sz ∧ n.as = k.as
        else n.loc = v.getLsbD 3 ∧ n.log2sz = v.extractLsb' 4 5 ∧ n.as = v.extractLsb' 9 9) ∧
      (n.en = true ↔ v.getLsbD 0 = true ∧ (k.en = true ∨ 1 ≤ n.log2sz.toNat ∧ n.log2sz.toNat ≤ 16 ∧ s.mstate = .run))) ∧
    writes 0x200000 { s with elBase := v.extractLsb' 0 52 &&& ~~~(0x1F#52) } ∧
    writes 0x300008 { s with mbox := { s.mbox with arg0 := v } } ∧
    writes 0x300000 (if s.mbox.busy then s else { s with mbox := { s.mbox with op := v.extractLsb' 0 8, busy := true } }) ∧
    (∀ off, off % 8 = 0 → off < 0x100000 ∨ 0x520000 ≤ off ∧ off < 2 ^ 44 → writes off s) ∧
    (∀ d : BitVec 2,
      let n : BitVec 5 := v.extractLsb' 0 5
      (16 < n.toNat ∨ s.gangs ≠ [] → Machine.exec (.seraiWrite d v) s = .next refused) ∧
      (n.toNat ≤ 16 → s.gangs = [] → s.serai[d.toNat]? = some n → Machine.exec (.seraiWrite d v) s = .next s) ∧
      (n.toNat ≤ 16 → s.gangs = [] → s.serai[d.toNat]? ≠ some n → ∃ t, Machine.exec (.seraiWrite d v) s = .next t ∧ t.serai = s.serai.setIfInBounds d.toNat n ∧
        (Memory.wf s.mem = true → ∀ a, Memory.get t.mem a = if seraiBase + 0x10000000 * d.toNat ≤ a ∧ a < seraiBase + 0x10000000 * (d.toNat + 1) then 0 else Memory.get s.mem a))) ∧
    (let n : BitVec 8 := v.extractLsb' 0 8
     (sliceCount n → Machine.exec (.llcreqWrite v) s = .next (ask (.llcp n) n)) ∧
     (¬sliceCount n → Machine.exec (.llcreqWrite v) s = .next refused)) ∧
    Machine.exec (.tgapply v) s = .next (if v.getLsbD 0 then ask (.tiles s.tgShadow) s.llcreq else s) ∧
    Machine.exec (.swap v) s = .next (if v.getLsbD 1 then { s with swapPend := true } else s) ∧
    (∀ t : BitVec 4, (v.getLsbD 0 = false ∨ (s.trunks[t.toNat]?.getD Trunk.trained).st ≠ .down →
        Machine.exec (.retrain t v) s = .next s) ∧
      (v.getLsbD 0 = true → (s.trunks[t.toNat]?.getD Trunk.trained).st = .down → ∃ u, Machine.exec (.retrain t v) s = .next u ∧
        ∃ k, u.trunks = s.trunks.setIfInBounds t.toNat k ∧ k.st = .retraining ∧ k.attempts = 0))) ∧
  (∀ (s : Machine.State) (off : Nat) (v : Word), s.mstate = .talk → off % 8 = 0 → off + 8 ≤ 0x300000 ∨ 0x400000 ≤ off ∧ off < 2 ^ 44 →
    Machine.exec (.deviceRegisterWrite (BitVec.ofNat 44 off) 3 v) s = .next s) ∧
  (∀ (s : Machine.State),
    let m := s.mbox
    let ends := fun (t : Machine.State) (r : BitVec 8) (data : List Byte) => ({ t with mbox := { t.mbox with
      result := r, len := BitVec.ofNat 16 data.length, busy := false, done := true
      data := (List.range 2048).map fun k => if k < data.length then data[k]?.getD 0 else m.data[k]?.getD 0 } } : Machine.State)
    let runs := fun (j : Instr) (n : BitVec 8) (t : Machine.State) => m.op = n →
      Machine.exec j s = .next t ∧ Machine.exec .mailboxCommandDone s = .next t
    let talk := s.mstate = .talk
    let id : BitVec 48 := m.arg0.extractLsb' 0 48
    let slot := 4 * m.arg0.toNat + m.arg1.toNat % 4
    let named := fun (h : Hart) => m.arg0.toNat < 384 ∧ s.hartAt slot = some h
    (m.busy = false → ∀ j ∈ [Instr.getreport, .getmanifest, .instkey, .fwload, .switchout, .resumeh, .getevent, .mailboxCommandDone],
      Machine.exec j s = .next s) ∧
    (m.busy = true →
      runs .getreport 1 (ends s 0 (leBytes 8 (min 127 m.report.length) ++
        (m.report.take 127).flatMap fun e => leBytes 8 e.1.toNat ++ leBytes 8 e.2.toNat)) ∧
      (talk → ∀ p ∈ [((2 : BitVec 8), Instr.getmanifest), (3, .instkey), (5, .switchout), (6, .resumeh)], runs p.2 p.1 (ends s 3 [])) ∧
      (¬talk → m.op = 2 → ∃ data : List Byte, data.length = 2048 ∧ data.take 16 = leBytes 8 1 ++ leBytes 8 0x010C0A0384A2 ∧
        (∀ b ∈ data.drop 328, b = 0) ∧ runs .getmanifest 2 (ends s 0 data) ∧
        ∀ h ∈ (s.harts ++ s.swapped.map fun k => k.keep).find? fun h => h.gangid == id && h.hartix == 0,
          (m.arg0.toNat < 2 ^ 48 → s.gangOf id ≠ none → (data.drop 0x100).take 8 = leBytes 8 h.mck.toNat) ∧
          (2 ^ 48 ≤ m.arg0.toNat ∨ s.gangOf id = none → (data.drop 0xA0).take 104 = List.replicate 104 0)) ∧
      (¬talk → runs .instkey 3 (if m.keys.isSome ∨ m.opened = true then ends s 3 [] else
        let d := fun (o n : Nat) => (List.range n).map fun k => m.data[o + k]?.getD 0
        ends { s with mbox := { m with keys := some (d 0 97, d 0x80 56) } } 0 [])) ∧
      (∃ r, (r = 0 ∨ r = 4) ∧ runs .fwload 4 { ends s r [] with
        fresh := s.fresh + 1
        imagesNext := if r = 0 then s.fresh + 1 else s.imagesNext }) ∧
      (¬talk → (∀ h, named h → runs .switchout 5 (ends (s.onHart slot fun h => { h with switchReq := true }) 0 [])) ∧
        ((∀ h, ¬named h) → runs .switchout 5 (ends s 2 []))) ∧
      (¬talk → (∀ h, named h → h.status = .halted →
          runs .resumeh 6 (ends (s.onHart slot fun h => { h with status := .running }) 0 [])) ∧
        ((∀ h, named h → h.status ≠ .halted) → runs .resumeh 6 (ends s 2 []))) ∧
      runs .getevent 7 (ends { s with mbox := { m with events := m.events.drop 1 } } 0 (m.events.head?.getD [])) ∧
      (m.op = 0 ∨ 7 < m.op.toNat → Machine.exec .mailboxCommandDone s = .next (ends s 1 []))))

/-- Steps of memory, of the trunks and of the agents outside. A write is applied at its ordering point; slices answer requests
by the epoch of their map; an error is counted, or poisons its unit and is logged; trunks carry writes and publications in the
slots of their Routes, repeat flits and retrain; and the host, a CXL agent or another module reads or writes memory, or what it
reaches stays as it was. What the model chooses here: whose events these are (log entry 18), requests without an address of
their own (19), when trunks are up and how many fibres they have (22), atomics of other modules (35), two kinds of map change
side by side (69), the address of a host request beyond its region (89), poison and its records (71, 88), a repeated flit (93),
and which lines the caches hold (17). -/
def Obligations.MemoryLinkEvents : Prop :=
  ∀ (s : Machine.State),
    let logged := fun (u : Machine.State) (kind : Nat) (unit : BitVec 8) (aux16 aux32 : Nat) (addr extra : Nat) =>
      (if u.elEn = false then u
      else if u.elHead - u.elTail = BitVec.ofNat 32 (2 ^ u.elLog2.toNat) then { u with elOvf := true }
      else { u.poke (u.elBase.toNat + 32 * (u.elHead.toNat % 2 ^ u.elLog2.toNat))
          (leBytes 8 (kind + 256 * unit.toNat + 65536 * aux16 + 2 ^ 32 * aux32) ++ leBytes 8 addr ++
            leBytes 8 (s.cycle * 4 / 7 % 2 ^ 64) ++ leBytes 8 extra) 8 with elHead := u.elHead + 1 } : Machine.State)
    let count := fun (k : Nat) => s.cecnt.setIfInBounds k (BitVec.ofNat 64 (min (2 ^ 64 - 1) ((s.cecnt[k]?.getD 0).toNat + 1)))
    (∀ k grow w, s.wq[k]? = some w →
      let g := if s.cacheable w.pa then grow else 0
      let may := s.chunksOf (lineOf w.pa) + g ≤ 4 ∧ (g = 0 ∨ s.reserveUsed (s.homeOf w.pa) + g ≤ 64) ∧
        s.canPerform (s.wq.take k) (s.wq.filter fun w => w.part) w = true
      (may → w.perm = none →
        ∃ t, Machine.exec (.writePerformed k 0 grow) s = .next t ∧ t.wq = s.wq.eraseIdx k ∧
          (Memory.wf s.mem = true → ∀ a, Memory.get t.mem a = if w.pa ≤ a ∧ a < w.pa + w.bytes.length
            then (w.bytes[a - w.pa]?.getD ⟨0, 0⟩).apply (Memory.get s.mem a) else Memory.get s.mem a)) ∧
      (¬may → ∀ units, Machine.exec (.writePerformed k units grow) s = .next s)) ∧
    (∀ slice chunks, Machine.exec (.reserveEviction slice chunks) s = .next (if s.reserveUsed slice = 0 then s
      else { s with reserve := tableSet s.reserve slice (s.reserveUsed slice - chunks) })) ∧
    (∀ core line write epoch,
      let rest := s.sliceReqs.filter fun q => !(q.core == core && q.line == line && q.write == write)
      let now := if ∃ r, s.change = some r ∧ (core, line, write) ∈ r.rehashed then s.epoch else epoch
      let answers := fun (full : Bool) (st : Option ReqState) => s.cacheable line = true → Machine.exec (.sliceRequest core line write epoch full) s =
        .next { s with
          sliceReqs := rest ++ (st.map fun st => (⟨core, line, write, now, st⟩ : SliceReq)).toList
          change := if st = some .rehash then s.change.map fun r => { r with rehashed := r.rehashed ++ [(core, line, write)] } else s.change }
      (s.cacheable line = false → ∀ full, Machine.exec (.sliceRequest core line write epoch full) s = .next s) ∧
      answers true (some .retry) ∧
      (s.change = none → answers false (if now = s.epoch then none else some .rehash)) ∧
      (∀ r, s.change = some r → answers false (
        let moved := decide (State.sliceOf r.oldTiles r.oldLlcp.toNat (s.leafFor line) line ≠ s.homeOf line)
        if r.started = false then none
        else if now = s.epoch then (if moved = true ∧ line ∉ r.handed then some .held else none)
        else (if moved = true ∧ line ∈ r.handed then some .rehash else none)))) ∧
    (∀ k q, s.sliceReqs[k]? = some q → Machine.exec (.retryResend k) s =
      .next (if q.st = .retry then { s with sliceReqs := s.sliceReqs.eraseIdx k } else s)) ∧
    (∀ lines done,
      (s.change = none → Machine.exec (.sliceMapChange lines done) s = .next s) ∧
      (∀ r, s.change = some r →
        let handed := r.handed ++ lines
        let t := fun (whole : Bool) => ({ s with
          epoch := if r.started then s.epoch else s.epoch + 1
          llcp := match r.what with | .llcp n => (if r.started then s.llcp else n) | .tiles _ => s.llcp
          tgActive := match r.what with | .llcp _ => s.tgActive | .tiles es => (if r.started then s.tgActive else es)
          sliceReqs := s.sliceReqs.filter fun q => !(q.st == ReqState.held && (whole || handed.contains q.line)) } : Machine.State)
        let all := ∀ l ∈ s.heldLines, State.sliceOf r.oldTiles r.oldLlcp.toNat ((t false).leafFor l) l ≠ (t false).homeOf l → l ∈ handed
        (done = false ∨ ¬all → Machine.exec (.sliceMapChange lines done) s =
          .next { t false with change := some { r with started := true, handed := handed } }) ∧
        (done = true → all →
          let u := logged { t true with change := none } 8 6 (t true).llcp.toNat (t true).epoch.toNat 0 0
          Machine.exec (.sliceMapChange lines done) s = .next (match s.changeHeld with
            | [] => u
            | c :: rest => { u with changeHeld := rest, change := some ⟨c, false, u.llcp, u.tgActive, [], []⟩ })))) ∧
    (∀ k : BitVec 3, Machine.exec (.correctedError k) s = .next { s with cecnt := count k.toNat }) ∧
    (∀ pa (packed : Bool),
      let poisons := fun (k : BitVec 3) (t : Machine.State) (us : List (Nat × Nat × PoisonAt)) (unit : BitVec 8) (addr : Nat) =>
        Machine.exec (.poisonCreated pa k packed) s = .next (logged { t with
          poison := (t.poison.filter fun u => !us.contains u) ++ us } 1 unit k.toNat 0 addr 0)
      let one := fun (k : BitVec 3) (n : Nat) (place : PoisonAt) (unit : BitVec 8) => poisons k s [(pa / n * n, n, place)] unit (pa / n * n)
      let die := Config.cacheDie pa
      (s.configured pa = false → ∀ k, Machine.exec (.poisonCreated pa k packed) s = .next s) ∧
      (s.configured pa = true →
        (∀ c, regionOf pa = .tcm c → one 0 8 .home (BitVec.ofNat 8 (c / 96))) ∧
        (∀ c, regionOf pa = .csp c → one 1 8 .home (BitVec.ofNat 8 (c / 12))) ∧
        (∀ c, regionOf pa = .serai c →
          poisons 2 (if packed then s else s.dropAllL2 (lineOf pa)) [(pa / 32 * 32, 32, .home)] (BitVec.ofNat 8 c) (pa / 32 * 32)) ∧
        (regionOf pa = .hbm → one 5 32 .home (unitOf pa)) ∧
        (regionOf pa = .drawer → one 6 32 (if s.inLlc pa then .below else .home) 7) ∧
        (regionOf pa = .cxl → one 6 64 .home 6) ∧
        (s.cacheable pa = true → packed = false →
          poisons 2 (s.dropAllL2 (lineOf pa)) [(pa / 32 * 32, 32, .home)] (BitVec.zeroExtend 8 die) (pa / 32 * 32) ∧
          one 3 32 .home (s.homeUnit pa)) ∧
        (s.cacheable pa = true → packed = true →
          ((die.toNat, lineOf pa) ∈ s.l2 → one 2 32 (.l2 die.toNat) (BitVec.zeroExtend 8 die)) ∧
          ((die.toNat, lineOf pa) ∉ s.l2 → Machine.exec (.poisonCreated pa 2 packed) s = .next s) ∧
          poisons 3 s ((List.range 4).map fun j => (pa / 128 * 128 + 32 * j, 32, .home)) (s.homeUnit pa) (pa / 128 * 128)))) ∧
    (∀ pa dirty,
      let line := pa / 128 * 128
      let f := ({ s with fresh := s.fresh + 1 } : Machine.State)
      let us := (List.range 4).map fun j => (line + 32 * j, 32, PoisonAt.home)
      let errs := fun (t : Machine.State) (unit : BitVec 8) => Machine.exec (.tagDirectoryError pa dirty) s = .next (logged
        (if dirty then { f.dropAllL2 line with poison := (((f.dropAllL2 line).poison.filter fun u => !us.contains u) ++ us) } else t)
        3 unit (if dirty then 1 else 0) 0 line 0)
      (s.configured line = true → s.cacheable line = true →
        errs (match s.tagDie line with | none => (f.dropAllL2 line).dropLlc line | some d => f.dropL2 d line)
          (match s.tagDie line with | none => s.homeUnit line | some d => BitVec.ofNat 8 d) ∧
        ∀ d ∈ s.tagDie line, d < 4 ∧ (d, line) ∈ s.l2) ∧
      (∀ d, let t := s.dropL2 d line; t.inLlc line = s.inLlc line ∧ (∀ e, e ∈ t.l2 ↔ e ∈ s.l2 ∧ e ≠ (d, line)) ∧
        (∀ e, e ∈ t.l1d ↔ e ∈ s.l1d ∧ ¬(dieOf e.1 = d ∧ overlaps e.2 64 line 128 = true)) ∧
        ∀ u, u ∈ t.poison ↔ u ∈ s.poison ∧ ¬(u.2.2 = .l2 d ∧ lineOf u.1 = line)) ∧
      (s.configured line = false ∨ s.cacheable line = false → Machine.exec (.tagDirectoryError pa dirty) s = .next s) ∧
      Machine.exec (.sequenceCounterLost pa) s = .next (if (regionOf line).hasTags = true
        then logged { s with tags := tableSet s.tags line 0 } 4 (s.homeUnit line) 0 0 line 0 else s)) ∧
    (s.swapPend = false → Machine.exec .slotBankSwap s = .next s) ∧
    (s.swapPend = true → ∃ n, n % 4096 = 0 ∧ (∀ k ∈ s.trunks.toList, k.slot ≤ n) ∧ (n = 0 ∨ ∃ k ∈ s.trunks.toList, n < k.slot + 4096) ∧
      Machine.exec .slotBankSwap s = .next { s with
        swapPend := false, slotAct := !s.slotAct, trunks := s.trunks.map fun k => { k with slot := n, repeats := 0 } }) ∧
    (∀ t : BitVec 4,
      let k := s.trunks[t.toNat]?.getD Trunk.trained
      let put := fun (k : Trunk) => ({ s with trunks := s.trunks.setIfInBounds t.toNat k } : Machine.State)
      let unit : BitVec 8 := if t.toNat < 8 then 4 else 5
      let bank := if s.slotAct then s.slotTab1 else s.slotTab0
      let goes := fun (r : BitVec 6) => if ∃ e ∈ bank, e.1 / 4096 = t.toNat ∧ e.2 = r then r else 0
      let r := (tableGet bank (4096 * t.toNat + k.slot % 4096)).getD 0
      (k.st ≠ .up → ∀ j ∈ [Instr.slotDeparture t, .drawerReturn t, .flitCheckFailure t, .trunkRetrainStart t true, .trunkRetrainStart t false],
        Machine.exec j s = .next s) ∧
      (k.st = .up → s.swapPend = false ∨ k.slot % 4096 ≠ 0 → ∃ u n, ∃ fs : List TrunkReq, Machine.exec (.slotDeparture t) s = .next u ∧
        u.trunks = s.trunks.setIfInBounds t.toNat n ∧ n.slot = k.slot + 1 ∧ n.st = .up ∧ n.fibres = k.fibres ∧
        n.flying = k.flying ++ (fs.map fun f => (f, k.slot + Config.dlat.toNat)) ∧ fs.length ≤ 2 * k.fibres ∧
        n.repeats = (if (k.slot + 1) % 4096 = 0 then 0 else k.repeats) ∧ n.waiting.Sublist k.waiting ∧ n.again.Sublist k.again ∧
        (s.pubs = [] → u.wq.Sublist s.wq ∧
          ∀ w ∈ s.wq, s.needsSlot w = false ∨ s.sharedPa w.pa = false ∨ trunkOf w.pa ≠ t.toNat → w ∈ u.wq) ∧
        (∀ f ∈ fs, goes f.route = r ∨ goes f.route = 0) ∧
        (0 < k.fibres → ∀ f, k.again = [f] → (goes f.route = r → fs.head? = some f ∧ n.again = []) ∧
          (k.waiting = [] → s.wq = [] → s.pubs = [] → goes f.route = 0 → fs = [f] ∧ n.again = [])) ∧
        (0 < k.fibres → k.again = [] →
          (∀ w, s.wq = [w] → k.waiting = [] → s.pubs = [] → s.needsSlot w = true → trunkOf w.pa = t.toNat →
            goes w.route = r ∨ goes w.route = 0 →
            (s.sharedPa w.pa = true → s.canApply [] ([w].filter fun w => w.part) w = true → u.wq = [] ∧ u.mem = (s.performWrite w).mem) ∧
            (s.sharedPa w.pa = false → (∀ f ∈ k.flying, f.1.line ≠ lineOf w.pa) → u.wq = [w] ∧
              fs = [⟨w.gang.extractLsb' 0 48, w.hartix, w.route, lineOf w.pa, true, w.since, true, k.num⟩])) ∧
          (∀ f, k.waiting = [f] → s.wq = [] → s.pubs = [] → goes f.route = r ∨ goes f.route = 0 →
            n.waiting = [] ∧ fs = [{ f with num := k.num }]) ∧
          (∀ p, s.pubs = [p] → p.poisoned = false → s.wq = [] → k.waiting = [] → s.hart.held = [] → (∀ h ∈ s.others, h.held = []) →
            (∀ h ∈ s.ended, h.held = []) → s.overTrunk p.pa = true → s.sharedPa p.pa = true → trunkOf p.pa = t.toNat →
            s.reachesPub p = true → (s.poisonAt p.pa 8).isSome = false → goes p.route = r ∨ goes p.route = 0 → u.pubs = [] ∧
            u.mem = (s.poke p.pa (leBytes 8 ((Memory.value s.mem p.pa 8 + p.amount.toNat) % 2 ^ 64)) 8).mem))) ∧
      (k.st = .up → s.swapPend = true → k.slot % 4096 = 0 → Machine.exec (.slotDeparture t) s =
        Machine.exec (.slotDeparture t) s.bankSwap) ∧
      (k.st = .up →
        let due := (k.flying.filter fun f => f.2 ≤ k.slot).take (2 * k.fibres)
        ∃ u, Machine.exec (.drawerReturn t) s = .next u ∧ u.mem = s.mem ∧ u.wq = s.wq ∧
          u.trunks = s.trunks.setIfInBounds t.toNat { k with flying := k.flying.drop due.length } ∧
          ∀ f ∈ due, (s.llc.length + due.length ≤ 4194304 → s.sharedPa f.1.line = false → ∃ d, (f.1.line, d) ∈ u.llc) ∧
            (f.1.posted = false → s.hart.gangid = f.1.gang → s.hart.hartix = f.1.hartix → (f.1.line, f.1.write) ∈ u.hart.got)) ∧
      (k.st = .up → Machine.exec (.flitCheckFailure t) s = .next { put { k with
        repeats := k.repeats + 1, flying := k.flying.dropLast
        again := k.again ++ (k.flying.getLast?.map fun f => f.1).toList } with cecnt := count 7 }) ∧
      (k.st = .up → ∀ lock, Machine.exec (.trunkRetrainStart t lock) s = .next (if lock = true ∨ 16 ≤ k.repeats
        then logged (put { k with st := .retraining, attempts := 0, repeats := 0, since := s.cycle }) 5 unit t.toNat 0 0 0 else s)) ∧
      let lost := (s.cycle - k.since) * 32 / 63
      (k.st ≠ .retraining → ∀ fib, Machine.exec (.retrainAttemptEnd t fib) s = .next s) ∧
      (k.st = .retraining → ∀ fib,
        (4 ≤ fib →
          let n := if 8 ≤ fib then 8 else if 6 ≤ fib then 6 else 4
          let u := put { k with st := .up, fibres := n, attempts := 0, slot := k.slot + lost }
          Machine.exec (.retrainAttemptEnd t fib) s = .next (logged (if k.slot / 4096 < (k.slot + lost) / 4096 then u.bankSwap else u)
            6 unit t.toNat n 0 (lost % 2 ^ 64))) ∧
        (fib = 0 → k.attempts < 2 → Machine.exec (.retrainAttemptEnd t fib) s = .next (put { k with attempts := k.attempts + 1 })) ∧
        (1 ≤ fib ∧ fib < 4 ∨ fib = 0 ∧ 2 ≤ k.attempts → Machine.exec (.retrainAttemptEnd t fib) s = .next
          (logged (put { k with st := .down, fibres := 0, attempts := 0, since := s.cycle, slot := k.slot + lost }) 7 unit t.toNat 0 0 0)))) ∧
    (∀ (rq pa n : Nat) (relaxed : Bool) (data : List Byte), 0 < n → data ≠ [] →
      let marked := fun (n : Nat) => ∃ k, k < n ∧ ∃ m ∈ s.pageMoves, m.old ≤ pa + k ∧ pa + k < m.old + 65536
      let behind := ∃ o ∈ s.stalled, o.rq = some rq ∧ (o.kind = 1 ∧ o.relaxed = false ∧ relaxed = false ∨ o.kind = 0)
      let follows := ∃ o ∈ s.stalled, o.rq = some rq ∧ o.kind = 1 ∧ o.relaxed = false ∧ relaxed = false
      let held := fun (rq : Option Nat) (relaxed : Bool) (kind : BitVec 2) (n : Nat) => Host.Outcome.next ({ s with stalled := s.stalled ++
        [⟨rq, relaxed, kind, (List.range n).map fun k => pa + k, data⟩] } : Machine.State)
      let poisoned := (List.range n).any fun k => (s.poisonAt (pa + k) 1).isSome
      let memory := regionOf pa = .hbm ∨ regionOf pa = .drawer ∨ regionOf pa = .cxl ∨ (∃ c, regionOf pa = .csp c) ∨ ∃ d, regionOf pa = .serai d
      let reaches := fun (n : Nat) => s.mstate ≠ .talk ∧ s.configured pa = true ∧ s.configured (pa + n - 1) = true
      (regionOf pa ≠ .regs → ¬memory → ∀ write, Machine.exec (.hostRequest ⟨rq, relaxed, write⟩ pa n data) s = .next s) ∧
      (memory →
        (¬reaches n → Machine.exec (.hostRequest ⟨rq, relaxed, false⟩ pa n data) s = .next s) ∧
        (¬reaches data.length → Machine.exec (.hostRequest ⟨rq, relaxed, true⟩ pa n data) s = .next s) ∧
        (reaches n → marked n ∨ behind → Machine.exec (.hostRequest ⟨rq, relaxed, false⟩ pa n data) s = held (some rq) relaxed 0 n) ∧
        (reaches data.length → marked data.length ∨ follows →
          Machine.exec (.hostRequest ⟨rq, relaxed, true⟩ pa n data) s = held (some rq) relaxed 1 data.length) ∧
        (reaches n → ¬marked n → ¬behind → Machine.exec (.hostRequest ⟨rq, relaxed, false⟩ pa n data) s =
          .next { s with hostRead := ((List.range n).map fun k => Memory.get s.mem (pa + k), poisoned) }) ∧
        (reaches data.length → ¬marked data.length → ¬follows →
          Machine.exec (.hostRequest ⟨rq, relaxed, true⟩ pa n data) s = .next (s.poke pa data 8))) ∧
      (∀ off v, off % 8 = 0 → 0x100000 ≤ off → off < 0x101000 → (∃ o ∈ s.stalled, o.rq = some rq ∧ o.kind = 1 ∧ o.relaxed = false) →
        s.mstate ≠ .talk → Machine.exec (.hostRequest ⟨rq, relaxed, true⟩ (regsBase + off) n (leBytes 8 v)) s = .next { s with
          stalled := s.stalled ++ [⟨some rq, relaxed, 1, (List.range 8).map fun k => regsBase + off + k, leBytes 8 v⟩] }) ∧
      ((∀ m ∈ s.pageMoves, m.old + 65536 ≤ regsBase) → (∀ o ∈ s.stalled, o.rq = some rq → o.kind = 1 → o.relaxed = true) →
        (∀ off v, off % 8 = 0 → off < 2 ^ 44 → Machine.exec (.hostRequest ⟨rq, relaxed, true⟩ (regsBase + off) n (leBytes 8 v)) s =
          Machine.exec (.deviceRegisterWrite (BitVec.ofNat 44 off) 3 (BitVec.ofNat 64 v)) s) ∧
        ((∀ o ∈ s.stalled, o.rq = some rq → o.kind ≠ 0) → Machine.exec (.hostRequest ⟨rq, relaxed, false⟩ (regsBase + 0x400050) 8 data) s =
          .next (if s.mstate = .talk then s else { s with hostRead := (leBytes 8 s.migthr.toNat, false) }))) ∧
      (regionOf pa = .cxl → s.configured (pa + data.length - 1) = true →
        (marked data.length → Machine.exec (.cxlBackInvalidation pa data) s = held none false 1 data.length) ∧
        (¬marked data.length → Machine.exec (.cxlBackInvalidation pa data) s = .next (s.poke pa data 8))) ∧
      (regionOf pa ≠ .cxl ∨ s.configured (pa + data.length - 1) = false →
        Machine.exec (.cxlBackInvalidation pa data) s = .next s) ∧
      (s.sharedPa pa = false ∨ s.sharedPa (pa + n - 1) = false → ∀ kind, Machine.exec (.peerModuleAccess kind pa n data) s = .next s) ∧
      (s.sharedPa pa = true → s.sharedPa (pa + n - 1) = true →
        let atomic := fun (kind : BitVec 2) (v : Nat) => Machine.exec (.peerModuleAccess kind pa n data) s =
          .next (if (n = 4 ∨ n = 8) ∧ pa % n = 0 ∧ poisoned = false then s.poke pa (leBytes n v) n else s)
        (marked n → ∀ kind, Machine.exec (.peerModuleAccess kind pa n data) s = held none false kind n) ∧
        (¬marked n → Machine.exec (.peerModuleAccess 0 pa n data) s = .next s ∧
          Machine.exec (.peerModuleAccess 1 pa n data) s = .next (s.poke pa (data.take n) 8) ∧
          atomic 2 ((Memory.value s.mem pa n + leNat data) % 2 ^ (8 * n)) ∧
          atomic 3 (leNat data % 2 ^ (8 * n)))))

/-- Steps of the renumbering unit on an active set: numbering places the rows in chains from the most used row on, and an
imported table is checked first; a move starts once its destination is free, copies in rounds, and is committed with FWD, INV
and VER; forwarding ends when the translation caches have acknowledged; a stalled move stops the reorder; and a recorded list
updates the sketch. The order in which the conditions of a reorder are judged (log entry 32), the rows of the staging area (33),
the end of a stopped reorder (34), the waits of the unit (56) and reason 7 for a walk that meets poison (91) are the model's
reading. -/
def Obligations.RenumberingEvents : Prop :=
  ∀ (s : Machine.State) (psd : Nat),
    let sets := fun (u : Machine.State) (f : Machine.PSet → Machine.PSet) =>
      ({ u with sets := u.sets.map fun k => if k.psd = psd then f k else k } : Machine.State)
    let rejected := fun (reason index : Nat) (extra : Word) =>
      (((sets s fun k => { k with rej := true, reorder := .none }).log 10 6 (BitVec.ofNat 16 reason) (BitVec.ofNat 32 index)
        (BitVec.ofNat 64 psd) extra)).pruneSets
    (s.setOf psd = none → ∀ c r, ∀ j ∈ [Instr.numbering psd, .importValidation psd, .rowMoveStart psd c, .copyRoundComplete psd c,
      .rowCommit psd c, .reorderStop psd c r], Machine.exec j s = .next s) ∧
    (∀ k, s.setOf psd = some k →
      let poisoned := fun (x : Machine.PSet) (v : Word) (n : Nat) => s.rangePoison x v n = true
      let tables := poisoned k k.fwd (4 * k.n) ∨ poisoned k k.inv (4 * (k.n + k.staging))
      (k.reorder ≠ .numbering → Machine.exec (.numbering psd) s = .next s) ∧
      (k.reorder = .numbering →
        let pages := s.rangeTrans k (k.ranges true)
        (s.rowsMisplaced k = true → Machine.exec (.numbering psd) s = .next (rejected 4 (2 ^ 32 - 1) 0)) ∧ (s.rowsMisplaced k = false →
        (lowestFault pages = none → awaitsPage pages = true → Machine.exec (.numbering psd) s = .next s) ∧
        (∀ p, lowestFault pages = some p → Machine.exec (.numbering psd) s = .next (rejected 7 (2 ^ 32 - 1) p)) ∧
        (lowestFault pages = none → awaitsPage pages = false → tables ∨ poisoned k k.sketch (32 * k.n) →
          Machine.exec (.numbering psd) s = .next (rejected 8 (2 ^ 32 - 1) 0)) ∧
        (lowestFault pages = none → awaitsPage pages = false → ¬(tables ∨ poisoned k k.sketch (32 * k.n)) →
          let row := fun (l : Nat) => ((s.recordAt k .read l).map fun r => r.2).getD ⟨0, 0, [], []⟩
          ∃ order : List Nat, order.Perm (List.range k.n) ∧
            (∀ i (h : i < order.length),
              let links := fun (b c : Nat) => ∃ j, j + 1 = i ∧ ∃ a, order[j]? = some a ∧ (b, c) ∈ (row a).ids.zip (row a).cnts ∧ 0 < c ∧
                b < k.n ∧ b ∉ order.take i
              ((∃ b c, links b c) → ∃ c, links order[i] c ∧ ∀ b d, links b d → d < c ∨ d = c ∧ order[i] ≤ b) ∧
              ((∀ b c, ¬links b c) → ∀ l, l < k.n → l ∉ order.take i →
                (row l).acc < (row order[i]).acc ∨ (row l).acc = (row order[i]).acc ∧ order[i] ≤ l)) ∧
            let target := fun (l : Nat) => order.findIdx fun x => x == l
            Machine.exec (.numbering psd) s = .next (((List.range k.n).foldl (fun (t : Machine.State) l =>
              t.updateRecord k l fun r => { r with tgt := target l }) s).startPlan k ((List.range k.n).map target))))) ∧
      (∀ table root, k.reorder = .importing table root →
        let own := { k with space := root }
        let target := fun (l : Nat) => s.rnuEntry own table l
        let pages := s.rangeTrans k (k.ranges false) ++ s.rangeTrans own [(.read, table, 4 * k.n)]
        (s.rowsMisplaced k = true → Machine.exec (.importValidation psd) s = .next (rejected 4 (2 ^ 32 - 1) 0)) ∧ (s.rowsMisplaced k = false →
        (lowestFault pages = none → awaitsPage pages = true → Machine.exec (.importValidation psd) s = .next s) ∧
        (∀ p, lowestFault pages = some p → Machine.exec (.importValidation psd) s = .next (rejected 7 (2 ^ 32 - 1) p)) ∧
        (lowestFault pages = none → awaitsPage pages = false →
          (tables ∨ poisoned own table (4 * k.n) → Machine.exec (.importValidation psd) s = .next (rejected 8 (2 ^ 32 - 1) 0)) ∧
          (¬(tables ∨ poisoned own table (4 * k.n)) →
            (∀ l, l < k.n → k.n ≤ target l → (∀ j, j < l → target j < k.n) →
              Machine.exec (.importValidation psd) s = .next (rejected 5 l 0)) ∧
            (∀ l m, (∀ j, j < k.n → target j < k.n) → l < m → m < k.n → target l = target m →
              (∀ i j, i < l → j < k.n → i ≠ j → target i ≠ target j) →
              Machine.exec (.importValidation psd) s = .next (rejected 6 l 0)) ∧
            ((∀ j, j < k.n → target j < k.n) → (∀ i j, i < j → j < k.n → target i ≠ target j) →
              Machine.exec (.importValidation psd) s = .next (s.startPlan k ((List.range k.n).map target))))))) ∧
      (∀ paths plan c l q d0 rest, k.reorder = .moving paths plan → plan[c]? = some ((l, q, d0) :: rest) →
        let end_ := k.n + k.staging
        let unused := fun (r : Nat) => (∀ m ∈ k.moves, m.src ≠ r ∧ (m.dst = r → m.st = .forwarding)) ∧
          ∀ p ∈ plan, ∀ m ∈ p, m.2.1 ≠ r ∧ m.2.2 ≠ r
        let takes := fun (d : Nat) => d0 ≠ end_ ∧ d = d0 ∨
          d0 = end_ ∧ k.n ≤ d ∧ d < end_ ∧ unused d ∧ ∀ r, k.n ≤ r → r < d → ¬unused r
        let begun := fun (j : Nat) => (plan[j]?.getD []).all fun m => m.2.1 != end_ && m.2.2 != end_
        let running := ((List.range plan.length).filter fun j => paths ≤ j && j != c && begun j && plan[j]? != some []).length
        let pathsDone := ∀ j, j < paths → plan[j]?.getD [] = []
        ((∀ d, ¬takes d) → Machine.exec (.rowMoveStart psd c) s = .next s) ∧
        (∀ d, takes d →
          let started := sets s fun k => { k with
            reorder := .moving paths (if d0 = end_ then plan.modify c fun p => p.map fun m =>
              (m.1, if m.2.1 = end_ then d else m.2.1, if m.2.2 = end_ then d else m.2.2) else plan)
            moves := k.moves ++ [⟨c, l, q, d, .copying, [], 0, [], none⟩] }
          let free := (∀ m ∈ k.moves, m.cyc = c → m.st = .forwarding) ∧ ∀ m ∈ k.moves, m.src ≠ d
          (free → c < paths → (∀ j, j < c → plan[j]?.getD [] = []) → Machine.exec (.rowMoveStart psd c) s = .next started) ∧
          (free → paths ≤ c → pathsDone → (∀ j, paths ≤ j → j < c → begun j = true) → begun c = true ∨ running < k.staging →
            Machine.exec (.rowMoveStart psd c) s = .next started) ∧
          (¬free ∨ (c < paths ∧ ∃ j, j < c ∧ plan[j]?.getD [] ≠ []) ∨ (paths ≤ c ∧ (¬pathsDone ∨ begun c = false ∧ k.staging ≤ running)) →
            Machine.exec (.rowMoveStart psd c) s = .next s))) ∧
      (∀ c, (∀ m ∈ k.moves, m.cyc = c → m.st = .forwarding) →
        ∀ j ∈ [Instr.copyRoundComplete psd c, .rowCommit psd c, .reorderStop psd c 9, .reorderStop psd c 10], Machine.exec j s = .next s) ∧
      (∀ c m, k.activeMove c = some m →
        let moves := fun (u : Machine.State) (f : Move → Move) => sets u fun k => { k with
          moves := k.moves.map fun m => if m.cyc = c ∧ m.st ≠ .forwarding then f m else m }
        let dirty := m.dirty.eraseDups
        let sane := s.entryPoison k k.fwd m.row = false ∧ s.entryPoison k k.inv m.dst = false ∧ s.entryPoison k k.inv m.src = false
        let blocked := if s.rowBlocked k m then some (m.since.getD s.cycle) else none
        let waits := moves s fun m => { m with since := blocked }
        let copied := fun (segs : List Nat) => segs.foldl (fun (t : Machine.State) g => t.copySegment k m g) (s.ownRow k m.dst)
        (s.rowWaits k m = true → m.st ≠ .forwarding → Machine.exec (.copyRoundComplete psd c) s = .next waits ∧
          Machine.exec (.rowCommit psd c) s = .next (if m.st = .locked then waits else s)) ∧
        (s.rowWaits k m = false →
          (m.st = .copying → Machine.exec (.copyRoundComplete psd c) s =
            .next (moves (copied (List.range (k.pitch / 64))) fun m => { m with st := .recopy 1, since := none })) ∧
          (∀ r, m.st = .recopy r →
            (4 < dirty.length → r < 8 → Machine.exec (.copyRoundComplete psd c) s =
              .next (moves (copied dirty) fun m => { m with st := .recopy (r + 1), dirty := [], since := none })) ∧
            (dirty.length ≤ 4 ∨ 8 ≤ r → Machine.exec (.copyRoundComplete psd c) s =
              .next (moves s fun m => { m with st := .locked, since := none }))) ∧
          (m.st = .locked → Machine.exec (.copyRoundComplete psd c) s = .next s) ∧
          let writes := fun (t : Machine.State) => s.downTrunk (psd + 0x28) = none ∧ ∃ a b,
            (copied dirty).setEntry4 k k.fwd m.row m.dst = some a ∧ a.setEntry4 k k.inv m.dst m.row = some b ∧
            b.setEntry4 k k.inv m.src 0xFFFFFFFF = some t
          (m.st = .locked → sane → ∀ c' t, writes c' → t = c'.poke (psd + 0x28) (leBytes 8 ((k.ver.toNat + 1) % 2 ^ 64)) 8 →
            let u := moves t fun m => { m with
              st := .forwarding, dirty := [], ver := k.ver + 1, pages := t.rowPages k m.dst, since := none }
            let u := sets u fun k => { k with ver := k.ver + 1, reorder := match k.reorder with
              | .moving paths plan =>
                let plan := plan.modify c fun p => p.drop 1
                if plan.all fun p => p.isEmpty then .none else .moving paths plan
              | r => r }
            let on := fun (w : Machine.Write) => if ∃ p, w.perm = some p ∧ p.1 = psd then (u.redirect w).1 else w
            let keep := fun (h : Hart) => { h with held := h.held.map on }
            Machine.exec (.rowCommit psd c) s = .next { u with
              wq := u.wq.map on, hart := keep u.hart, others := u.others.map keep, ended := u.ended.map keep }) ∧
          (m.st ≠ .locked ∨ ¬sane ∨ (∀ t, ¬writes t) → Machine.exec (.rowCommit psd c) s = .next s)) ∧
        (∀ reason : BitVec 8,
          let stops := (reason = 9 ∧ s.rowBlocked k m = true ∧ (∃ c, m.since = some c ∧ c + s.stallthr.toNat < s.cycle)) ∨ (reason = 10 ∧ ¬sane)
          (¬stops → Machine.exec (.reorderStop psd c reason) s = .next s) ∧
          (stops → Machine.exec (.reorderStop psd c reason) s = .next
            ((sets ((k.moves.filter fun m => m.st != .forwarding).foldl (fun (t : Machine.State) m => t.loseRow k m.dst) s)
              fun k => { k with reorder := .none, rej := true, moves := k.moves.filter fun m => m.st == .forwarding }).log 11 6
                (BitVec.zeroExtend 16 reason) (BitVec.ofNat 32 m.row) (BitVec.ofNat 64 psd) k.ver).pruneSets)))) ∧
    (∀ row,
      let old := fun (w : Machine.Write) => ∃ q o, w.perm = some (psd, row, q, o) ∧ (s.moveAt psd row q).isSome = true
      let onWay := (∃ w ∈ s.wq, old w) ∨ (∃ w ∈ s.hart.held, old w) ∨ ∃ h, (h ∈ s.others ∨ h ∈ s.ended) ∧ ∃ w ∈ h.held, old w
      (onWay → Machine.exec (.ptcAck psd row) s = .next s) ∧
      (¬onWay → ∃ t, Machine.exec (.ptcAck psd row) s = .next t ∧ t = { s with sets := t.sets, ptc := t.ptc } ∧
        (∀ k ∈ t.sets, k.psd = psd → ∀ m ∈ k.moves, m.row = row → m.st ≠ .forwarding) ∧
        (∀ k m, s.setOf psd = some k → m ∈ k.moves → m.row = row → m.st = .forwarding →
          ∀ e ∈ t.ptc, ¬(e.psd = psd ∧ e.row = row)))) ∧
    (∀ i x, s.samples[i]? = some x →
      let t := ({ s with samples := s.samples.eraseIdx i } : Machine.State)
      let pairs := (x.rows.zip (x.rows.drop 1)).flatMap fun p => [(p.1, p.2), (p.2, p.1)]
      let put := fun (t : Machine.State) (l : Nat) (f : Rec → Rec) =>
        let va := x.set.sketch + BitVec.ofNat 64 (32 * l)
        let own := t.rnuOwn x.set va
        (match own.rnuAddr x.set .write va with
        | some a => if (own.poisonAt a 32).isSome then t
          else own.poke a (f (Rec.ofBytes (Memory.bytes own.mem a 32))).bytes 32
        | none => t : Machine.State)
      ((∃ l ∈ x.rows, s.recordWaits x.set l = true) → Machine.exec (.sketchUpdate i) s = .next s) ∧
      ((∀ l ∈ x.rows, s.recordWaits x.set l = false) →
        Machine.exec (.sketchUpdate i) s = .next (pairs.foldl (fun (t : Machine.State) p => put t p.1 fun r => r.link p.2)
          (x.rows.foldl (fun (t : Machine.State) l => put t l fun r => { r with acc := min (r.acc + 1) (2 ^ 32 - 1) }) t)))) ∧
    (∀ (r : Rec) (b : Nat), r.ids.length = 4 → r.cnts.length = 4 →
      let n := fun (j : Nat) => r.cnts[j]?.getD 0
      let holds := fun (j : Nat) => j < 4 ∧ 0 < n j ∧ r.ids[j]?.getD 0 = b
      (∀ j, holds j → (∀ i, i < j → ¬holds i) → r.link b = { r with cnts := r.cnts.set j (min (n j + 1) (2 ^ 16 - 1)) }) ∧
      ((∀ j, ¬holds j) →
        (∀ j, j < 4 → n j = 0 → (∀ i, i < j → n i ≠ 0) → r.link b = { r with ids := r.ids.set j b, cnts := r.cnts.set j 1 }) ∧
        ((∀ j, j < 4 → n j ≠ 0) →
          (∀ j, j < 4 → n j = 1 → (∀ i, i < j → n i ≠ 1) → r.link b =
            { r with ids := r.ids.set j b, cnts := (r.cnts.map fun c => c - 1).set j 1 }) ∧
          ((∀ j, j < 4 → n j ≠ 1) → r.link b = { r with cnts := r.cnts.map fun c => c - 1 }))))

/-- The states of the module: from Run and Talk, and from no other state, module reset returns it to Boot with every register at
its reset value, memory as it stood and the images accepted last in force; the images verified, it tests itself, and else it
stays in Talk, with an entry for each image that failed and the first test that it failed; the self-test over, it runs with the
trunks that failed down, and any other failed unit keeps it in Talk; an entry of the report names a unit that the module has and
that unit's die. That memory keeps its contents over a module reset is the model's choice (log entry 21). -/
def Obligations.ModuleEvents : Prop :=
  ∀ (s : Machine.State),
    (s.mstate = .boot ∨ s.mstate = .selftest → Machine.exec .moduleReset s = .next s) ∧
    (s.mstate = .run ∨ s.mstate = .talk → ∃ t, Machine.exec .moduleReset s = .next t ∧ t.images = s.imagesNext ∧ t.imagesNext = s.imagesNext ∧
      t.l1d = [] ∧ t.l2 = [] ∧ t.llc = [] ∧ t.pubs = [] ∧ t.stalled = [] ∧ t.pageMoves = [] ∧ t.unacked = [] ∧ t.ended = [] ∧
      (∀ u ∈ s.poison, u.2.2 = .home → u ∈ t.poison) ∧ (∀ u ∈ t.poison, u.2.2 = .home) ∧ t.mstate = .boot ∧ t.mem = s.mem ∧ t.harts = [] ∧ t.gangs = [] ∧ t.swapped = [] ∧
      t.offers = [] ∧ t.wq = [] ∧ t.tlb = [] ∧ t.sets = [] ∧ (∀ q ∈ t.queues.toList, q = ⟨0, 0, 0, false, false, false, false, 0, 0, false, 0⟩) ∧
      t.masks[0] = BitVec.allOnes 384 ∧ (∀ v ∈ t.lpr.toList, v = 0) ∧ (∀ v ∈ t.serai.toList, v = 0) ∧ t.dpriv = 0 ∧ t.dshr = 0 ∧
      t.llcreq = 131 ∧ t.llcp = 131 ∧ t.epoch = 0 ∧ t.migthr = 32768 ∧ t.stallthr = 131072 ∧ t.slotTab0 = [] ∧ t.slotTab1 = [] ∧
      t.slotAct = false ∧ t.elEn = false ∧ t.refused = false ∧ (∀ v ∈ t.cecnt.toList, v = 0) ∧ t.mbox.busy = false ∧ t.mbox.done = false ∧
      t.mbox.keys = none) ∧
    (s.mstate ≠ .boot → Machine.exec .bootVerify s = .next s) ∧
    (s.mstate = .boot → ∃ f : List (Word × Word), (∀ e ∈ f, e.1.toNat % 256 = 8 ∧
        (let image := e.1.toNat / 2 ^ 16 % 2 ^ 16
        let die := e.1.toNat / 2 ^ 8 % 256
        let test := e.1.toNat / 2 ^ 32
        1 ≤ test ∧ test ≤ 3 ∧ image < 3 ∧ (image = 0 → die = 6) ∧ (image = 1 → die = 4 ∨ die = 5) ∧ (image = 2 → die < 4))) ∧
      f.length ≤ 3 ∧ Machine.exec .bootVerify s = .next { s with
      fresh := s.fresh + 1, mstate := if f = [] then .selftest else .talk, mbox := { s.mbox with report := f } }) ∧
    (s.mstate ≠ .selftest → Machine.exec .selftestComplete s = .next s) ∧
    (s.mstate = .selftest → ∃ f t, Machine.exec .selftestComplete s = .next t ∧ t.mbox.report = s.mbox.report ++ f ∧
      let kind := fun (e : Word × Word) => e.1.toNat % 256
      let die := fun (e : Word × Word) => e.1.toNat / 2 ^ 8 % 256
      let index := fun (e : Word × Word) => e.1.toNat / 2 ^ 16 % 2 ^ 16
      (∀ e ∈ f, 1 ≤ kind e ∧ kind e ≤ 7 ∧ (kind e = 1 → index e < 384 ∧ die e = index e / 96) ∧
        (kind e = 2 → index e < 48 ∧ die e = index e / 12) ∧ (kind e = 6 → index e < 16 ∧ die e = if index e < 8 then 4 else 5)) ∧
      ((∃ e ∈ f, kind e ≠ 6) → t.mstate = .talk ∧ t.trunks = s.trunks) ∧
      ((∀ e ∈ f, kind e = 6) → t.mstate = .run ∧ ∀ n : BitVec 4,
        let k := t.trunks[n.toNat]?.getD Trunk.trained
        if ∃ e ∈ f, e.1.extractLsb' 16 4 = n then k.st = .down ∧ k.fibres = 0 else k = s.trunks[n.toNat]?.getD Trunk.trained))
end

