-- ==== Sys2Proof/Tests/Slice0.lean ====
section
/-! SUPPORT. Tests: words that the spec encodes, operands that are not well-formed, single steps, and for each statement a state and
operands that meet its hypotheses. -/

namespace Sys2Proof.Tests

open Sys2Proof.Machine

set_option Elab.async false

/-! ### Words written out in the spec (Table 3 of chapter 04, and the encoding tables of chapters 05 to 23) -/

theorem test_decode_table_word : decodeTableWord 32 0x86508801 = some (.sub 18 16 17) := rfl

theorem test_decode_maj1 : decode 0b10000110010100001000100000000001 = .ok (.sub 18 16 17) ∧
    decode 0b10000100011000111000000000010101 = .ok (.div 3 3 16) ∧
    decode 0b10000110011100010000000000011001 = .ok (.clz 19 17) := ⟨rfl, rfl, rfl⟩

theorem test_decode_maj2 : decode 0b10001010000100000101111111111111 = .ok (.ori 16 16 0x1FFF) ∧
    decode 0b10001010001000111011111111111111 = .ok (.sltiu 17 3 (-1)) ∧
    decode 0b10001010100001011100000000000100 = .ok (.slli 20 5 4) := ⟨rfl, rfl, rfl⟩

theorem test_decode_maj3 : decode 0b10001110001011111111111111111111 = .ok (.movi 17 (-1)) := rfl

theorem test_decode_maj5 : decode 0b10010100011001001000000000000011 = .ok (.bltu 3 4 3) ∧
    decode 0b10010100101101010000000000001001 = .ok (.beq 5 21 9) := ⟨rfl, rfl⟩

theorem test_decode_maj7 : decode 0b10011100001100000000000000010000 = .ok (.jalr 1 16 16) := rfl

theorem test_decode_maj8 : decode 0b10100010001001111000001111111110 = .ok (.lw 17 7 0 (-2)) ∧
    decode 0b10100010001001111010001111111110 = .ok (.lwu 17 7 0 (-2)) ∧
    decode 0b10100010000001111110010000000010 = .ok (.ldp 16 7 0 1 2) := ⟨rfl, rfl, rfl⟩

theorem test_decode_maj9 : decode 0b10100110010000100111000000000010 = .ok (.sd 18 2 2 0 2) := rfl

theorem test_decode_maj10 : decode 0b10101010000001111000110011110100 = .ok (.acas 16 7 17 1 1 1 0 2) ∧
    decode 0b10101010000001110000010101000100 = .ok (.ald 16 7 1 0 0 2) ∧
    decode 0b10101000000001111000110110100100 = .ok (.ast 7 17 1 0 2) := ⟨rfl, rfl, rfl⟩

theorem test_decode_maj11 : decode 0b10101100000000000001001010000000 = .ok (.fence 0b1001 1) ∧
    decode 0b10101100000000000110000100000000 = .ok (.fenceW 2) ∧
    decode 0b10101100000000001000000000000000 = .ok .fenceI := ⟨rfl, rfl, rfl⟩

theorem test_decode_maj12 : decode 0b10110010000001000010000000010001 = .ok (.vsetvl 16 4 17) ∧
    decode 0b10110010000001000100000000001010 = .ok (.vsetvlw 16 4 0x00A) ∧
    decode 0b10110000000000000110000000000000 = .ok .vrel := ⟨rfl, rfl, rfl⟩

theorem test_decode_maj13 : decode 0b10110100100000010001000100110010 = .ok (.vsaddVV 4 1 2 2 3) := rfl

theorem test_decode_maj14 : decode 0b10111000110100100011000000001011 = .ok (.vsraVX 6 18 6 0 0) := rfl

theorem test_decode_maj15 : decode 0b10111100011000110001111111110111 = .ok (.vrsubi 3 3 1 (-1)) := rfl

theorem test_decode_maj16 : decode 0b11000000101000010001000000010011 = .ok (.vfdiv 5 1 2 0 1) ∧
    decode 0b11000000111000000100000110101001 = .ok (.vfcvt 7 8 3 2) := ⟨rfl, rfl⟩

theorem test_decode_maj17 : decode 0b11000101001100010101000001000111 = .ok (.vfrdivVX 9 17 10 0 4) := rfl

theorem test_decode_maj18 : decode 0b11001000101000010001001000000010 = .ok (.vcmplt 5 1 2 4) ∧
    decode 0b11001001100011000110100000011000 = .ok (.vfredsum 12 12 13 0) ∧
    decode 0b11001001110100000111100000100010 = .ok (.vslidedown 14 16 15 0) ∧
    decode 0b11001010001100000010000000100111 = .ok (.vext 17 16 4) ∧
    decode 0b11001000110001110011100100101010 = .ok (.vmix 6 7 7 2) := ⟨rfl, rfl, rfl, rfl, rfl⟩

theorem test_decode_maj19 : decode 0b11001101000000010100000000001000 = .ok (.pfirst 16 5) ∧
    decode 0b11001100011100010000000000001100 = .ok (.psetx 7 4) ∧
    decode 0b11001100100100100000000000001010 = .ok (.pld 9 8) := ⟨rfl, rfl, rfl⟩

theorem test_decode_maj20 : decode 0b11010000011000110000000010010000 = .ok (.vldff 3 3 1 0 0 0) ∧
    decode 0b11010000100011101001100000111000 = .ok (.vldz 4 14 19 0 1 0 0) := ⟨rfl, rfl⟩

theorem test_decode_maj21 : decode 0b11010100100011111001100000111000 = .ok (.vstz 4 15 19 0 1 0 0) ∧
    decode 0b11010100110011011000100100001001 = .ok (.vsts 6 13 17 2 0 0 1) := ⟨rfl, rfl⟩

theorem test_decode_maj22 : decode 0b11011000010001110001100000100000 = .ok (.vgat 2 7 3 0 1 0 0 0 0) := rfl

theorem test_decode_maj23 : decode 0b11011100111010010100000111011001 = .ok (.vsca 7 9 8 3 2 3 0 1) := rfl

theorem test_decode_maj24 : decode 0b11100000001000000001100000001000 = .ok (.vaadd 1 0 3 0 0 0 1) := rfl

theorem test_decode_maj25 : decode 0b11100100101010000011000010000000 = .ok (.vuadd 5 8 6 1 0 0 0) := rfl

theorem test_decode_maj26 : decode 0b11101001000001110100010100010010 = .ok (.mms 8 7 8 2 1 0 1) ∧
    decode 0b11101010100100001000100011010100 = .ok (.mmaiz 20 16 17 0 0 1 5) := ⟨rfl, rfl⟩

theorem test_decode_maj27 : decode 0b11101100000001110000000000000000 = .ok (.vcp 7) := rfl

theorem test_decode_maj28 : decode 0b11110000000001110000000000010000 = .ok (.psbind 7 1) ∧
    decode 0b11110000000010001000100000010011 = .ok (.psexp 8 17 1) ∧
    decode 0b11110010001000000000000000011000 = .ok (.psstat 17 1) := ⟨rfl, rfl, rfl⟩

theorem test_decode_maj29 : decode 0b11110100000100000000000000000000 = .ok (.gbar 16) ∧
    decode 0b11110110001001110100000000000100 = .ok (.launch 17 7 8) ∧
    decode 0b11110100011100100000000000000101 = .ok (.vxsend 3 18) := ⟨rfl, rfl, rfl⟩

theorem test_decode_maj30 : decode 0b11111000000100001111000100000100 = .ok (.tlbinv 16 17) ∧
    decode 0b11111010010001111110000000001001 = .ok (.pghot 18 7) ∧
    decode 0b11111010001000000010000010100000 = .ok (.csrrs 17 0 0x0A0) ∧
    decode 0b11111000000100000100100000000100 = .ok (.csrrc 0 16 0x804) := ⟨rfl, rfl, rfl, rfl⟩

theorem test_decode_maj31 : decode 0b11111101010100000111000100100001 = .ok (.vacas 10 16 14 2 0 1 0) ∧
    decode 0b11111100001001110001000001000100 = .ok (.vwaitGe 1 7 2 0 1 0) := ⟨rfl, rfl⟩

/-- Words that R341 calls illegal: the all-zero word, a reserved MAJ 1 function, a reserved MAJ 31 operation, and all ones. -/
theorem test_decode_refuses : decode 0 = .error .majZero ∧ (decode 0x865087FF).toOption = none ∧
    (decode 0xFC271046).toOption = none ∧ (decode 0xFFFFFFFF).toOption = none := ⟨rfl, rfl, rfl, rfl⟩

/-! ### Operands that are not well-formed -/

theorem test_wf_hint : (Instr.lb 1 2 3 0).wf = false ∧ (Instr.sd 1 2 3 0 0).wf = false ∧ (Instr.lb 1 2 2 0).wf = true := by decide

theorem test_wf_register_pair : (Instr.ldp 5 2 0 1 0).wf = false ∧ (Instr.sdp 5 2 0 1 0).wf = false ∧ (Instr.ldp 4 2 0 1 0).wf = true := by
  decide

theorem test_wf_tagged_atomic : (Instr.aadd 31 1 2 0 0 0 1 0).wf = false ∧ (Instr.ald 31 1 0 0 1 0).wf = false ∧
    (Instr.aadd 31 1 2 0 0 0 0 0).wf = true := by decide

theorem test_wf_fence : (Instr.fence 0 1).wf = false ∧ (Instr.fenceSv 0 1).wf = false ∧ (Instr.fenceVs 0 1).wf = false := by decide

theorem test_wf_vtype : (Instr.vsetvli 1 2 4).wf = false ∧ (Instr.vsetvlw 1 2 0x20).wf = false ∧ (Instr.vsetvli 1 2 0xC0).wf = false ∧
    (Instr.vsetvli 1 2 0x200).wf = false := by decide

theorem test_wf_atomicity : (Instr.vld 1 2 0 0 0 3).wf = false ∧ (Instr.vstz 1 2 3 0 0 0 3).wf = false := by decide

theorem test_wf_slot : (Instr.psbind 1 0).wf = false ∧ (Instr.psstat 1 0).wf = false ∧ (Instr.psbind 1 3).wf = true := by decide

theorem test_wf_csr : (Instr.csrrw 1 2 0x400).wf = false ∧ (Instr.csrrs 1 0 0x400).wf = true ∧ (Instr.csrrs 1 2 0x001).wf = false ∧
    (Instr.csrrc 1 2 0xC00).wf = false := by decide

/-! ### A small state -/

/-- A hart in slot 0 of core 0 at privilege U: SEW 32, LMUL 1, one lane group, VL 8. -/
def demoHart : Hart := { Hart.blank 0 0 with
  status := .running, pc := 0x20000, gmask := 1, mvl := 64, vl := 8, vtype := 2, vcarry := 2, pcarry := 2 }

/-- A module in Run with that hart on lane group 0, to whose core a 4 TiB page maps itself, and one word at the pc. -/
def demo : State := { State.reset with
  hart := demoHart
  mstate := .run
  lpr := State.reset.lpr.set 0 4
  tlb := [⟨0, 0, 0, 42, 0x1F, 0, false⟩]
  mem := [(0x20003, 0x80)] }

/-- The state with its hart changed. -/
def demoWith (f : Hart → Hart) : State := { demo with hart := f demoHart }

theorem ready_of {s : State} (h : s.conv = Convoy.fresh ∧ s.hart.slot < 4 ∧ s.hart.resume = none ∧ s.hart.status ≠ .gone ∧
    s.hart.status ≠ .halted ∧ s.hart.rewEn = false ∧ s.hart.stepping 1 = false ∧ (∀ w ∈ s.hart.held, w.now = false) ∧
    s.hart.rheld = []) : Ready s :=
  ⟨by rw [h.1], h.2.1, h.2.2.1, h.2.2.2.1, h.2.2.2.2.1, h.2.2.2.2.2.1, h.2.2.2.2.2.2.1, h.2.2.2.2.2.2.2.1, h.2.2.2.2.2.2.2.2⟩

theorem reaches_of {s : State} {acc : Acc} {scalar : Bool} {va : Word} {n pa : Nat} (base : Nat) (leaf : Word)
    (h : va.toNat % 65536 + n ≤ 65536 ∧ s.translate s.hart.core s.hart.ptbase s.hart.priv acc scalar (pageOf va) = .pa base leaf ∧
      pa = base + va.toNat % 65536 ∧ base % 65536 = 0 ∧ regionOf pa ≠ .regs ∧ s.ownPubs = []) : Reaches s acc scalar va n pa :=
  ⟨h.1, ⟨base, leaf, h.2.1, h.2.2.1, h.2.2.2.1⟩, h.2.2.2.2.1, by rw [h.2.2.2.2.2]; exact fun _ hp => absurd hp List.not_mem_nil⟩

/-- No byte is poisoned, and nothing of the hart or of its core is on its way. -/
abbrev Idle (s : State) : Prop := s.poison = [] ∧ s.wq = [] ∧ s.unacked = [] ∧ s.hart.held = [] ∧ s.hart.orders = []

/-- The pieces lie in tier H. -/
abbrev Low (ps : List (Nat × Nat)) : Prop := ∀ p ∈ ps, p.1 + p.2 ≤ 0x6000000000

theorem sound_of {s : State} {pa n : Nat} (h : s.poison = []) : Sound s pa n := by
  intro u hu
  rw [h] at hu
  exact absurd hu List.not_mem_nil

theorem follows_of {s : State} {c : Cls} {ps : List (Nat × Nat)} (h : Idle s) : Follows s c ps := by
  obtain ⟨-, h2, -, h4, h5⟩ := h
  constructor
  · rw [h5]; exact fun _ ho => absurd ho List.not_mem_nil
  · rw [h4]; exact fun _ hw => absurd hw List.not_mem_nil
  · rw [h2]; exact fun _ hw => absurd hw List.not_mem_nil

theorem alone_of {s : State} (h : Idle s) : Alone s := by
  obtain ⟨-, h2, h3, h4, -⟩ := h
  refine ⟨h4, ?_⟩
  rw [h2, h3]
  exact fun _ hw => absurd hw List.not_mem_nil

theorem low_region {pa : Nat} (h : pa < 0x6000000000) : regionOf pa = .hbm := if_pos h

theorem served_of {s : State} {ps : List (Nat × Nat)} (h : Low ps) : Served s ps := by
  intro p hp k hk
  have hb := h p hp
  unfold State.unserved
  rw [low_region (by omega)]

theorem near_of {s : State} {ps : List (Nat × Nat)} (h : Low ps) : Near s ps := by
  intro p hp k hk
  have hb := h p hp
  unfold State.overTrunk
  rw [low_region (by omega)]
  rfl

theorem open_of {s : State} {pa n : Nat} (h : pa < 0x6000000000 ∧ s.pageMoves = [] ∧ s.sliceReqs = [] ∧ s.wq = []) : Open s pa n := by
  obtain ⟨h1, h2, h3, h4⟩ := h
  constructor
  · unfold State.downTrunk
    rw [low_region h1]
  · rw [h2]; exact fun _ hm => absurd hm List.not_mem_nil
  · rw [h3]; exact fun _ hm => absurd hm List.not_mem_nil
  · rw [h4]; exact fun _ hm => absurd hm List.not_mem_nil

theorem clean_of {s : State} {P : Word → Nat} {ts : List Touch} (h : Idle s ∧ ∀ t ∈ ts, Low (piecesAt P t)) : Clean s P ts :=
  ⟨fun _ _ _ _ => sound_of h.1.1, fun t ht => served_of (h.2 t ht), fun _ _ => follows_of h.1⟩

theorem demo_ready : Ready demo := ready_of (by decide)

theorem demo_reads : Reaches demo .read true 0x30000 64 0x30000 := reaches_of 0x30000 0x1F (by decide +kernel)

theorem demo_writes : Reaches demo .write true 0x30000 64 0x30000 := reaches_of 0x30000 0x1F (by decide +kernel)

/-! ### Single steps -/

/-- The state that an instruction leaves. -/
def after (i : Instr) (s : State) : State :=
  match exec i s with
  | .next t => t
  | .fault _ | .refused _ => s

/-- The demo state with scalar registers set. -/
def withRegs (rs : List (BitVec 5 × Word)) : State := rs.foldl (fun (t : State) r => t.setX r.1 r.2) demo

/-- The demo state with the elements of a vector register set, SEW 32. -/
def withVec (vs : List (Nat × List Nat)) : State :=
  demoWith fun h => vs.foldl (fun (h : Hart) v => ((List.range v.2.length).zip v.2).foldl
    (fun (h : Hart) e => h.setElem 32 v.1 e.1 e.2) h) h

/-- Elements 0 to 7 of a vector register, SEW 32. -/
def elems (s : State) (v : Nat) : List Nat := (List.range 8).map fun i => s.hart.elem 32 v i

/-- R114, R116: the sum wraps modulo 2^64. -/
theorem test_add_wraps : (after (.add 3 1 2) (withRegs [(1, 0xFFFFFFFFFFFFFFFF), (2, 2)])).x 3 = 1 := by decide +kernel

/-- R114: a write to x0 is discarded. -/
theorem test_add_x0 : (after (.add 0 1 2) (withRegs [(1, 5), (2, 2)])).x 0 = 0 := by decide +kernel

/-- R115: the source is read before the destination is written. -/
theorem test_sub_same : (after (.sub 2 1 2) (withRegs [(1, 5), (2, 7)])).x 2 = 0xFFFFFFFFFFFFFFFE := by decide +kernel

/-- R116: the shift amount is b[5:0]. -/
theorem test_sra_amount : (after (.sra 3 1 2) (withRegs [(1, 0x8000000000000000), (2, 0x43)])).x 3 = 0xF000000000000000 := by
  decide +kernel

/-- R117, Table 2: the two borderline cases of division. -/
theorem test_div_edges : (after (.div 3 1 2) (withRegs [(1, 0x8000000000000000), (2, 0xFFFFFFFFFFFFFFFF)])).x 3 = 0x8000000000000000 ∧
    (after (.div 3 1 0) (withRegs [(1, 7)])).x 3 = 0xFFFFFFFFFFFFFFFF ∧
    (after (.rem 3 1 2) (withRegs [(1, 0xFFFFFFFFFFFFFFF9), (2, 2)])).x 3 = 0xFFFFFFFFFFFFFFFF := by decide +kernel

/-- R116: mulh is the high half of the signed product. -/
theorem test_mulh : (after (.mulh 3 1 2) (withRegs [(1, 0xFFFFFFFFFFFFFFFF), (2, 5)])).x 3 = 0xFFFFFFFFFFFFFFFF := by decide +kernel

/-- R116: for a rotation by 0 the result is a. -/
theorem test_rotl_zero : (after (.rotl 3 1 2) (withRegs [(1, 0x123456789), (2, 64)])).x 3 = 0x123456789 := by decide +kernel

/-- R118: ori zero-extends its immediate, sltiu sign-extends it before the unsigned compare. -/
theorem test_immediates : (after (.ori 3 0 0x1FFF) demo).x 3 = 0x1FFF ∧ (after (.sltiu 3 1 0x1FFF) (withRegs [(1, 5)])).x 3 = 1 ∧
    (after (.sltiu 3 1 0x1FFF) (withRegs [(1, 0xFFFFFFFFFFFFFFFF)])).x 3 = 0 := by decide +kernel

/-- R85: movh shifts its immediate left by 12. -/
theorem test_movh : (after (.movh 3 0x80000) demo).x 3 = 0xFFFFFFFF80000000 := by decide +kernel

/-- R87, R119: a taken branch goes on at its own address plus four times the offset. -/
theorem test_branch : (after (.bne 1 0 (-6)) (withRegs [(1, 1)])).hart.pc = 0x20000 - 24 ∧
    (after (.blt 1 0 5) (withRegs [(1, 1)])).hart.pc = 0x20004 := by decide +kernel

/-- R120: jalr through its own link register. -/
theorem test_jalr_link : (after (.jalr 1 1 8) (withRegs [(1, 0x30000)])).hart.pc = 0x30008 ∧
    (after (.jalr 1 1 8) (withRegs [(1, 0x30000)])).x 1 = 0x20004 := by decide +kernel

/-- R121: a signed byte, and a store of two registers, little-endian. -/
theorem test_lb_sign : (after (.lb 3 1 0 (-1)) { withRegs [(1, 0x30001)] with mem := [(0x30000, 0x80)] }).x 3 = 0xFFFFFFFFFFFFFF80 := by
  decide +kernel

theorem test_sdp_bytes : let t := after (.sdp 2 1 0 0 0) (withRegs [(1, 0x30000), (2, 0x0102), (3, 0x0304)])
    t.readByte .scalar 0x30000 = 0x02 ∧ t.readByte .scalar 0x30001 = 0x01 ∧ t.readByte .scalar 0x30008 = 0x04 := by decide +kernel

/-- R122, R325: a misaligned access traps with code 0x03; TVAL is the address, and the hart is at TVEC at privilege S. -/
theorem test_misaligned : let t := after (.lw 3 1 0 0) (withRegs [(1, 0x30002)])
    t.hart.tcause = 0x003 ∧ t.hart.tval = 0x30002 ∧ t.hart.tepc = 0x20000 ∧ t.hart.priv = .s ∧ t.hart.tip = true := by decide +kernel

/-- R127, R129: an atomic returns the old value, sign-extended at 4 bytes, and adds in memory. -/
theorem test_aadd : let t := after (.aadd 3 1 2 0 0 1 0 2) { withRegs [(1, 0x30000), (2, 1)] with
      mem := [(0x30000, 0xFF), (0x30001, 0xFF), (0x30002, 0xFF), (0x30003, 0xFF), (0x30004, 0x11)] }
    t.x 3 = 0xFFFFFFFFFFFFFFFF ∧ t.mem = [(0x30004, 0x11)] := by decide +kernel

/-- R133, Table of R73: csrrw writes the writable bits of FLAGS and returns the old value. -/
theorem test_csrrw_flags : let t := after (.csrrw 3 1 0x0A0) (withRegs [(1, 0xFFFFFFFFFFFFFFFF)])
    t.x 3 = 0 ∧ t.hart.flags = 0x37F := by decide +kernel

/-- R134: a system CSR at privilege U is a privilege trap, code 0x02. -/
theorem test_csr_privilege : (after (.csrrs 3 0 0x800) demo).hart.tcause = 0x002 := by decide +kernel

/-- R313: sys traps after its convoy, TVAL the register and TEPC the next convoy. -/
theorem test_sys : let t := after (.sys 1) (withRegs [(1, 9)])
    t.hart.tcause = 0x012 ∧ t.hart.tval = 9 ∧ t.hart.tepc = 0x20004 ∧ t.hart.convoys = 1 := by decide +kernel

/-- R331: tret goes on at TEPC with the privilege of SPP, and TIP is clear. -/
theorem test_tret : let t := after .tret (demoWith fun h => { h with priv := .s, tepc := 0x40000, tstatus := 0x40 })
    t.hart.pc = 0x40000 ∧ t.hart.priv = .u ∧ t.hart.tip = false := by decide +kernel

/-- R139, R140: VL is the lesser of AVL and MVL, 8 lanes of 8 elements for one group at SEW 32. -/
theorem test_vsetvli : let t := after (.vsetvli 3 1 2) (withRegs [(1, 100)])
    t.x 3 = 64 ∧ t.hart.vl = 64 ∧ t.hart.mvl = 64 := by decide +kernel

/-- R149, rule V: vadd wraps modulo 2^32, and vsadd clamps and raises SATI. -/
theorem test_vadd : elems (after (.vaddVV 3 1 2 0 0) (withVec [(1, [0x7FFFFFFF, 5]), (2, [1, 6])])) 3 =
    [0x80000000, 11, 0, 0, 0, 0, 0, 0] := by decide +kernel

theorem test_vsadd : let t := after (.vsaddVV 3 1 2 0 0) (withVec [(1, [0x7FFFFFFF, 5]), (2, [1, 6])])
    elems t 3 = [0x7FFFFFFF, 11, 0, 0, 0, 0, 0, 0] ∧ t.hart.flags = 0x20 := by decide +kernel

/-- R145: an element at VL or above keeps its contents. -/
theorem test_tail : (after (.vmvi 1 0 (-1)) (withVec [(1, [0, 0, 0, 0, 0, 0, 0, 0, 7])])).hart.elem 32 1 8 = 7 := by decide +kernel

/-- R152: 1.0 + 2^-24 is a tie in FP32 and rounds to 1.0, NX raised. -/
theorem test_vfadd : let t := after (.vfadd 3 1 2 0 0) (withVec [(1, [0x3F800000]), (2, [0x33800000])])
    t.hart.elem 32 3 0 = 0x3F800000 ∧ t.hart.flags = 0x01 := by decide +kernel

/-- R155: a reduction starts from element 0 of vs1 and writes element 0 alone. -/
theorem test_vredsum : elems (after (.vredsum 3 1 2 0) (withVec [(1, [100]), (2, [1, 2, 3, 4, 5, 6, 7, 8]), (3, [9, 9])])) 3 =
    [136, 9, 0, 0, 0, 0, 0, 0] := by decide +kernel

/-- R157: slides. -/
theorem test_vslideup : elems (after (.vslideup 3 1 2 0) { withVec [(2, [1, 2, 3, 4, 5, 6, 7, 8]), (3, [9, 9, 9])] with
    hart := ((withVec [(2, [1, 2, 3, 4, 5, 6, 7, 8]), (3, [9, 9, 9])]).setX 1 2).hart }) 3 = [9, 9, 1, 2, 3, 4, 5, 6] := by decide +kernel

/-- R145, R160, R161: a compare writes predicate bits, and pfirst finds the lowest. -/
theorem test_vcmp_pfirst : let t := after (.vcmpeq 5 1 2 0) (withVec [(1, [1, 2, 3]), (2, [9, 2, 3, 1, 1, 1, 1, 1])])
    (List.range 8).map (t.hart.pbit 5) = [false, true, true, false, false, false, false, false] ∧
      (after (.pfirst 3 5) t).x 3 = 1 ∧ (after (.pcount 3 5) t).x 3 = 2 := by decide +kernel

/-- R164, R171: a unit-stride load and store at SEW 32 without conversion (MFC0). -/
theorem test_vld_vst : let s := { withRegs [(1, 0x30000), (2, 0x30100)] with mem := [(0x30000, 1), (0x30004, 2), (0x3001C, 8), (0x30020, 9)] }
    let t := after (.vst 4 2 0 0 0 0) (after (.vld 4 1 0 0 0 0) s)
    elems t 4 = [1, 2, 0, 0, 0, 0, 0, 8] ∧ t.readByte .vector 0x30104 = 2 ∧ t.readByte .vector 0x3011C = 8 ∧
      t.readByte .vector 0x30120 = 0 := by decide +kernel

/-- R142: smb advances its pointers by VL elements and jumps back while elements remain. -/
theorem test_smb : let t := after (.smb 4 3 0 0 0 5 0) (withRegs [(4, 20), (12, 0x30000)])
    t.x 12 = 0x30000 + 32 ∧ t.x 4 = 12 ∧ t.hart.vl = 12 ∧ t.hart.pc = 0x20000 - 20 := by decide +kernel

/-- R224: the line at offset 0x12345680 of the drawer window goes to trunk 15. -/
theorem test_trunk : trunkOf (drawerBase + 0x12345680) = 15 := by decide +kernel

/-- R298: a TAIL that passes the ring's size is ignored and sets OVF. -/
theorem test_doorbell : let q := fun (t : State) => t.queueAt 3
    let s := { demo with queues := demo.queues.set 3 { Queue.empty with log2sz := 2, head := 0xFFFFFFFF } }
    (q (after (.doorbell ⟨0, 3⟩ 2) s)).tail = 2 ∧ (q (after (.doorbell ⟨0, 3⟩ 4) s)).tail = 0 ∧ (q (after (.doorbell ⟨0, 3⟩ 4) s)).ovf = true := by
  decide +kernel

/-- R228: STALLTHR below 98,304 is held as 98,304, and an LLCREQ value that is not listed is refused. -/
theorem test_registers : (after (.deviceRegisterWrite 0x400058 3 5) demo).stallthr = 98304 ∧
    (after (.llcreqWrite 130) demo).refused = true ∧ (after (.llcreqWrite 127) demo).llcreq = 127 := by decide +kernel

/-- R367: a trunk returns with 6 fibres where 7 work. -/
theorem test_retrain : ((after (.retrainAttemptEnd 2 7) { demo with trunks := demo.trunks.set 2 { Trunk.trained with st := .retraining } }).trunkAt 2).fibres =
    6 := by decide +kernel

/-- The host's word is the first instruction that step runs from reset. -/
theorem test_fetch_word : ∃ t, step (State.reset.withFetchWord 32 0x88600005) = .next t ∧ t.hart.reg 3 = 5 := ⟨_, rfl, by decide +kernel⟩

/-- vaddi v1, v2, 1 over 16 elements on 8 lanes, under element step. -/
def stepped : State := { demo with
  hart := { demoHart with vl := 16, dbgctl := 2, wbase := 0x1000 }
  mem := Memory.setBytes [] 0x20000 (leBytes 4 0b10111100001000100000000000010000) }

/-- R399, R400: the second step, after the return from the first one's event, leaves the elements of both groups. -/
theorem test_element_step : (List.range 16).map (fun i => ((after .tret stepped.turn).turn.hart.elem 32 1 i)) = List.replicate 16 1 := by
  decide +kernel

/-! The demo's one page: an address below 384 GiB translates to itself. -/

/-- The physical address and the leaf of a page of the demo state. -/
abbrev idP (p : Word) : Nat := p.toNat

abbrev idL (_ : Word) : Word := 0x1F

theorem low_canonical {va : Word} (h : va.toNat < 0x6000000000) : canonical va = true := by
  have hm : (va.extractLsb' 0 55).msb = false := by
    rw [BitVec.msb_eq_false_iff_two_mul_lt, BitVec.extractLsb'_toNat]
    simp
    omega
  unfold canonical
  rw [beq_iff_eq, BitVec.signExtend_eq_setWidth_of_msb_false hm]
  apply BitVec.eq_of_toNat_eq
  simp
  omega

theorem low_translate {s : State} {space : BitVec 61} (ht : s.tlb = demo.tlb) (hs : space.extractLsb' 52 9 = 0) (priv : Priv) (acc : Acc)
    (scalar : Bool) (va : Word) (h : va.toNat < 0x6000000000) : s.translate 0 space priv acc scalar va = .pa va.toNat 0x1F := by
  have hw : pteCow 0x1F = false := by decide
  have hl : s.leafOf 0 space acc va = (.leaf 0x1F 42 0, false) := by
    have hf : s.tlbFind 0 space va = some ⟨0, 0, 0, 42, 0x1F, 0, false⟩ := by
      unfold State.tlbFind
      rw [ht, hs]
      have hv : va.toNat / 2 ^ 42 = 0 := Nat.div_eq_of_lt (by omega)
      simp [demo]
      omega
    unfold State.leafOf
    rw [hf]
    simp only [hw, Bool.and_false, Bool.false_eq_true, if_false]
  have hp : localTcm 0 (ptePa 0x1F + va.toNat % 2 ^ 42) = va.toNat := by
    have h0 : ptePa 0x1F = 0 := by decide
    rw [h0, Nat.mod_eq_of_lt (by omega)]
    unfold localTcm
    rw [if_neg (by simp only [aliasBase]; omega)]
    omega
  have ha : pteAllows 0x1F priv acc = true := by cases priv <;> cases acc <;> decide
  have hr : s.regionFault 0 scalar va.toNat = none := by
    unfold State.regionFault State.configured
    rw [low_region h]
    rfl
  have hm : pteM 0x1F = false := by decide
  unfold State.translate
  rw [low_canonical h, hl]
  simp only [Bool.not_true, Bool.false_eq_true, if_false, hm, ha, hp, hr, hw, Bool.false_and, Bool.and_false]

theorem low_page {s : State} {core : Nat} {space : BitVec 61} {priv : Priv} {acc : Acc} {scalar : Bool} {va : Word} {n : Nat}
    (h : s.tlb = demo.tlb ∧ core = 0 ∧ space.extractLsb' 52 9 = 0 ∧ va.toNat < 0x6000000000 ∧ va.toNat = n) :
    s.translate core space priv acc scalar va = .pa n 0x1F := by
  obtain ⟨h1, h2, h3, h4, h5⟩ := h
  subst h2 h5
  exact low_translate h1 h3 _ _ _ _ h4

/-- The demo's page maps every access below 384 GiB. -/
theorem low_maps {s : State} {space : BitVec 61} {acc : Acc} {ts : List Touch} (h : s.tlb = demo.tlb ∧ s.hart.core = 0 ∧
    space.extractLsb' 52 9 = 0 ∧ (∀ t ∈ ts, t.va.toNat + (t.n - 1) < 0x6000000000) ∧ ∀ t ∈ ts, Low (piecesAt idP t)) :
    Maps s space acc ts idP idL := by
  obtain ⟨h1, h2, h3, h5, h4⟩ := h
  refine ⟨fun t m p hp => ?_, fun _ t ht => near_of (h4 t ht)⟩
  rw [h2]
  refine low_translate h1 h3 _ _ _ p ?_
  have hb := h5 t m
  unfold pagesAt at hp
  simp only [List.mem_map, List.mem_range] at hp
  obtain ⟨k, hk, rfl⟩ := hp
  have hq := Laws.pageOf_toNat t.va
  rw [BitVec.toNat_add, BitVec.toNat_ofNat]
  have hk2 : 65536 * k ≤ t.va.toNat % 65536 + (t.n - 1) := by
    have := Nat.div_mul_le_self (t.va.toNat % 65536 + (t.n - 1)) 65536
    have hk3 : k ≤ (t.va.toNat % 65536 + (t.n - 1)) / 65536 := by omega
    calc 65536 * k ≤ 65536 * ((t.va.toNat % 65536 + (t.n - 1)) / 65536) := Nat.mul_le_mul_left _ hk3
      _ ≤ _ := by omega
  omega

theorem low_reaches {s : State} {acc : Acc} {scalar : Bool} {va : Word} {n pa : Nat} (h : s.tlb = demo.tlb ∧ s.hart.core = 0 ∧
    s.hart.ptbase.extractLsb' 52 9 = 0 ∧ va.toNat % 65536 + n ≤ 65536 ∧ pa = va.toNat ∧ va.toNat < 0x6000000000 ∧
    s.ownPubs = []) : Reaches s acc scalar va n pa := by
  obtain ⟨h1, h2, h3, h4, rfl, h6, h8⟩ := h
  have hq := Laws.pageOf_toNat va
  refine ⟨h4, ⟨(pageOf va).toNat, 0x1F, ?_, by omega, by omega⟩, ?_, by rw [h8]; exact fun _ hp => absurd hp List.not_mem_nil⟩
  · rw [h2]
    exact low_translate h1 h3 _ _ _ _ (by omega)
  · rw [low_region h6]
    decide

/-! ### Witnesses: what the hypotheses of the statements ask for is met -/

/-- A state of the demo with a word at its pc, and memory as given above it. -/
def withWord (w : Nat) (m : List Host.Cell) : State := { demo with mem := Memory.setBytes m 0x20000 (leBytes 4 w) }

/-- The demo at privilege S. -/
def demoS : State := demoWith fun h => { h with priv := .s }

theorem demoS_ready : Ready demoS := ready_of (by decide)

theorem witness_DecodeEncode : (Instr.sd 31 1 2 1 (-512)).wf = true ∧ (encode true (.sd 31 1 2 1 (-512))).isSome ∧
    (Instr.vgat 0 31 2 15 3 3 1 1 1).wf = true ∧ (encode false (.vgat 0 31 2 15 3 3 1 1 1)).isSome := by decide +kernel

/-- Whether a fetch gives a word. -/
def gives (f : Fetched) (w : BitVec 32) : Bool :=
  match f with
  | .word v => v == w
  | _ => false

theorem gives_eq {f : Fetched} {w : BitVec 32} (h : gives f w = true) : f = .word w := by
  unfold gives at h
  split at h
  · rw [eq_of_beq h]
  · cases h

/-- What lets a hart that may go on issue the word at its pc, as one proposition that can be evaluated. -/
abbrev MayIssue (s : State) (w : BitVec 32) : Prop := s.abortedHere = false ∧ s.hart.switchReq = false ∧ s.hart.due = none ∧
  s.hart.pass = none ∧ s.hart.breaks = false ∧ s.hart.stepping 2 = false ∧ s.hart.entriesUsed < 16 ∧ s.hart.prot = false ∧
  gives (s.fetch s.hart.pc) w = true ∧ w.getLsbD 31 = true

theorem issues_any {s : State} {w : BitVec 32} (hl : s.hart.status = .running ∨ ∃ why since, s.hart.status = .waiting why since)
    (h : MayIssue s w) : Issues s w := by
  obtain ⟨h1, h2, h3, h4, h5, h6, h7, h8, h9, h10⟩ := h
  exact ⟨hl, h1, h2, h3, h4, h5, h6, h7, fun h => absurd h (by rw [h8]; exact Bool.false_ne_true), gives_eq h9, h10⟩

theorem issues_of {s : State} {w : BitVec 32} (h : s.hart.status = .running ∧ MayIssue s w) : Issues s w := issues_any (.inl h.1) h.2

/-- The word 0x86508801 of Table 3 at the pc, with E set, and a word that does not decode. -/
theorem witness_StepRunsDecoded : Ready (withWord 0x86508801 []) ∧ Issues (withWord 0x86508801 []) 0x86508801 ∧
    decode 0x86508801 = .ok (.sub 18 16 17) ∧ (∃ t, exec (.sub 18 16 17) (withWord 0x86508801 []) = .next t) ∧
    (withWord 0x86508801 []).agenda = [] :=
  ⟨ready_of (by decide +kernel), issues_of (by decide +kernel), rfl, ⟨_, rfl⟩, rfl⟩

theorem witness_StepRunsDecoded_illegal : Ready (withWord 0x865087FF []) ∧ Issues (withWord 0x865087FF []) 0x865087FF ∧
    (∃ e, decode 0x865087FF = .error e) ∧ ∃ t, traps (withWord 0x865087FF []) (withWord 0x865087FF []).illegal = .next t :=
  ⟨ready_of (by decide +kernel), issues_of (by decide +kernel), ⟨_, rfl⟩, ⟨_, rfl⟩⟩

/-- Under PROTMODE, with the two copies of every register alike. -/
theorem witness_StepRunsDecoded_protected : let s := { withWord 0x86508801 [] with hart := { demoHart with prot := true } }
    Ready s ∧ Issues s 0x86508801 :=
  ⟨ready_of (by decide +kernel), ⟨.inl rfl, by decide +kernel, rfl, rfl, rfl, by decide +kernel, by decide +kernel, by decide +kernel,
    fun _ => by decide +kernel, gives_eq (by decide +kernel), by decide⟩⟩

theorem witness_InstructionFetch : demo.translate 0 demo.hart.ptbase .u .fetch false 0x20000 = .pa 0x20000 0x1F ∧ demo.l1i = [] ∧
    demo.downTrunk 0x20000 = none := by decide +kernel

theorem witness_InstructionFetch_fault : demo.translate 0 demo.hart.ptbase .u .fetch false 0x8000000000000000 = .fault 6 2 := by
  decide +kernel

theorem kept_of {s : State} (h : Memory.wf s.mem = true ∧ (∀ t ∈ s.trunks.toList, t.fibres ∈ [0, 4, 6, 8]) ∧
    (∀ v ∈ s.serai.toList, v.toNat ≤ 16) ∧ 98304 ≤ s.stallthr.toNat ∧ (s.llcreq = 131 ∨ s.llcreq = 127 ∨ s.llcreq = 113) ∧
    (s.llcp = 131 ∨ s.llcp = 127 ∨ s.llcp = 113) ∧ s.change = none ∧ s.changeHeld = [] ∧ s.masks[0] = BitVec.allOnes 384) : Kept s := by
  refine ⟨h.1, h.2.1, h.2.2.1, h.2.2.2.1, h.2.2.2.2.1, h.2.2.2.2.2.1, ?_, h.2.2.2.2.2.2.2.2⟩
  intro n hn
  rw [h.2.2.2.2.2.2.1, h.2.2.2.2.2.2.2.1] at hn
  simp at hn

theorem witness_StepKeeps : Kept (withWord 0x86508801 []) ∧ ∃ t, step (withWord 0x86508801 []) = .next t :=
  ⟨kept_of (by decide +kernel), ⟨_, rfl⟩⟩

/-- Registers with the boundary values that the clauses of ctz, of a division and of a branch tell apart. -/
theorem witness_ScalarResults : Ready (withRegs [(1, 0), (2, 1), (3, 0x8000000000000000)]) ∧
    (∀ j, j < 64 → (0 : Word).getLsbD j = false) ∧ (1 : Word).getLsbD 0 = true ∧
    (∀ j, j < 63 → (0x8000000000000000 : Word).getLsbD j = false) ∧ (0x8000000000000000 : Word).getLsbD 63 = true :=
  ⟨ready_of (by decide +kernel), by decide⟩

theorem witness_BranchesAndJumps : Ready demo ∧ demo.hart.pc.toNat % 4 = 0 ∧ (demo.x 1 + BitVec.ofInt 64 (4 : BitVec 13).toInt).toNat % 4 = 0 ∧
    (demo.x 1 + BitVec.ofInt 64 (2 : BitVec 13).toInt).toNat % 4 ≠ 0 := ⟨demo_ready, by decide⟩

/-- A tret to an address that is not word-aligned leaves such a pc. -/
theorem witness_BranchesAndJumps_pc : Ready (demoWith fun h => { h with pc := 0x20002 }) ∧
    (demoWith fun h => { h with pc := 0x20002 }).hart.pc.toNat % 4 ≠ 0 := ⟨ready_of (by decide), by decide⟩

/-! Vector forms: without a descriptor, and with one in d1 for three formats of one code. -/

/-- The demo with a descriptor in d1. -/
def withDesc (a b d : Nat) : State := demo.setX (descReg 1) (BitVec.ofNat 64 (a + 64 * b + 4096 * d))

theorem fits_of {s : State} {vs : List (BitVec 5)} (h : ∀ v ∈ vs, v.toNat % lmulOf s.hart.vtype = 0) : GroupsFit s vs := h

theorem witness_VectorIntegerForms : Ready demo ∧ GroupsFit demo [31, 1, 2] ∧
    IntFormats demo 0 ⟨.int32, .int32, .int32, .rne, false⟩ := ⟨demo_ready, fits_of (by decide +kernel), by unfold IntFormats; rfl⟩

theorem witness_VectorIntegerForms_desc : Ready (withDesc 5 5 5) ∧ GroupsFit (withDesc 5 5 5) [31, 1, 2] ∧
    IntFormats (withDesc 5 5 5) 1 ⟨.int32, .int32, .int32, .rne, false⟩ :=
  ⟨ready_of (by decide +kernel), fits_of (by decide +kernel), ⟨.int32, .int32, .int32, .rne, false, 0, 0, 0, false, false⟩, by decide +kernel, rfl, by decide +kernel⟩

theorem witness_VectorIntegerVI : Ready demo ∧ GroupsFit demo [31, 2] ∧ demo.hart.sew = 32 := ⟨demo_ready, fits_of (by decide +kernel), by decide +kernel⟩

theorem witness_VectorIntegerVI_sew : Ready (demoWith fun h => { h with vtype := 3 }) ∧
    GroupsFit (demoWith fun h => { h with vtype := 3 }) [31, 2] ∧ (demoWith fun h => { h with vtype := 3 }).hart.sew ≠ 32 :=
  ⟨ready_of (by decide +kernel), fits_of (by decide +kernel), by decide +kernel⟩

theorem witness_VectorFloatForms : Ready demo ∧ GroupsFit demo [31, 1, 2] ∧
    FpFormats demo .two 0 ⟨.fp32, .fp32, .fp32, .rne, false⟩ ∧ FpFormats demo .twoScalar 0 ⟨.fp32, .fp32, .fp32, .rne, false⟩ :=
  ⟨demo_ready, fits_of (by decide +kernel), ⟨by decide +kernel, .fp32, by decide +kernel⟩, by decide +kernel, .fp32, by decide +kernel⟩

theorem witness_VectorFloatForms_desc : Ready (withDesc 12 12 12) ∧ FpFormats (withDesc 12 12 12) .two 1 ⟨.fp32, .fp32, .fp32, .rne, false⟩ ∧
    FpFormats (withDesc 12 12 12) .twoScalar 1 ⟨.fp32, .fp32, .fp32, .rne, false⟩ :=
  ⟨ready_of (by decide +kernel), ⟨⟨.fp32, .fp32, .fp32, .rne, false, 0, 0, 0, false, false⟩, by decide +kernel, rfl, by decide +kernel⟩,
    ⟨.fp32, .fp32, .fp32, .rne, false, 0, 0, 0, false, false⟩, by decide +kernel, rfl, by decide +kernel⟩

theorem witness_VectorFloatUnary : Ready (withDesc 12 5 5) ∧ GroupsFit (withDesc 12 5 5) [31, 2] ∧
    FpFormats (withDesc 12 5 5) .one 0 ⟨.fp32, .fp32, .fp32, .rne, false⟩ ∧
    FpFormats (withDesc 12 5 5) .convert 1 ⟨.fp32, .int32, .int32, .rne, false⟩ ∧
    FpFormats (withDesc 12 5 5) .classify 1 ⟨.fp32, .int32, .int32, .rne, false⟩ :=
  ⟨ready_of (by decide +kernel), fits_of (by decide +kernel), ⟨by decide +kernel, .fp32, by decide +kernel⟩,
    ⟨⟨.fp32, .int32, .int32, .rne, false, 0, 0, 0, false, false⟩, by decide +kernel, rfl, by decide +kernel⟩,
    ⟨.fp32, .int32, .int32, .rne, false, 0, 0, 0, false, false⟩, by decide +kernel, rfl, by decide +kernel⟩

theorem witness_VectorCompares : Ready demo ∧ GroupsFit demo [1, 2] ∧ Fmt.nativeFloat demo.hart.sew = some .fp32 :=
  ⟨demo_ready, fits_of (by decide +kernel), by decide +kernel⟩

theorem witness_VectorCompares_sew8 : Ready (demoWith fun h => { h with vtype := 0 }) ∧
    GroupsFit (demoWith fun h => { h with vtype := 0 }) [1, 2] ∧ Fmt.nativeFloat (demoWith fun h => { h with vtype := 0 }).hart.sew = none :=
  ⟨ready_of (by decide +kernel), fits_of (by decide +kernel), by decide +kernel⟩

theorem witness_VectorReductions : Ready demo ∧ GroupsFit demo [1, 2] ∧ demo.hart.vln ≤ 8192 ∧ demo.hart.mvl ≠ 0 ∧
    Fmt.nativeFloat demo.hart.sew = some .fp32 := ⟨demo_ready, fits_of (by decide +kernel), by decide +kernel⟩

theorem witness_VectorReductions_empty : Ready (demoWith fun h => { h with mvl := 0, vl := 0 }) ∧
    GroupsFit (demoWith fun h => { h with mvl := 0, vl := 0 }) [1, 2] ∧ (demoWith fun h => { h with mvl := 0, vl := 0 }).hart.mvl = 0 :=
  ⟨ready_of (by decide +kernel), fits_of (by decide +kernel), by decide +kernel⟩

theorem witness_VectorPermutesAndMoves : Ready demo ∧ GroupsFit demo [31, 2] ∧ GroupsFit demo [1] ∧ blkOf demo.hart.vtype = false ∧
    demo.hart.sew = 32 ∧ ((demo.setX 1 63).x 1).toNat < demo.hart.mvl.toNat ∧ ¬((demo.setX 1 64).x 1).toNat < demo.hart.mvl.toNat :=
  ⟨demo_ready, fits_of (by decide +kernel), fits_of (by decide +kernel), by decide +kernel⟩

theorem witness_VectorPermutesAndMoves_blk : Ready (demoWith fun h => { h with vtype := 0x100 }) ∧
    GroupsFit (demoWith fun h => { h with vtype := 0x100 }) [31, 2] ∧ blkOf (demoWith fun h => { h with vtype := 0x100 }).hart.vtype = true ∧
    (demoWith fun h => { h with vtype := 0x100 }).hart.sew ≠ 32 := ⟨ready_of (by decide +kernel), fits_of (by decide +kernel), by decide +kernel⟩

/-- Bits 0 to 7 of a predicate as the two clauses of pfirst ask for them, and pages that pld and pst reach. -/
theorem witness_PredicateResults : let s := demoWith fun h => { h with p := (h.p.set 1 0x80).set 2 0xF00 }
    Ready s ∧ s.hart.vstart = 0 ∧ (∀ i, i < s.hart.vln → s.hart.pbit 2 i = false) ∧ 7 < s.hart.vln ∧ s.hart.pbit 1 7 = true ∧
    (∀ j, j < 7 → s.hart.pbit 1 j = false) :=
  ⟨ready_of (by decide +kernel), by decide +kernel⟩

theorem witness_PredicateResults_memory : let s := withRegs [(1, 0x2FFFF)]
    let ts := (List.range s.hart.vln).map fun i => (⟨i, s.x 1 + BitVec.ofNat 64 (i / 8), 1⟩ : Touch)
    Ready s ∧ s.hart.vstart = 0 ∧ Maps s s.hart.ptbase .read ts idP idL ∧ Clean s idP ts ∧ Maps s s.hart.ptbase .write ts idP idL :=
  ⟨ready_of (by decide +kernel), by decide +kernel, low_maps (by decide +kernel), clean_of (by decide +kernel), low_maps (by decide +kernel)⟩

theorem witness_ElementWrites : demo.hart.mvl.toNat = demo.hart.mvlOf demo.hart.vtype ∧ demo.hart.vln ≤ demo.hart.mvl.toNat ∧
    GroupsFit demo [31] ∧ demo.hart.mvl.toNat ≤ 8192 := ⟨by decide +kernel, by decide +kernel, fits_of (by decide +kernel), by decide +kernel⟩

theorem witness_IntegerRules : Fmt.int8.isInt = true ∧ (Fmt.int8.range.1 ≤ -128 ∧ (127 : Int) ≤ Fmt.int8.range.2) ∧ -129 < Fmt.int8.range.1 ∧
    Fmt.int8.range.2 < 128 := by decide +kernel

theorem reaches_sizes (acc : Acc) (n : Nat) (hn : n ≤ 16) : Reaches (withRegs [(1, 0x3FFF0)]) acc true 0x3FFF0 n 0x3FFF0 := by
  have hp : (0x3FFF0 : Word).toNat % 65536 = 65520 := by decide
  exact low_reaches ⟨by decide +kernel, by decide +kernel, by decide +kernel, by omega, by decide, by decide, by decide +kernel⟩

/-- Lines of the demo's page answer a scalar load. -/
theorem answers_of {s : State} {pa n : Nat} (h : s.poison = [] ∧ Low (l1Pieces [(pa, n)]) ∧ ∀ p ∈ l1Pieces [(pa, n)], 0 < p.2) : Answers s pa n := by
  intro p hp _
  have := served_of (s := s) h.2.1 p hp 0 (h.2.2 p hp)
  exact ⟨this, sound_of h.1⟩

/-- Every access of up to 16 bytes at the last 16 bytes of a page: each form's alignment holds and its bytes are reached. -/
theorem witness_LoadsAndStores : let s := withRegs [(1, 0x3FFF0)]
    Ready s ∧ (∀ n ∈ ([1, 2, 4, 8, 16] : List Nat), (s.x 1 + BitVec.ofInt 64 ((0 : BitVec 10).toInt * n)).toNat % n = 0) ∧
    (∀ n ∈ ([1, 2, 4, 8, 16] : List Nat), Reaches s .read true (s.x 1 + BitVec.ofInt 64 ((0 : BitVec 10).toInt * n)) n 0x3FFF0) ∧
    (∀ n ∈ ([1, 2, 4, 8, 16] : List Nat), Reaches s .write true (s.x 1 + BitVec.ofInt 64 ((0 : BitVec 10).toInt * n)) n 0x3FFF0) ∧
    (∀ n ∈ ([1, 2, 4, 8, 16] : List Nat), Answers s 0x3FFF0 n ∧ Follows s .scalar [(0x3FFF0, n)]) := by
  have e : ∀ n : Int, (withRegs [(1, 0x3FFF0)]).x 1 + BitVec.ofInt 64 ((0 : BitVec 10).toInt * n) = 0x3FFF0 := by
    intro n
    have hx : (withRegs [(1, 0x3FFF0)]).x 1 = 0x3FFF0 := by decide +kernel
    rw [hx]
    simp
  refine ⟨ready_of (by decide +kernel), ?_, ?_, ?_, fun n hn => ⟨answers_of ⟨by decide +kernel, ?_⟩, follows_of (by decide +kernel)⟩⟩
  case refine_4 => revert n; decide
  all_goals intro n hn; rw [e]
  · revert n; decide
  · exact reaches_sizes .read n (by revert n; decide)
  · exact reaches_sizes .write n (by revert n; decide)

theorem witness_ScalarMisaligned : let s := withRegs [(1, 0x30001), (2, 0x30008)]
    Ready s ∧ (∀ n ∈ [2, 4, 8], (s.x 1 + BitVec.ofInt 64 ((0 : BitVec 10).toInt * n)).toNat % n ≠ 0) ∧
    (s.x 2 + BitVec.ofInt 64 ((0 : BitVec 10).toInt * 16)).toNat % 16 ≠ 0 ∧ (s.x 1).toNat % 4 ≠ 0 ∧ (s.x 1).toNat % 8 ≠ 0 :=
  ⟨ready_of (by decide +kernel), by decide +kernel⟩

/-- Both outcomes of the compare of acas: memory holds 0 there. -/
theorem witness_ScalarAtomics : let s := withRegs [(1, 0x3FFF0), (2, 1)]
    Ready s ∧ Alone s ∧ Reaches s .write true (s.x 1) 8 0x3FFF0 ∧ Reaches s .read true (s.x 1) 8 0x3FFF0 ∧ Sound s 0x3FFF0 8 ∧
    Open s 0x3FFF0 8 ∧ (s.x 1).toNat % 8 = 0 ∧ s.unserved false 0x3FFF0 = false ∧ s.unserved true 0x3FFF0 = false ∧
    valueAt s .scalar 0x3FFF0 8 = (s.x 3).toNat % 2 ^ 64 ∧ valueAt s .scalar 0x3FFF0 8 ≠ (s.x 2).toNat % 2 ^ 64 :=
  ⟨ready_of (by decide +kernel), alone_of (by decide +kernel), low_reaches (by decide +kernel), low_reaches (by decide +kernel),
    sound_of (by decide +kernel), open_of (by decide +kernel), by decide +kernel⟩

/-- A retired write of the demo hart to a byte, at a place in its program order. -/
def byteWrite (pa seq : Nat) (c : Cls) : Write :=
  ⟨0, 0, 0, c, seq, c == .scalar, pa, [⟨1, 0xFF⟩], 1, pa, pa + 1, 0, false, false, none, 0, none⟩

/-- One to the drawer line 0, whose trunk may be down. -/
abbrev drawerWrite : Write := byteWrite drawerBase 0 .scalar

/-- The writes of the hart that are left once as many as can be are performed. -/
def leftOf (s : State) : List Write :=
  let t := (s.release fun _ => true).drain fun w => w.mine s.hart
  t.hart.held ++ (t.wq ++ t.unacked).filter fun w => w.mine s.hart

/-- Every write of the hart is performed; one cannot be, for its page is being moved; one of tier X is not acknowledged; and a publication
has met poison. -/
theorem witness_Fences : let w : Write := byteWrite 0x30000 0 .scalar
    let s := fun (ms : List PageMove) => { demo with hart := { demoHart with held := [w] }, pageMoves := ms }
    Ready (s []) ∧ leftOf (s []) = [] ∧ (s []).ownPubs = [] ∧ (s []).acksDue = [] ∧
    leftOf (s [⟨4, 0, 0x30000, 0x1000, 0x30007, 0x30000, 0x40000, none⟩]) = [w] ∧
    ({ demo with pubs := [⟨0, 0, 0, 0, [0], 0x30008, 8, 0, none, true, 0⟩] } : State).ownPubs = [⟨0, 0, 0, 0, [0], 0x30008, 8, 0, none, true, 0⟩] :=
  ⟨ready_of (by decide +kernel), by decide +kernel⟩

/-- An outstanding publication is performed, or its page is being moved; and the acknowledgement of an earlier write is due at a trunk. -/
theorem witness_Fences_publication : let p : Pub := ⟨0, 0, 0, 0, [0], 0x30008, 8, 0, none, false, 0⟩
    let s := fun (ms : List PageMove) => { demo with pubs := [p], pageMoves := ms }
    let u := fun (ms : List PageMove) => let t := ((s ms).release fun _ => true).drain fun w => w.mine (s ms).hart
      State.performPubs t.ownPubs t
    let d := { demo with trunks := demo.trunks.set 0 { Trunk.trained with flying := [(⟨0, 0, 0, drawerBase, true, 0, true, 0⟩, 1)] } }
    Ready (s []) ∧ leftOf (s []) = [] ∧ (u []).ownPubs = [] ∧ (u []).wq = [] ∧ (u []).unacked = [] ∧ (u []).acksDue = [] ∧
    (u [⟨4, 0, 0x30000, 0x1000, 0x30007, 0x30000, 0x40000, none⟩]).ownPubs = [p] ∧ leftOf d = [] ∧ d.ownPubs = [] ∧ d.acksDue ≠ [] :=
  ⟨ready_of (by decide +kernel), by decide +kernel⟩

/-- A hart that waits at its fence.w. -/
theorem witness_Fences_event : let s := { withWord 0b10101100000000000110000100000000 [] with hart := { demoHart with status := .waiting .writes 0 } }
    AtWord s (.fenceW 2) ∧ Waits s .writes :=
  ⟨⟨0xAC006100, issues_any (.inr ⟨.writes, 0, rfl⟩) (by decide +kernel), rfl⟩, ⟨0, rfl⟩⟩

/-- A write of a page that is being moved holds back a later one of its class behind a fence, and that one a write of the other class
behind another. -/
theorem witness_WriteOrder : let k := byteWrite 0x30000 1 .vector
    let w := byteWrite 0x30008 2 .scalar
    let o : Order := ⟨2, .vector, .scalar, false, false, false, true, false⟩
    let h := { demoHart with held := [k, w], orders := [⟨1, .vector, .vector, true, false, false, true, false⟩, o], seq := 3 }
    let s := { demo with hart := h, wq := [byteWrite 0x40000 0 .vector], pageMoves := [⟨4, 0, 0x40000, 0x1000, 0x40007, 0x40000, 0x50000, none⟩] }
    h.held.Nodup ∧ k ∈ (s.acceptOf h fun _ => true).1 ∧ w ∈ (s.acceptOf h fun _ => true).1 ∧ o.writes = true ∧
    o.before = k.cls ∧ o.after = w.cls ∧ k.seq < o.at_ ∧ o.at_ ≤ w.seq ∧ o ∈ (s.order []).hart.orders := by decide +kernel

theorem low_fetch {s : State} {va : Word} (h : s.tlb = demo.tlb ∧ s.hart.core = 0 ∧ s.hart.ptbase.extractLsb' 52 9 = 0 ∧ s.l1i = [] ∧
    va.toNat < 0x6000000000) : ∃ w, s.fetch va = .word w := by
  obtain ⟨h1, h2, h3, h4, h5⟩ := h
  refine ⟨BitVec.ofNat 32 (leNat (s.readBytes .scalar va.toNat 4)), ?_⟩
  unfold State.fetch
  rw [h2, low_translate h1 h3 _ _ _ _ h5]
  simp [h4, State.unserved, low_region h5]

/-- The demo with its trap registers set, before a trap. -/
def trapDemo (f : Hart → Hart) : State := demoWith fun h => f { h with wbase := 0x40000, tvec := 0x20000 }

theorem witness_TrapEntry : let s := trapDemo id
    let t := Trap.plain 0x13 0
    let s0 : State := { s with hart := { s.hart with vstart := 0 } }
    let u : State := ({ s0.poke 0x40000 (s0.waybill t s.hart.pc 0 false s.hart.pc) 8 with
      conv := Convoy.fresh
      hart := { s0.hart with
        tepc := s.hart.pc
        tval := t.tval
        tcause := BitVec.ofNat 11 t.code.toNat
        tstatus := 0x40
        priv := .s
        pc := s.hart.tvec
        status := .running
        resume := none
        carry := Carry.none
        got := []
        gathered := []
        due := none
        pass := none
        retried := false
        shrunk := false
        dbgctl := s.hart.dbgctl &&& ~~~(8#57) } } : State).withdraw s.hart
    s.hart.rewEn = false ∧ t.code ≠ 0x10 ∧ s.hart.tip = false ∧ s.hart.wbase.toNat = 0x40000 ∧ regionOf 0x40000 = .hbm ∧
    regionOf (0x40000 + 1599) = .hbm ∧ s.hart.held = [] ∧ s.wq = [] ∧ ∀ e, u.fetch s.hart.tvec ≠ .trap e := by
  intro s t s0 u
  refine ⟨by decide +kernel, by decide, by decide +kernel, by decide +kernel, by decide, by decide, by decide +kernel, rfl, fun e => ?_⟩
  obtain ⟨w, hw⟩ := low_fetch (s := u) (va := s.hart.tvec) (by decide +kernel)
  rw [hw]
  exact Fetched.noConfusion

/-- A write of the hart to its Waybill waits for a page that is being moved. -/
theorem witness_TrapEntry_wait : let w := byteWrite 0x40008 0 .scalar
    let s := { trapDemo (fun h => { h with held := [w] }) with pageMoves := [⟨4, 0, 0x40000, 0x1000, 0x40007, 0x40000, 0x50000, none⟩] }
    let s0 : State := { s with hart := { s.hart with vstart := 0 } }
    let hit := fun (x : Write) => overlaps x.pa x.bytes.length 0x40000 1600
    s.hart.wbase.toNat = 0x40000 ∧ (((s0.release hit).drain fun x => x.core == s.hart.core && hit x).wq.map fun x => x.pa) = [0x40008] := by
  decide +kernel

theorem witness_DoubleTrap : (trapDemo fun h => { h with tstatus := 0x40 }).hart.tip = true ∧ (trapDemo id).hart.tip = false ∧
    regionOf (trapDemo fun h => { h with wbase := 0x5FFFFFFFC0 }).hart.wbase.toNat = .hbm ∧
    regionOf ((trapDemo fun h => { h with wbase := 0x5FFFFFFFC0 }).hart.wbase.toNat + 1599) ≠ .hbm := by decide +kernel

/-- The word count, the page list and the mask of a Waybill at the ends of their ranges. -/
theorem witness_WaybillFields : (3 : Nat) < 4 ∧ (sortPages ((List.range 65).map fun j => (⟨BitVec.ofNat 64 (65536 * j), 1⟩ : Page))).length = 65 := by
  decide +kernel

/-- The VL, VTYPE and LANES of a Waybill at 0x40000. -/
def waybillMem : List Host.Cell :=
  Memory.setBytes (Memory.setBytes (Memory.setBytes [] 0x4000C (leBytes 4 8)) 0x40020 (leBytes 8 2)) 0x40030 (leBytes 8 72)

/-- The three ways of tret: no suspended convoy, one whose Waybill matches, and one whose VL differs. -/
theorem witness_ReturnFromTrap :
    let s := fun (st : BitVec 7) (vl : BitVec 14) => { trapDemo fun h => { h with priv := .s, tstatus := st, vl := vl } with mem := waybillMem }
    Ready (s 0x40 8) ∧ Ready (s 0x42 8) ∧ Ready (s 0x42 9) ∧ (s 0x40 8).hart.priv = .s ∧ (s 0x40 8).hart.tstatus.getLsbD 1 = false ∧
    (s 0x42 8).hart.tstatus.getLsbD 1 = true ∧ (s 0x42 8).matchesWaybill = true ∧ (s 0x42 9).matchesWaybill = false :=
  ⟨ready_of (by decide +kernel), ready_of (by decide +kernel), ready_of (by decide +kernel), by decide +kernel⟩

theorem witness_SystemAndPrivilege : Ready demo ∧ demo.hart.priv = .u := ⟨demo_ready, by decide⟩

/-- A CSR to write, a read-only one, a number that is not assigned, and one of the system range, at both privileges. -/
theorem witness_CsrInstructions : Ready demo ∧ demo.csr 0x0A0 = some 0 ∧ (0x0A0 : BitVec 12).getLsbD 10 = false ∧ demo.csr 0x400 = some 8 ∧
    (0x400 : BitVec 12).getLsbD 10 = true ∧ demo.csr 0x001 = none ∧ demo.csr 0x800 = some 0 ∧ demo.hart.priv = .u := by
  refine ⟨demo_ready, ?_⟩
  decide +kernel

theorem witness_CsrInstructions_rewind : Ready (demoS.setX 1 1) ∧ (demoS.setX 1 1).hart.priv = .s ∧ ((demoS.setX 1 1).x 1).getLsbD 0 = true ∧
    (∃ old, (demoS.setX 1 1).csr 0x832 = some old) :=
  ⟨ready_of (by decide +kernel), by decide +kernel, by decide +kernel, ⟨_, rfl⟩⟩

theorem witness_CsrWrites : demo.hart.core < 384 ∧ ∀ e ∈ csrMasks, (demo.csr (BitVec.ofNat 12 e.1)).isSome := by decide +kernel

theorem witness_HaltAndPark : Ready demoS ∧ demoS.hart.priv = .s ∧ demoS.hart.held = [] ∧ (∀ w ∈ demoS.wq ++ demoS.unacked, w.mine demoS.hart = false) ∧
    demoS.ownPubs = [] := ⟨demoS_ready, by decide +kernel⟩

/-- A demo whose front end serves queue 0's packet of a priority, with group 1 of core 0 named for it or not. -/
def served (prio : Nat) (ks : List Nat) : State := { demo with
  queues := demo.queues.set 0 { Queue.empty with en := true, log2sz := 4, tail := 1 }
  offers := [⟨0, 0, none, 0x40000, none, 0x50000, true, 0, prio⟩]
  served := some (.queue 0), named := ks }

theorem witness_HaltAndPark_park : Ready (served 0 [1]) ∧ (served 0 [1]).servedPrio = some 0 ∧
    ((served 0 [1]).named.any fun k => k / 4 == (served 0 [1]).hart.core) = true ∧ (served 0 [1]).hart.prio.toNat ≤ 0 ∧
    ((served 0 []).named.any fun k => k / 4 == (served 0 []).hart.core) = false := ⟨ready_of (by decide +kernel), by decide +kernel⟩

theorem witness_CacheInvalidation : let s := demoS.setX 1 0x30000
    Ready s ∧ Reaches s .read true (s.x 1) 1 0x30000 ∧ s.hart.priv = .s ∧ onWay s = [] ∧ s.x 2 = 0 ∧ s.x 1 ≠ 0 :=
  ⟨ready_of (by decide +kernel), low_reaches (by decide +kernel), by decide +kernel⟩

/-- The demo at privilege S with a page's count n in the table at 0x100000, x1 in that page, and a free list. -/
def counted (n : Nat) (x : Word) (list hot : BitVec 52) : State :=
  { (demoWith fun h => { h with priv := .s, prtbase := 0x100000, fplist := list, hotbase := hot }).setX 1 x with
    mem := Memory.setBytes [] 0x10000C (leBytes 4 n) }

/-- Every count that a clause names, and the counts beside them. -/
theorem witness_PageForms : Ready (counted 1 0x30000 0 0) ∧ Alone (counted 1 0x30000 0 0) ∧ (counted 1 0x30000 0 0).hart.priv = .s ∧ (∀ n ∈ [0, 1, 2, 0xFFFFFFFE, 0xFFFFFFFF], let s := counted n 0x30000 0x60000 0x70000
      Memory.value s.mem (s.hart.prtbase.toNat + 4 * pageIndex ((s.x 1).toNat / 65536 * 65536)) 4 = n ∧
      s.privatePage ((s.x 1).toNat / 65536 * 65536) = true ∧ s.poisonAt 0x10000C 4 = none) ∧ (counted 1 0x30000 0 0).hart.fplist.toNat = 0 ∧
    (counted 1 0x30000 0x60000 0).hart.fplist.toNat ≠ 0 ∧ (counted 1 0x30000 0 0).hart.hotbase = 0 ∧
    (counted 1 0x30000 0 0x70000).hart.hotbase ≠ 0 ∧ (counted 1 0x30003 0 0x70000).poisonAt (0x70000 + 48) 12 = none ∧
    (counted 1 0x2000000000000 0 0).privatePage 0x2000000000000 = false :=
  ⟨ready_of (by decide +kernel), alone_of (by decide +kernel), by decide +kernel⟩

/-- The demo at privilege S with page tables that map 0x30000 by a leaf of 64 KiB, and 0x20000000 by one of 512 MiB. -/
def walked (leaf : Nat) (x1 x2 : Word) (f : Hart → Hart) : State :=
  { ((demoWith fun h => f { h with priv := .s, ptbase := 0x1000000 }).setX 1 x1).setX 2 x2 with
    mem := Memory.setBytes (Memory.setBytes (Memory.setBytes (Memory.setBytes [] 0x1000000 (leBytes 8 0x2000001)) 0x2000000 (leBytes 8 0x3000001))
      0x2000008 (leBytes 8 0x2000001F)) 0x3000018 (leBytes 8 leaf) }

theorem witness_PageMoves : let s := walked 0x3001F 0x30000 0x50000 id
    Ready s ∧ s.hart.priv = .s ∧ s.hart.status = .running ∧ onWay s = [] ∧ (s.x 2).toNat % 65536 = 0 ∧ s.moveTarget (s.x 2).toNat = true ∧ canonical (s.x 1) = true ∧ s.walk s.hart.ptbase (s.x 1) = .leaf 0x3001F 16 0x3000018 ∧
    pteSh 0x3001F = false ∧ pteM 0x3001F = false ∧ ptePa 0x3001F ≠ (s.x 2).toNat :=
  ⟨ready_of (by decide +kernel), by decide +kernel⟩

theorem witness_PageMoves_done : let s := walked 0x5001F 0x30000 0x50000 fun h => { h with status := .waiting (.move 0x30000 0x3000018 0x3001F 0x50000) 0 }
    Ready s ∧ s.hart.priv = .s ∧ s.hart.status = .waiting (.move 0x30000 0x3000018 0x3001F 0x50000) 0 ∧ (∀ m ∈ s.pageMoves, m.hart ≠ s.hart.id) :=
  ⟨ready_of (by decide +kernel), by decide +kernel⟩

/-- What each fault of pgmove asks for: a target that is no page, or no page that may be received; a source that is not canonical, not
mapped, mapped by a larger leaf, or by a leaf that is shared. -/
theorem witness_PageMoves_faults : let s := fun (leaf : Nat) (x1 x2 : Word) => walked leaf x1 x2 id
    ((s 0x3001F 0x30000 0x50001).x 2).toNat % 65536 ≠ 0 ∧ (s 0x3001F 0x30000 0x8000000000000).moveTarget 0x8000000000000 = false ∧
    canonical ((s 0x3001F 0x8000000000000000 0x50000).x 1) = false ∧
    (s 0x3001F 0x40000 0x50000).walk (s 0x3001F 0x40000 0x50000).hart.ptbase 0x40000 = .bad ∧
    (s 0x3001F 0x20000000 0x50000).walk (s 0x3001F 0x20000000 0x50000).hart.ptbase 0x20000000 = .leaf 0x2000001F 29 0x2000008 ∧
    (s 0x3005B 0x30000 0x50000).walk (s 0x3005B 0x30000 0x50000).hart.ptbase 0x30000 = .leaf 0x3005B 16 0x3000018 ∧ pteSh 0x3005B = true := by
  decide +kernel

/-- A Manifest at 0x30000 of the given first two fields, and the keys. -/
def manifest (version mask : Nat) (keys : Option (List Byte × List Byte)) : State :=
  { withRegs [(1, 0x30000)] with mem := Memory.setBytes [] 0x30000 (leBytes 4 version ++ leBytes 4 mask), mbox := { demo.mbox with keys := keys } }

def formed (s : State) : Prop :=
  let bs := (List.range 2048).map fun k => s.readByte .scalar (0x30000 + k)
  let at_ := fun (o n : Nat) => (bs.drop o).take n
  leNat (at_ 0 4) = 1 ∧ leNat (at_ 4 4) % 2 = 0 ∧ leNat (at_ 4 4) < 2 ^ 14 ∧ (∀ b ∈ at_ 0x148 0x38, b = 0) ∧ ∀ b ∈ at_ 0x78C 0x74, b = 0

theorem witness_ManifestCompare : let s := manifest 1 2 (some ([], []))
    Ready s ∧ (s.x 1).toNat % 64 = 0 ∧ Reaches s .read true (s.x 1) 2048 0x30000 ∧ regionOf (0x30000 / 65536 * 65536) ≠ .regs ∧
    Sound s 0x30000 2048 ∧ Served s [(0x30000, 2048)] ∧ Follows s .scalar [(0x30000, 2048)] ∧ formed s ∧ (manifest 1 2 none).mbox.keys = none ∧ s.mbox.keys = some ([], []) ∧
    (∃ r, s.manifestFields (some s.hart) = [] ++ (1, 8, leBytes 8 devid.toNat) :: r) ∧
    (2 : Nat).testBit 1 = true ∧ ((List.range 8).map fun k => s.readByte .scalar (0x30008 + k)) ≠ leBytes 8 devid.toNat :=
  ⟨ready_of (by decide +kernel), by decide +kernel, low_reaches (by decide +kernel), by decide, sound_of (by decide +kernel),
    served_of (by decide), follows_of (by decide +kernel), by unfold formed; decide +kernel, rfl, rfl, ⟨_, rfl⟩, by decide, by decide +kernel⟩

/-- A Manifest of another version is not one; and one whose mask selects nothing differs nowhere. -/
theorem witness_ManifestCompare_other : ¬formed (manifest 2 0 none) ∧ formed (manifest 1 0 none) ∧
    ∀ f ∈ (manifest 1 0 none).manifestFields (some demoHart), ¬((0 : Nat).testBit f.1 = true) :=
  ⟨by unfold formed; decide +kernel, by unfold formed; decide +kernel, fun f _ => by simp⟩

/-! Length-setting. -/

/-- The demo's core with every group given to slot 3, and none held by the demo hart. -/
def crowded : State := { (demoWith fun h => { h with gmask := 0, vl := 0, mvl := 0 }) with lpr := demo.lpr.set 0 0x7777 }

/-- A hart that waits for a lane group, or for its watermark, at vsetvli x0, a1, e32, with groups free. -/
theorem witness_LengthSetting_event : let s := fun (w : Why) => { withWord 0xB0040002 [] with
      hart := { demoHart with status := .waiting w 0 } }
    (∀ w ∈ [Why.lanes 1, .handover, .watermark []], MayIssue (s w) 0xB0040002 ∧ (s w).grant 2 = .some 1 0) ∧
    AtWord (s (.lanes 1)) (.vsetvli 0 4 2) ∧ Waits (s (.lanes 1)) (.lanes 1) ∧ Waits (s (.watermark [])) (.watermark []) :=
  ⟨by decide +kernel, ⟨0xB0040002, issues_any (.inr ⟨.lanes 1, 0, rfl⟩) (by decide +kernel), rfl⟩, ⟨0, rfl⟩, ⟨0, rfl⟩⟩

/-- A granted and a waiting request; VTYPE values that are legal and reserved; and no watermark to wait for. -/
theorem witness_LengthSetting : Ready demo ∧ (∃ g k, demo.grant 2 = .some g k) ∧ Ready crowded ∧ (∃ w, crowded.grant 2 = .wait w) ∧
    demo.hart.wwait = 0 ∧ ((2 : Word).getLsbD 2 = false ∧ (2 : Word).getLsbD 5 = false ∧ (2 : Word).extractLsb' 6 2 ≠ 3 ∧ (2 : Word).getLsbD 9 = false ∧
      (2 : Word).toNat < 2 ^ 13) ∧ (4 : Word).getLsbD 2 = true :=
  ⟨demo_ready, ⟨1, 0, by decide +kernel⟩, ready_of (by decide +kernel), ⟨.lanes 1, by decide +kernel⟩, by decide +kernel, by decide⟩

/-- The demo with WWAIT at a doubleword that holds n. -/
def watermark (w : Word) (n : Nat) : State :=
  { (demoWith fun h => { h with wwait := w, wmark := w }) with mem := Memory.setBytes [] 0x30008 (leBytes 8 n) }

theorem witness_LengthSetting_watermark : let s := (watermark 0x30008 7).setX 1 7
    Ready s ∧ s.hart.wwait ≠ 0 ∧ s.hart.wwait.toNat % 8 = 0 ∧ Reaches s .read true s.hart.wwait 8 0x30008 ∧ Sound s 0x30008 8 ∧
    s.unserved false 0x30008 = false ∧ (s.x 1).toNat ≤ Memory.value s.mem 0x30008 8 ∧ Memory.value s.mem 0x30008 8 < ((s.setX 1 8).x 1).toNat ∧
    (watermark 0x3000C 7).hart.wwait.toNat % 8 ≠ 0 ∧ Follows s .scalar [(0x30008, 8)] :=
  ⟨ready_of (by decide +kernel), by decide +kernel, by decide +kernel, low_reaches (by decide +kernel), sound_of (by decide +kernel),
    by decide +kernel, by decide +kernel, by decide +kernel, by decide +kernel, follows_of (by decide +kernel)⟩

/-- A grant with a kept group, and one where there is neither a kept nor a free one. -/
theorem witness_GrantRule : (∀ s ∈ [demo, crowded], s.hart.status ≠ .gone ∧ s.hart.det = false ∧ s.hart.tstatus.getLsbD 1 = false ∧
      s.namedGroups = [] ∧ 0 < min (max s.hart.request s.hart.lgmin) s.hart.lgmax ∧ s.givenUp = [] ∧
      ∀ k, k < 4 → s.hart.gmask.getLsbD k = false → lprOwner (s.lprOf s.hart.core) k ≠ some s.hart.slot) ∧
    demo.freeHere = [1, 2, 3] ∧ crowded.freeHere = [] ∧ crowded.hart.gmask = 0 ∧
    (demoWith fun h => { h with det := true }).hart.det = true := by decide +kernel

/-- A group that LPR gives the hart and another one still holds; and groups of which one, or each, is named for reclaim. -/
theorem witness_GrantRule_named : let s := fun (g : BitVec 4) (l : BitVec 16) => { (demoWith fun h => { h with gmask := g }) with lpr := demo.lpr.set 0 l }
    let t := { s 1 0x44 with others := [{ Hart.blank 0 3 with gmask := 2, status := .running }] }
    let u := { s 0 4 with lpr := demo.lpr, others := [{ Hart.blank 0 1 with status := .waiting (.lanes 2) 0, prio := 1, request := 2, lgmax := 4 }] }
    u.freeHere.length < ((List.range 4).filter fun k => u.groupFree 0 k false).length ∧
    t.groupHeld 0 1 = true ∧ lprOwner (t.lprOf 0) 1 = some 0 ∧ t.givenUp = [] ∧
    (s 3 0x74).namedGroups = [1] ∧ (s 1 0x07).namedGroups = [0] ∧ (s 3 0x74).freeHere = [2, 3] := by decide +kernel

theorem witness_GrantCarries : let s := demo
    (3 : BitVec 4) ≠ s.hart.gmask ∧ s.hart.pcarry.getLsbD 1 = true ∧ s.hart.vcarry.getLsbD 1 = true ∧ 1 % lmulOf s.hart.vtype = 0 ∧
    7 < min s.hart.vl.toNat ((s.regrant 3 true).hart.mvlOf s.hart.vtype) ∧ ¬8 < min s.hart.vl.toNat ((s.regrant 3 true).hart.mvlOf s.hart.vtype) := by
  decide +kernel

/-- No publication; the count at the end of a strip, and one above it, with and without a group to go on with. -/
theorem witness_StripLoop : (∀ s ∈ [demo, crowded], (s.hart.vl = 0 ∨ s.hart.wmark = 0)) ∧ Ready demo ∧ Ready crowded ∧
    ((demo.setX 4 8).x 4 - BitVec.ofNat 64 demo.hart.vl.toNat).toInt ≤ 0 ∧ 0 < ((demo.setX 4 9).x 4 - BitVec.ofNat 64 demo.hart.vl.toNat).toInt ∧
    (∃ g k, (demo.setX 4 1).grant demo.hart.vtype = .some g k) ∧ 0 < ((crowded.setX 4 1).x 4 - BitVec.ofNat 64 crowded.hart.vl.toNat).toInt ∧
    (∃ w, (crowded.setX 4 1).grant crowded.hart.vtype = .wait w) :=
  ⟨by decide +kernel, demo_ready, ready_of (by decide +kernel), by decide +kernel, by decide +kernel, ⟨1, 0, by decide +kernel⟩, by decide +kernel,
    ⟨.lanes 1, by decide +kernel⟩⟩

theorem witness_StripLoop_publish : let s := watermark 0x30008 7
    Ready s ∧ 0 < s.hart.vl.toNat ∧ s.hart.wmark ≠ 0 ∧ s.hart.wmark.toNat % 8 = 0 ∧ Reaches s .write true s.hart.wmark 8 0x30008 ∧
    (watermark 0x3000C 7).hart.wmark.toNat % 8 ≠ 0 :=
  ⟨ready_of (by decide +kernel), by decide +kernel, by decide +kernel, by decide +kernel, low_reaches (by decide +kernel), by decide +kernel⟩

/-! Vector memory. -/

/-- The conversion that MFC0 names at reset: raw elements of SEW bits. -/
abbrev raw : MemFmt := ⟨none, none, false, 0, false, 0⟩

theorem fits_raw {s : State} {whole : Bool} (h : MemFmt.read (s.hart.mfc[(0 : BitVec 2).toNat]?.getD 0) = some raw) : MemFits s 0 whole raw := by
  refine ⟨h, ?_, ?_, ?_⟩ <;> simp

theorem witness_VectorLoads_empty : Ready (demoWith fun h => { h with vl := 0 }) ∧ GroupsFit (demoWith fun h => { h with vl := 0 }) [31] ∧
    (demoWith fun h => { h with vl := 0 }).hart.vl = 0 := ⟨ready_of (by decide +kernel), fits_of (by decide +kernel), by decide +kernel⟩

/-- A unit-stride and a strided load of eight words, the second one backwards. -/
theorem witness_VectorLoads : let s := withRegs [(1, 0x30020), (2, 0xFFFFFFFFFFFFFFFC)]
    let us := (s.actives 0).map fun i => (⟨i, raw.unitAddr 32 (s.x 1) i, raw.unitSize 32⟩ : Touch)
    let ts := (s.actives 0).map fun i => (⟨i, s.x 1 + BitVec.ofNat 64 i * s.x 2, raw.size 32⟩ : Touch)
    Ready s ∧ GroupsFit s [31] ∧ s.hart.sew = 32 ∧ s.hart.vl ≠ 0 ∧ MemFits s 0 false raw ∧ MemFits s 0 true raw ∧
    Maps s s.hart.ptbase .read us idP idL ∧ Clean s idP us ∧ Maps s s.hart.ptbase .read ts idP idL ∧ Clean s idP ts :=
  ⟨ready_of (by decide +kernel), fits_of (by decide +kernel), by decide +kernel, by decide +kernel, fits_raw (by decide +kernel),
    fits_raw (by decide +kernel), low_maps (by decide +kernel), clean_of (by decide +kernel), low_maps (by decide +kernel), clean_of (by decide +kernel)⟩

theorem first_pages : ∀ j ∈ (withRegs [(1, 0x5FFFFFFFF0)]).actives 0, ∀ t ∈ raw.unitTouch 32 0x5FFFFFFFF0 j, ∀ q ∈ pagesAt t.va t.n,
    q = if j < 4 then 0x5FFFFF0000 else 0x6000000000 := by
  have h : ((withRegs [(1, 0x5FFFFFFFF0)]).actives 0).all (fun j => (raw.unitTouch 32 0x5FFFFFFFF0 j).all fun t => (pagesAt t.va t.n).all fun q =>
      q == if j < 4 then 0x5FFFFF0000 else 0x6000000000) = true := by decide +kernel
  intro j hj t ht q hq
  exact eq_of_beq (List.all_eq_true.mp (List.all_eq_true.mp (List.all_eq_true.mp h j hj) t ht) q hq)

/-- A fault-only-first load across the end of tier H: elements 0 to 3 lie below it, and element 4 has no memory. -/
theorem witness_VectorLoads_first : let s := withRegs [(1, 0x5FFFFFFFF0)]
    let tr := fun q => s.translate s.hart.core s.hart.ptbase s.hart.priv .read false q
    let t : State := { s with hart := { s.hart with vl := BitVec.ofNat 14 4 } }
    let us := (t.actives 0).map fun i => (⟨i, raw.unitAddr 32 (t.x 1) i, raw.unitSize 32⟩ : Touch)
    Ready s ∧ 4 ∈ s.actives 0 ∧ (∃ t ∈ raw.unitTouch 32 (s.x 1) 4, ∃ q ∈ pagesAt t.va t.n, tr q = .fault 7 4) ∧
    (∀ j ∈ s.actives 0, ∀ t ∈ raw.unitTouch 32 (s.x 1) j, ∀ q ∈ pagesAt t.va t.n, ∀ u, tr q ≠ .poison u ∧ tr q ≠ .blocked u) ∧
    s.lowestActive 0 = some 0 ∧ blkOf s.hart.vtype = false ∧
    (∀ j ∈ s.actives 0, j < 4 → ∀ t ∈ raw.unitTouch 32 (s.x 1) j, ∀ q ∈ pagesAt t.va t.n, tr q = .pa (idP q) (idL q)) ∧
    Maps t t.hart.ptbase .read us idP idL ∧ Clean t idP us := by
  intro s tr t us
  have e : s.x 1 = 0x5FFFFFFFF0 := by decide +kernel
  have lo : tr 0x5FFFFF0000 = .pa 0x5FFFFF0000 0x1F := low_page (by decide +kernel)
  have hi : tr 0x6000000000 = .fault 7 4 := by decide +kernel
  refine ⟨ready_of (by decide +kernel), by decide +kernel, ?_, ?_, by decide +kernel, by decide +kernel, ?_, low_maps (by decide +kernel), clean_of (by decide +kernel)⟩
  · rw [e]
    exact ⟨_, List.mem_cons_self, 0x6000000000, by rw [show pagesAt _ _ = [0x6000000000] by decide +kernel]; exact List.mem_cons_self, hi⟩
  · rw [e]
    intro j hj t ht q hq u
    rw [first_pages j hj t ht q hq]
    split
    · rw [lo]; exact ⟨(nomatch ·), (nomatch ·)⟩
    · rw [hi]; exact ⟨(nomatch ·), (nomatch ·)⟩
  · rw [e]
    intro j hj h4 t ht q hq
    rw [first_pages j hj t ht q hq, if_pos h4]
    exact lo

/-- An expanding load whose budget holds no mask, whose MVL holds no group, and one that may take groups. -/
theorem witness_VectorLoads_expand : let s := withRegs [(1, 0x30000), (2, 34), (3, 1)]
    Ready s ∧ MemFits s 0 true raw ∧ (s.x 3).toNat < 2 ∧ 2 ≤ (s.x 2).toNat ∧ 0 < s.hart.mvl.toNat / 16 ∧
    (demoWith fun h => { h with mvl := 15 }).hart.mvl.toNat / 16 = 0 ∧ min (s.x 2).toNat (s.hart.mvl.toNat / 16 * (2 + 16 * raw.size 32)) = 34 ∧
    Maps s s.hart.ptbase .read [⟨0, s.x 1, 34⟩] idP idL ∧
    (let r := streamGroups (fun off k => readAt s idP (s.x 1 + BitVec.ofNat 64 off) k) 4 34 4 0
     (if r.1.length < 4 ∧ r.2 + 2 ≤ 34 then r.2 + 2 else r.2) = 8) ∧ Clean s idP [⟨0, s.x 1, 8⟩] :=
  ⟨ready_of (by decide +kernel), fits_raw (by decide +kernel), by decide +kernel, by decide +kernel, by decide +kernel, by decide +kernel,
    by decide +kernel, low_maps (by decide +kernel), by decide +kernel, clean_of (by decide +kernel)⟩

theorem witness_VectorStores : let s := withRegs [(1, 0x30020), (2, 0xFFFFFFFFFFFFFFFC), (3, 100)]
    let us := (s.actives 0).map fun i => (⟨i, raw.unitAddr 32 (s.x 1) i, raw.unitSize 32⟩ : Touch)
    let ts := (s.actives 0).map fun i => (⟨i, s.x 1 + BitVec.ofNat 64 i * s.x 2, raw.size 32⟩ : Touch)
    Ready s ∧ GroupsFit s [31] ∧ s.hart.sew = 32 ∧ s.hart.vl ≠ 0 ∧ MemFits s 0 false raw ∧ MemFits s 0 true raw ∧ raw.stored = none ∧
    Maps s s.hart.ptbase .write us idP idL ∧ Maps s s.hart.ptbase .write ts idP idL ∧ Maps s s.hart.ptbase .write [] idP idL ∧ (s.x 0).toNat = 0 ∧
    min (s.x 3).toNat ((s.hart.vln + 15) / 16 * (2 + 16 * raw.size 32)) = 66 ∧ Maps s s.hart.ptbase .write [⟨0, s.x 1, 66⟩] idP idL :=
  ⟨ready_of (by decide +kernel), fits_of (by decide +kernel), by decide +kernel, by decide +kernel, fits_raw (by decide +kernel),
    fits_raw (by decide +kernel), rfl, low_maps (by decide +kernel), low_maps (by decide +kernel), low_maps (by decide +kernel), by decide +kernel,
    by decide +kernel, low_maps (by decide +kernel)⟩

theorem int4_fits {s : State} (h : MemFmt.read (s.hart.mfc[(0 : BitVec 2).toNat]?.getD 0) = some ⟨some .int4, some .int8, false, 0, false, 1⟩ ∧
    s.hart.sew = 8) : MemFits s 0 false ⟨some .int4, some .int8, false, 0, false, 1⟩ := by
  refine ⟨h.1, ?_, ?_, by simp⟩
  · intro r hr
    cases hr
    exact h.2.symm
  · intro k hk hb
    rcases hk with hk | hk <;> cases hk <;> cases hb

theorem bx4_fits {s : State} (h : MemFmt.read (s.hart.mfc[(0 : BitVec 2).toNat]?.getD 0) = some ⟨some .bx4, some .bx4, false, 0, false, 1⟩ ∧
    s.hart.sew = 8 ∧ blkOf s.hart.vtype = true) : MemFits s 0 false ⟨some .bx4, some .bx4, false, 0, false, 1⟩ := by
  refine ⟨h.1, ?_, fun _ _ _ => h.2, by simp⟩
  intro r hr
  cases hr
  exact h.2.1.symm

/-- Nibbles of INT4 from the upper half of a byte on. -/
theorem witness_VectorStores_int4 : let s := (demoWith fun h => { h with vtype := 0, mfc := h.mfc.set 0 0x800081 }).setX 1 0x30000
    let m : MemFmt := ⟨some .int4, some .int8, false, 0, false, 1⟩
    let us := (s.actives 0).map fun i => (⟨i, m.unitAddr 8 (s.x 1) i, m.unitSize 8⟩ : Touch)
    Ready s ∧ s.hart.sew = 8 ∧ s.hart.vl ≠ 0 ∧ MemFits s 0 false m ∧ m.stored = some .int4 ∧ Maps s s.hart.ptbase .write us idP idL :=
  ⟨ready_of (by decide +kernel), by decide +kernel, by decide +kernel, int4_fits (by decide +kernel),
    rfl, low_maps (by decide +kernel)⟩

/-- Blocks of BX4, the first and the last one in part. -/
theorem witness_VectorStores_block : let s := (demoWith fun h => { h with vtype := 0x100, vl := 32, mfc := h.mfc.set 0 0x800410 }).setX 1 0x30000
    let m : MemFmt := ⟨some .bx4, some .bx4, false, 0, false, 1⟩
    let us := (s.actives 0).map fun i => (⟨i, m.unitAddr 8 (s.x 1) i, m.unitSize 8⟩ : Touch)
    Ready s ∧ s.hart.sew = 8 ∧ blkOf s.hart.vtype = true ∧ s.hart.vl ≠ 0 ∧ MemFits s 0 false m ∧
    Maps s s.hart.ptbase .write us idP idL ∧ Clean s idP us :=
  ⟨ready_of (by decide +kernel), by decide +kernel, by decide +kernel, by decide +kernel, bx4_fits (by decide +kernel),
    low_maps (by decide +kernel), clean_of (by decide +kernel)⟩

/-! Gathers, scatters and vector atomics. -/

/-- An active set of four rows of 64 bytes whose tables stand in zero memory, bound to slot 1 of the demo hart. -/
def demoSet : Machine.PSet := ⟨0x80000, 0x100000, 64, 0, 4, 0x90000, 0xA0000, 0, 0, false, 0, .u, .none, [], false⟩

def withSet (k : Machine.PSet) (f : Hart → Hart) : State :=
  { (demoWith fun h => f { h with slots := h.slots.set 1 ⟨some k.psd, BitVec.ofNat 64 k.psd, none, 0⟩ }) with sets := [k] }

/-- The elements of an indexed access without a slot, and their accesses. -/
def plainItems (s : State) (n : Nat) : List Item := (s.indices 2 0).map fun e => ⟨⟨e.1, s.x 1 + BitVec.ofNat 64 (e.2 * n), n⟩, none, none, false⟩

theorem indexed_plain (s : State) (n : Nat) : Indexed s 0 (s.indices 2 0) (s.x 1) n s.hart.ptbase (plainItems s n) :=
  ⟨fun _ => ⟨rfl, rfl⟩, fun h => absurd rfl h⟩

/-- The same elements in row 0 of the demo's set, at the offset 60. -/
def rowItems (s : State) (n : Nat) : List Item :=
  (s.indices 2 0).map fun e => ⟨⟨e.1, demoSet.rowVa 0 60, n⟩, some (demoSet.psd, e.2, 60), some 0, false⟩

theorem boundSet_demo (f : Hart → Hart) (h : (withSet demoSet f).boundSet 1 = some demoSet ∧
    (withSet demoSet f).tlb = demo.tlb ∧ (withSet demoSet f).hart.core = 0 ∧ Idle (withSet demoSet f) ∧ (withSet demoSet f).ptc = [] ∧ (∀ e ∈ (withSet demoSet f).indices 2 0, e.2 = 0) ∧
    readAt (withSet demoSet f) idP (demoSet.fwd + BitVec.ofNat 64 (4 * 0)) 4 = 0) :
    Indexed (withSet demoSet f) 1 ((withSet demoSet f).indices 2 0) 60 4 demoSet.space (rowItems (withSet demoSet f) 4) := by
  obtain ⟨h1, h2, h3, h5, h6, h7, h8⟩ := h
  have hl : ∀ t ∈ (((withSet demoSet f).indices 2 0).filter fun e => ((withSet demoSet f).ptcFind demoSet.psd e.2).isNone).map fun e =>
      (⟨e.1, demoSet.fwd + BitVec.ofNat 64 (4 * e.2), 4⟩ : Touch),
      t.va.toNat + (t.n - 1) < 0x6000000000 ∧ Low (piecesAt idP t) := by
    intro t ht
    simp only [List.mem_map, List.mem_filter] at ht
    obtain ⟨e, ⟨he, -⟩, rfl⟩ := ht
    rw [h7 e he]
    exact (by decide : (demoSet.fwd + BitVec.ofNat 64 (4 * 0)).toNat + (4 - 1) < 0x6000000000 ∧
      Low (piecesAt idP ⟨0, demoSet.fwd + BitVec.ofNat 64 (4 * 0), 4⟩))
  refine ⟨fun h => absurd h (by decide), fun _ => ⟨demoSet, idP, idL, h1, rfl, ?_,
    low_maps ⟨h2, h3, by decide, fun t ht => (hl t ht).1, fun t ht => (hl t ht).2⟩, clean_of ⟨h5, fun t ht => (hl t ht).2⟩, ?_⟩⟩
  · intro e he
    have e0 := h7 e he
    rw [e0]
    simp only [State.ptcFind, h6, List.find?_nil, Option.map_none, Option.getD_none]
    rw [h8]
    decide
  · refine List.map_congr_left fun e he => ?_
    rw [h7 e he]
    simp only [State.ptcFind, h6, List.find?_nil, Option.map_none, Option.getD_none]
    rw [h8]
    rfl

/-- Every piece of some accesses is open to a write. -/
theorem open_all {s : State} {ts : List Touch} (h : (∀ t ∈ ts, ∀ z ∈ piecesAt idP t, z.1 < 0x6000000000) ∧ s.pageMoves = [] ∧ s.sliceReqs = [] ∧
    s.wq = []) : ∀ t ∈ ts, ∀ z ∈ piecesAt idP t, Open s z.1 z.2 :=
  fun t ht z hz => open_of ⟨h.1 t ht z hz, h.2.1, h.2.2.1, h.2.2.2⟩

/-- Both forms of an index, with a vector of zero indices, for a gather, a scatter and an atomic of 4 bytes. -/
theorem witness_GathersAndScatters : let s := withRegs [(1, 0x30000)]
    let ts := (plainItems s 4).map fun x => x.t
    Ready s ∧ GroupsFit s [31, 2] ∧ MemFits s 0 true raw ∧ Indexed s 0 (s.indices 2 0) (s.x 1) 4 s.hart.ptbase (plainItems s 4) ∧
    Maps s s.hart.ptbase .read ts idP idL ∧ Clean s idP ts ∧ Maps s s.hart.ptbase .write ts idP idL ∧ s.hart.vl ≠ 0 ∧
    raw.size s.hart.sew = 4 ∧ s.hart.gathered = [] :=
  ⟨ready_of (by decide +kernel), fits_of (by decide +kernel), fits_raw (by decide +kernel), indexed_plain _ _,
    low_maps (by decide +kernel), clean_of (by decide +kernel), low_maps (by decide +kernel), by decide +kernel⟩

theorem witness_GathersAndScatters_slot : let s := withSet demoSet fun h => h.setReg 1 60
    let ts := (rowItems s 4).map fun x => x.t
    Ready s ∧ GroupsFit s [31, 2] ∧ Alone s ∧ MemFits s 0 true raw ∧ Indexed s 1 (s.indices 2 0) 60 4 demoSet.space (rowItems s 4) ∧
    Maps s demoSet.space .read ts idP idL ∧ Clean s idP ts ∧ Maps s demoSet.space .write ts idP idL ∧
    (∀ t ∈ ts, ∀ z ∈ piecesAt idP t, Open s z.1 z.2) ∧ s.hart.vl ≠ 0 ∧ s.x 1 = 60 ∧ s.indices 2 0 ≠ [] ∧ (∀ t ∈ ts, t.va = 0x10003C) ∧
    pagesAt 0x10003C 4 = [0x100000] ∧ s.privatePage (idP 0x100000) = true :=
  ⟨ready_of (by decide +kernel), fits_of (by decide +kernel), alone_of (by decide +kernel), fits_raw (by decide +kernel), boundSet_demo _ (by decide +kernel),
    low_maps (by decide +kernel), clean_of (by decide +kernel), low_maps (by decide +kernel), open_all (by decide +kernel), by decide +kernel⟩

theorem witness_VectorAtomics : let s := withRegs [(1, 0x30000)]
    let ts := (plainItems s 4).map fun x => x.t
    Ready s ∧ GroupsFit s [30, 2] ∧ Alone s ∧ Indexed s 0 (s.indices 2 0) (s.x 1) 4 s.hart.ptbase (plainItems s 4) ∧
    Maps s s.hart.ptbase .write ts idP idL ∧ Maps s s.hart.ptbase .read ts idP idL ∧ Clean s idP ts ∧
    (∀ t ∈ ts, ∀ z ∈ piecesAt idP t, Open s z.1 z.2) ∧ s.hart.vl ≠ 0 ∧ s.hart.sew = 32 ∧ (∀ k ∈ s.sets, k.moves = []) ∧
    (∀ t ∈ ts, t.va.toNat % 4 = 0) ∧ 30 + 2 * lmulOf s.hart.vtype ≤ 32 ∧ ¬31 + 2 * lmulOf s.hart.vtype ≤ 32 :=
  ⟨ready_of (by decide +kernel), fits_of (by decide +kernel), alone_of (by decide +kernel), indexed_plain _ _, low_maps (by decide +kernel),
    low_maps (by decide +kernel), clean_of (by decide +kernel), open_all (by decide +kernel), by decide +kernel⟩

theorem witness_VectorAtomics_slot : let s := withSet demoSet fun h => h.setReg 1 60
    let ts := (rowItems s 4).map fun x => x.t
    Ready s ∧ Alone s ∧ Indexed s 1 (s.indices 2 0) 60 4 demoSet.space (rowItems s 4) ∧ Maps s demoSet.space .write ts idP idL ∧
    Maps s demoSet.space .read ts idP idL ∧ Clean s idP ts ∧ (s.x 1).toNat % 4 = 0 ∧ (∀ k ∈ s.sets, k.moves = []) ∧
    ∀ t ∈ ts, t.va.toNat % 4 = 0 :=
  ⟨ready_of (by decide +kernel), alone_of (by decide +kernel), boundSet_demo _ (by decide +kernel), low_maps (by decide +kernel),
    low_maps (by decide +kernel), clean_of (by decide +kernel), by decide +kernel⟩

/-- An element width that the atomics refuse, and VL 0. -/
theorem witness_VectorAtomics_sew : Ready (demoWith fun h => { h with vtype := 1 }) ∧ GroupsFit (demoWith fun h => { h with vtype := 1 }) [31, 2] ∧
    (demoWith fun h => { h with vtype := 1 }).hart.vl ≠ 0 ∧ (demoWith fun h => { h with vtype := 1 }).hart.sew = 16 ∧
    (demoWith fun h => { h with vl := 0 }).hart.vl = 0 :=
  ⟨ready_of (by decide +kernel), fits_of (by decide +kernel), by decide +kernel⟩

/-- Waits whose condition every element meets, and that element 7 alone does not meet: memory holds 0 there. -/
theorem witness_VectorWaits : let s := withRegs [(1, 0x30000)]
    let t := demoWith fun h => (h.setReg 1 0x30000).setElem 32 31 7 5
    Ready t ∧ (∀ x ∈ plainItems s 4, readAt s idP x.t.va 4 = s.hart.elem 32 31 x.t.el) ∧
    ¬(∀ x ∈ plainItems t 4, readAt t idP x.t.va 4 = t.hart.elem 32 31 x.t.el) := ⟨ready_of (by decide +kernel), by decide +kernel⟩

/-- A hart that waits at vwait.ge v1, x7, v2. -/
theorem witness_VectorWaits_round : let s := { withWord 0b11111100001001110001000001000100 [] with hart := { demoHart with status := .waiting .watch 0 } }
    AtWord s (.vwaitGe 1 7 2 0 1 0) ∧ Waits s .watch :=
  ⟨⟨0b11111100001001110001000001000100, issues_any (.inr ⟨.watch, 0, rfl⟩) (by decide +kernel), rfl⟩, ⟨0, rfl⟩⟩

/-! Matrix tiles of one column of K: A's rows 4 bytes apart at 0x30000, and B's one value at 0x31000 for each of the eight columns of p1. -/

/-- A tile's state: A's values row by row, the descriptor in d1, VL, MCK and the budget. -/
def tiled (a : List Nat) (d1 : Word) (mck : BitVec 6) (mb : BitVec 53) (n : Nat) : State :=
  { ((demoWith fun h => { h with vl := BitVec.ofNat 14 n, p := h.p.set 1 0xFF, ts := h.ts.set 1 4, mck := mck, mb := h.mb.set 0 mb }).setX 1 0x30000).setX 2 0x31000 |>.setX 25 d1 with
    mem := Memory.setBytes (Memory.setBytes [] 0x30000 (a.flatMap (leBytes 4))) 0x31000 (leBytes 4 0x3F800000 ++ leBytes 4 0x3F800000) }

/-- The lines of A and of B that a tile of FP32 reads. -/
def tileLine (s : State) (P : Word → Nat) (o : Side2) (n : Nat) (l : Nat) : List Exact := (List.range n).map fun k =>
  let p := rowOf o.base o.stride o.along l k
  (rowFmt o.f).exact p.2 ((rowFmt o.f).rawOf p.2 (readAt s P ((rowFmt o.f).unitAddr 8 p.1 p.2) ((rowFmt o.f).unitSize 8)))

def tileA (s : State) (n : Nat) (P : Word → Nat := idP) : List (List Exact) := (List.range 4).map (tileLine s P ⟨.fp32, s.x 1, 4, true, []⟩ n)

def tileB (s : State) (n : Nat) (P : Word → Nat := idP) : List (Nat × List Exact) :=
  (List.range 8).map fun j => (j, tileLine s P ⟨.fp32, s.x 2, 0, true, []⟩ n j)

/-- FP32 operands and accumulator, as d1 names them, with its upper fields. -/
def tileDesc (try_ : Nat) (nff chk : Bool) : Desc := ⟨.fp32, .fp32, .fp32, .rne, false, 0, try_, 4, nff, chk⟩

def touchesOf (s : State) (n : Nat) : List Touch :=
  ((List.range 4).flatMap fun l => (List.range n).map fun k => ⟨k, s.x 1 + BitVec.ofNat 64 l * 4 + BitVec.ofNat 64 (4 * k), 4⟩) ++
    (List.range 8).flatMap fun _ => (List.range n).map fun k => ⟨k, s.x 2 + BitVec.ofNat 64 (4 * k), 4⟩

/-- A plain tile: no check fails, the operands are readable, and vd has room for four rows; at vd 29 it has none. -/
theorem witness_MatrixResults : let s := tiled [0x3F800000, 0x3F800000, 0x3F800000, 0x3F800000] 0xC0CC30C 0 0 1
    Ready s ∧ s.hart.pass = none ∧ trOf s.hart.vtype = 4 ∧ 28 + trOf s.hart.vtype ≤ 32 ∧ 32 < 29 + trOf s.hart.vtype ∧ s.hart.vln = 1 ∧
    (List.range s.hart.tileCols).filter (fun j => s.hart.pbit 1 j) = List.range 8 ∧ s.hart.ts[1] = 4 ∧
    TileDesc s 0 false ⟨.fp32, .fp32, .fp32, .rne, false, 0, 0, 0, false, false⟩ 0 ∧
    s.hart.tileOk false 0 1 ⟨.fp32, .fp32, .fp32, .rne, false, 0, 0, 0, false, false⟩ = true ∧
    Maps s s.hart.ptbase .read (touchesOf s 1) idP idL ∧ Clean s idP (touchesOf s 1) ∧ (tiled [] 0 0 0 0).hart.vln = 0 :=
  ⟨ready_of (by decide +kernel), by decide +kernel, by decide +kernel, by decide +kernel, by decide +kernel, by decide +kernel, by decide +kernel, by decide +kernel,
    ⟨rfl, .fp32, by decide +kernel, rfl⟩, by decide +kernel, low_maps (by decide +kernel), clean_of (by decide +kernel), by decide +kernel⟩

/-- 2^24 + 1 + 1: the row check finds the rounded sum of the partials away from the product of the sums. -/
theorem witness_MatrixResults_check : let s := tiled [0x4B800000, 0x3F800000, 0x3F800000, 0] (BitVec.ofNat 64 (12 * 4161 + 2 ^ 29 + 2 ^ 31)) 31 0 1
    Ready s ∧ TileDesc s 1 false (tileDesc 0 false true) (s.x 25) ∧ s.hart.tileOk false 0 1 (tileDesc 0 false true) = true ∧
    (let t := (passAt (tileDesc 0 false true) none (tileA s 1) (tileB s 1)).2.2
     t.firstFailure 1 (s.hart.mck.extractLsb' 0 5).toNat t.partials = some 0) :=
  ⟨ready_of (by decide +kernel), ⟨rfl, by decide +kernel⟩, by decide +kernel⟩

/-- Narrow-first replay that is within its budget at once, and one whose products cancel at the last level. -/
theorem witness_MatrixResults_replay : let s := tiled [0x3F800000, 0x3F800000, 0x3F800000, 0x3F800000] (BitVec.ofNat 64 (12 * 4161 + 4 * 2 ^ 24 + 2 ^ 29 + 2 ^ 30)) 0 0 1
    let q := tiled [0x3F800000, 0xBF800000, 0x3F800000, 0xBF800000, 0x3F800000] (BitVec.ofNat 64 (12 * 4161 + 4 * 2 ^ 24 + 2 ^ 29 + 2 ^ 30)) 0 0 2
    let p := fun (s : State) n => passAt (tileDesc 4 true false) (some 4) (tileA s n) (tileB s n)
    Ready s ∧ TileDesc s 1 false (tileDesc 4 true false) (s.x 25) ∧ s.hart.tileOk false 0 1 (tileDesc 4 true false) = true ∧
    Replays (tileDesc 4 true false) (fun _ => within (s.hart.mb[0]?.getD 0) (p s 1).1 (p s 1).2.1 (p s 1).2.2 = true) 4 4 false ∧
    Ready q ∧ Replays (tileDesc 4 true false) (fun _ => within (q.hart.mb[0]?.getD 0) (p q 2).1 (p q 2).2.1 (p q 2).2.2 = true) 4 4 true :=
  ⟨ready_of (by decide +kernel), ⟨rfl, by decide +kernel⟩, by decide +kernel, .within _ (by decide +kernel), ready_of (by decide +kernel),
    .over _ (by decide +kernel) (by decide +kernel)⟩

/-- The page of its operands in the shared region of the drawer. -/
abbrev farP (_ : Word) : Nat := 0x1000000030000

/-- The same tile over a page that modules share, whose lines have returned. -/
def tiledFar (a : List Nat) (d1 : Word) : State :=
  let s := tiled a d1 31 0 1
  { s with
    tlb := [⟨0, 0, 0, 42, 0x100000000001F, 0, false⟩]
    dshr := 0x40000000
    hart := { s.hart with got := [(drawerBase + 0x30000, false), (drawerBase + 0x31000, false)] }
    mem := Memory.setBytes (Memory.setBytes [] (drawerBase + 0x30000) (a.flatMap (leBytes 4))) (drawerBase + 0x31000) (leBytes 4 0x3F800000) }

/-- A check that fails there is to be taken again as a pass of its own. -/
theorem witness_MatrixResults_shared : let s := tiledFar [0x4B800000, 0x3F800000, 0x3F800000, 0] (BitVec.ofNat 64 (12 * 4161 + 2 ^ 29 + 2 ^ 31))
    Ready s ∧ TileDesc s 1 false (tileDesc 0 false true) (s.x 25) ∧ Maps s s.hart.ptbase .read (touchesOf s 1) farP (fun _ => 0x100000000001F) ∧
    Clean s farP (touchesOf s 1) ∧ s.hart.mck.getLsbD 5 = false ∧ s.sharedPa (farP 0x30000) = true ∧
    ∃ k, (let t := (passAt (tileDesc 0 false true) none (tileA s 1 farP) (tileB s 1 farP)).2.2
      t.firstFailure 1 (s.hart.mck.extractLsb' 0 5).toNat t.partials) = some k :=
  have one : ((touchesOf (tiledFar [0x4B800000, 0x3F800000, 0x3F800000, 0] (BitVec.ofNat 64 (12 * 4161 + 2 ^ 29 + 2 ^ 31))) 1).all fun t =>
      (pagesAt t.va t.n).all fun p => p == 0x30000) = true := by decide +kernel
  ⟨ready_of (by decide +kernel), ⟨rfl, by decide +kernel⟩, ⟨fun t ht p hp => by
      obtain rfl := eq_of_beq (List.all_eq_true.mp (List.all_eq_true.mp one t ht) p hp)
      decide +kernel, nofun⟩,
    ⟨fun _ _ _ _ => sound_of (by decide +kernel), by unfold Served; decide +kernel, fun _ _ => follows_of (by decide +kernel)⟩, by decide +kernel,
    by decide +kernel, ⟨0, by decide +kernel⟩⟩

/-- The step of one pass at the word of mma v16, x12, x13. -/
theorem witness_MatrixResults_pass : let s := withWord 0xEA0C68A0 []
    AtWord s (.mma 16 12 13 0 0 1 2) := ⟨0xEA0C68A0, issues_of (by decide +kernel), rfl⟩

/-- The integer forms under INT8 operands. -/
theorem witness_MatrixResults_int : let s := demoWith fun h => { h with vtype := 0 }
    Ready s ∧ s.hart.pass = none ∧ TileDesc s 0 true ⟨.int8, .int8, .int32, .rne, false, 0, 0, 0, false, false⟩ 0 ∧
    s.hart.tileOk true 0 1 ⟨.int8, .int8, .int32, .rne, false, 0, 0, 0, false, false⟩ = true :=
  ⟨ready_of (by decide +kernel), by decide +kernel, ⟨rfl, .int8, by decide +kernel, rfl⟩, by decide +kernel⟩

/-! Copies. -/

/-- A shape record at 0x30000 for eight elements of one dimension from 0x40000 to 0x50000, with the given format word. -/
def shaped (fmt size : Nat) : State :=
  { withRegs [(1, 0x30000)] with mem := Memory.setBytes [] 0x30000 (leBytes 8 0x40000 ++ leBytes 8 0x50000 ++ leBytes 8 0 ++ leBytes 4 fmt ++
      leBytes 4 (0x1AC688 + 2 ^ 21) ++ leBytes 4 size ++ List.replicate 24 0 ++ leBytes 4 1 ++ List.replicate 24 0 ++ leBytes 4 1 ++ List.replicate 24 0) }

def shapeOf (s : State) : Shape := Shape.read ((List.range 128).map fun k => s.readByte .vector (byteAt idP (0x30000 + BitVec.ofNat 64 k)))

/-- A raw copy of the whole strip; a size of zero is not legal; a reserved format code is not; a record at an odd address. -/
theorem witness_CopyStrip : let s := shaped 0xFFF 8
    Ready s ∧ s.hart.vl ≠ 0 ∧ (s.x 1).toNat % 64 = 0 ∧ ((s.setX 1 0x30001).x 1).toNat % 64 ≠ 0 ∧ Maps s s.hart.ptbase .read [⟨0, s.x 1, 128⟩] idP idL ∧
    Clean s idP [⟨0, s.x 1, 128⟩] ∧ (shapeOf s).ok s.hart.vln = true ∧ (shapeOf s).codes = some (none, none) ∧
    wholeStrides none (shapeOf s).sstr = true ∧ wholeStrides none (shapeOf s).dstr = true ∧ (shapeOf (shaped 0xFFF 0)).ok s.hart.vln = false ∧
    (shapeOf (shaped 0 8)).ok s.hart.vln = true ∧ (shapeOf (shaped 0 8)).codes = none ∧ (shapeOf (shaped 0 8)).formats = none :=
  ⟨ready_of (by decide +kernel), by decide +kernel, by decide +kernel, by decide +kernel, low_maps (by decide +kernel), clean_of (by decide +kernel),
    by decide +kernel⟩

/-- What the last clause asks for, at the whole strip and at the end of the copy's elements. -/
theorem witness_CopyStrip_strip : let s := shaped 0xFFF 8
    let m : CopyFmt := ⟨none, none, 0, false, false, 0, 0⟩
    let j : Job := ⟨shapeOf s, m, s.hart.sew, 0, 8⟩
    let reads := (List.range 8).map fun i => (⟨i, (j.src i).va, placeBytes m.sf s.hart.sew⟩ : Touch)
    let writes := (List.range 8).map fun i => (⟨i, (j.dst i).va, placeBytes m.df s.hart.sew⟩ : Touch)
    (shapeOf s).formats = some m ∧ min s.hart.vln ((shapeOf s).total - (shapeOf s).cursor) = 8 ∧
    Maps s s.hart.ptbase .read reads idP idL ∧ Clean s idP reads ∧ Maps s s.hart.ptbase .write (writes ++ [⟨0, s.x 1 + 0x10, 8⟩]) idP idL ∧
    min (shaped 0xFFF 3).hart.vln ((shapeOf (shaped 0xFFF 3)).total - (shapeOf (shaped 0xFFF 3)).cursor) = 3 :=
  ⟨by decide +kernel, by decide +kernel, low_maps (by decide +kernel), clean_of (by decide +kernel), low_maps (by decide +kernel), by decide +kernel⟩

/-! Permuted sets. -/

/-- The demo's set with staging rows and a sketch, whose reorder may start. -/
def freeSet : Machine.PSet := { demoSet with staging := 2, sketch := 0xB0000 }

/-- A list of a taken gather of the demo hart through slot 1 that the sketch has not taken in yet. -/
def oneSample : List Sample := [⟨0, 0, 1, freeSet, [0, 1]⟩]

theorem witness_PermutedSetForms : Ready demo ∧ demo.boundSet 1 = none ∧ (demo.hart.slots[(1 : BitVec 2).toNat]?.getD PSlot.unbound).psd = none ∧
    Ready (withSet demoSet id) ∧ (withSet demoSet id).boundSet 1 = some demoSet ∧ ((withSet demoSet id).x 1).toNat ≤ demoSet.ver.toNat ∧
    demoSet.ver.toNat < (((withSet demoSet id).setX 1 1).x 1).toNat ∧
    ((withSet demoSet id).hart.slots[(1 : BitVec 2).toNat]?.getD PSlot.unbound).psd ≠ none ∧ (withSet demoSet id).samples = [] ∧
    (∃ x ∈ oneSample, x.gang = demoHart.gangid ∧ x.hartix = demoHart.hartix ∧ x.slot = (1 : BitVec 2).toNat) :=
  ⟨demo_ready, by decide +kernel, by decide +kernel, ready_of (by decide +kernel), by decide +kernel⟩

/-- A hart that waits at pswait ps1, t0 for version 0, which its set has. -/
theorem witness_PermutedSetForms_event : let s := { withSet demoSet (fun h => { h with status := .waiting .version 0 }) with
      mem := Memory.setBytes [] 0x20000 (leBytes 4 0xF0100016) }
    AtWord s (.pswait 16 1) ∧ Waits s .version ∧ s.boundSet 1 = some demoSet ∧ (s.x 16).toNat ≤ demoSet.ver.toNat :=
  ⟨⟨0xF0100016, issues_any (.inr ⟨.version, 0, rfl⟩) (by decide +kernel), rfl⟩, ⟨0, rfl⟩, by decide +kernel⟩

/-- A reorder that may start, and one that each reason rejects: one under way, no staging rows, no sketch, and rows in shared memory. -/
theorem witness_PermutedSetForms_reorder : let s := fun (k : Machine.PSet) => withSet k id
    let k := { freeSet with space := 0x1000000, base := 0x30000 }
    let far : State := { walked (drawerBase + 0x1F) 0 0 (fun h => { h with slots := h.slots.set 1 ⟨some 0x80000, 0x80000, none, 0⟩ }) with
      sets := [k], dshr := 0x40000000 }
    (s freeSet).boundSet 1 = some freeSet ∧ freeSet.reorder = .none ∧ freeSet.staging ≠ 0 ∧ freeSet.nomove = false ∧ freeSet.sketch ≠ 0 ∧
    (s freeSet).rowsMisplaced freeSet = false ∧ ({ freeSet with reorder := .numbering } : Machine.PSet).reorder ≠ .none ∧ demoSet.staging = 0 ∧
    ({ freeSet with sketch := 0 } : Machine.PSet).sketch = 0 ∧ far.boundSet 1 = some k ∧ far.rowsMisplaced k = true ∧
    (((s freeSet).setX 1 0x30002).x 1).toNat % 4 ≠ 0 := by decide +kernel

/-- psexp of the last row, of one row too many, and of none. -/
theorem witness_PermutedSetForms_export : let s := (withSet demoSet fun h => { h with vl := 1 }).setX 1 0x30000 |>.setX 2 3
    let els := (List.range 1).filter fun i => s.hart.vstart.toNat ≤ i
    let rs := els.map fun i => (⟨i, demoSet.fwd + BitVec.ofNat 64 (4 * (3 + i)), 4⟩ : Touch)
    let ws := els.map fun i => (⟨i, s.x 1 + BitVec.ofNat 64 (4 * i), 4⟩ : Touch)
    Ready s ∧ s.boundSet 1 = some demoSet ∧ (s.x 1).toNat % 4 = 0 ∧ 0 < s.hart.vl.toNat ∧ (s.x 2).toNat + s.hart.vl.toNat ≤ demoSet.n ∧
    demoSet.n < ((s.setX 2 4).x 2).toNat + s.hart.vl.toNat ∧ Maps s s.hart.ptbase .write ws idP idL ∧ Maps s demoSet.space .read rs idP idL ∧
    Clean s idP rs ∧ (withSet demoSet fun h => { h with vl := 0 }).hart.vl.toNat = 0 :=
  ⟨ready_of (by decide +kernel), by decide +kernel, by decide +kernel, by decide +kernel, by decide +kernel, by decide +kernel,
    low_maps (by decide +kernel), low_maps (by decide +kernel), clean_of (by decide +kernel), by decide +kernel⟩

/-- A descriptor at 0x80000, by its row pitch. -/
def described (pitch : Nat) : State := { withRegs [(1, 0x80000)] with mem := Memory.setBytes [] 0x80000 (leBytes 8 0x100000 ++ leBytes 4 pitch ++ leBytes 4 64 ++
  leBytes 8 4 ++ leBytes 8 0x90000 ++ leBytes 8 0xA0000 ++ leBytes 8 0 ++ leBytes 8 0 ++ leBytes 8 0) }

def legalPsd (s : State) : Prop :=
  let bs := (List.range 64).map fun k => s.readByte .vector (byteAt idP (0x80000 + BitVec.ofNat 64 k))
  let at_ := fun (o n : Nat) => leNat ((bs.drop o).take n)
  let w := fun (o : Nat) => BitVec.ofNat 64 (at_ o 8)
  at_ 0 8 % 64 = 0 ∧ canonical (w 0) = true ∧ at_ 8 4 % 64 = 0 ∧ 64 ≤ at_ 8 4 ∧ at_ 8 4 ≤ 2 ^ 24 ∧ at_ 0x0C 4 ≤ 64 ∧
    1 ≤ at_ 0x10 8 ∧ at_ 0x10 8 + at_ 0x0C 4 ≤ 2 ^ 32 ∧ at_ 0x18 8 % 64 = 0 ∧ canonical (w 0x18) = true ∧ at_ 0x20 8 % 64 = 0 ∧
    canonical (w 0x20) = true ∧ at_ 0x30 8 % 32 = 0 ∧ canonical (w 0x30) = true ∧ at_ 0x38 8 ≤ 1

/-- Pitches at both ends of their range and beside them; a set that is active already and one that is not. -/
theorem witness_PermutedSetBind : let s := described 64
    Ready s ∧ (s.x 1).toNat % 64 = 0 ∧ ((s.setX 1 0x80020).x 1).toNat % 64 ≠ 0 ∧ Maps s s.hart.ptbase .read [⟨0, s.x 1, 64⟩] idP idL ∧
    Clean s idP [⟨0, s.x 1, 64⟩] ∧ legalPsd s ∧ legalPsd (described 0x1000000) ∧ ¬legalPsd (described 0) ∧ ¬legalPsd (described 0x1000040) ∧
    (∀ k ∈ s.sets, k.psd ≠ byteAt idP (s.x 1)) ∧ s.sets.length < 256 ∧ (∃ k ∈ (withSet demoSet id).sets, k.psd = 0x80000) ∧ s.samples = [] :=
  ⟨ready_of (by decide +kernel), by decide +kernel, by decide +kernel, low_maps (by decide +kernel), clean_of (by decide +kernel),
    by unfold legalPsd; decide +kernel, by unfold legalPsd; decide +kernel, by unfold legalPsd; decide +kernel, by unfold legalPsd; decide +kernel,
    by decide +kernel⟩

/-! Gangs. -/

/-- A gang of two harts, of which the demo hart is the first, with members and arrivals of its barrier 15. -/
def gangOfTwo (member arr : List Bool) (exited : Nat) (aborted : Bool) : Gang :=
  ⟨0, 2, 100, 1, 0, BitVec.allOnes 384, 0, 0x60000, 0x60000, none, 0x50000, Space.empty, [], 0, exited, 0, 0,
    (List.replicate 15 ⟨[true, true], [false, false], 0⟩) ++ [⟨member, arr, 0⟩], aborted⟩

def ganged (member arr : List Bool) : State := { (demo.setX 1 15) with gangs := [gangOfTwo member arr 0 false] }

/-- Whether the demo hart is a member and has arrived, whether its arrival completes the phase, and a later phase. -/
theorem witness_GangBarriers : Ready demo ∧ Alone demo ∧ Ready (ganged [true, true] [false, false]) ∧ Alone (ganged [true, true] [false, false]) ∧
    (∀ m a, (ganged m a).barrierAt (ganged m a).hart.gangid (((ganged m a).x 1).toNat % 16) = some ⟨m, a, 0⟩) ∧
    demo.barrierAt demo.hart.gangid 0 = none ∧ demo.hart.arrived = none ∧
    ([false, true][demo.hart.hartix.toNat]?.getD false) = false ∧ ([true, true][demo.hart.hartix.toNat]?.getD false) = true ∧
    (([true, true].zip ([false, true].set demo.hart.hartix.toNat true)).all fun m => !m.1 || m.2) = true ∧
    (([true, true].zip ([false, false].set demo.hart.hartix.toNat true)).all fun m => !m.1 || m.2) = false ∧
    (demoWith fun h => { h with arrived := some (15, 0) }).hart.arrived = some (15, 0) :=
  ⟨demo_ready, alone_of (by decide +kernel), ready_of (by decide +kernel), alone_of (by decide +kernel), fun _ _ => rfl, by decide +kernel⟩

/-- A queue of two packets that a hart may use, with a number of packets in it. -/
def queued (n : Nat) : State :=
  { withRegs [(1, 0x30000), (2, 63)] with queues := demo.queues.set 63 { Queue.empty with en := true, dev := true, log2sz := 1, base := 0x50000, tail := BitVec.ofNat 32 n } }

theorem witness_LaunchResults : let s := queued 1
    let may := fun (s : State) (q : Word) => let k := s.queues[(q.extractLsb' 0 6).toNat]?.getD Queue.empty
      q.toNat < 64 ∧ k.en = true ∧ k.dev = true ∧ k.as = s.hart.ptbase.extractLsb' 52 9
    Ready s ∧ Alone s ∧ Reaches s .read true (s.x 1) 64 0x30000 ∧ Sound s 0x30000 64 ∧ Served s [(0x30000, 64)] ∧
    Follows s .scalar [(0x30000, 64)] ∧ (s.x 1).toNat % 64 = 0 ∧ ((s.setX 1 0x30020).x 1).toNat % 64 ≠ 0 ∧
    may s (s.x 2) ∧ ¬may s 62 ∧ ¬may s 64 ∧
    (∀ n ∈ [1, 2], let k := (queued n).queues[63]
      ((k.tail - k.head).toNat = 2 ^ k.log2sz.toNat) ↔ n = 2) :=
  ⟨ready_of (by decide +kernel), alone_of (by decide +kernel), low_reaches (by decide +kernel), sound_of (by decide +kernel),
    served_of (by decide), follows_of (by decide +kernel), by decide +kernel⟩

/-- A hart that waits at a word, at the demo's pc. -/
def waitingAt (w : Nat) (y : Why) : State := { withWord w [] with hart := { demoHart with status := .waiting y 0 } }

theorem atWord_of {s : State} {i : Instr} (w : BitVec 32) (hl : s.hart.status = .running ∨ ∃ why since, s.hart.status = .waiting why since)
    (h : MayIssue s w) (hd : decode w = .ok i) : AtWord s i := ⟨w, issues_any hl h, hd⟩

/-- A hart that waits at launch x17, x7, x8. -/
theorem witness_LaunchResults_event : AtWord (waitingAt 0xF6274004 .accept) (.launch 17 7 8) ∧ Waits (waitingAt 0xF6274004 .accept) .accept :=
  ⟨atWord_of 0xF6274004 (.inr ⟨.accept, 0, rfl⟩) (by decide +kernel) rfl, ⟨0, rfl⟩⟩

/-- The demo's lanes with n entries in the FIFO of each toward core 1, or from it, but k in those of lane 0. -/
def exchanged (n k : Nat) : State := { withRegs [(1, 1)] with
  fifos := (List.range 8).flatMap fun l => [(0, 1, l, List.replicate (if l = 0 then k else n) 7), (1, 0, l, List.replicate (if l = 0 then k else n) 9)] }

/-- Lanes that all have room, or entries; some that have; and none. -/
theorem witness_LaneExchange : let room := fun (n k : Nat) (l : Nat × Nat) => decide (((exchanged n k).fifo 0 1 l.1).length + 1 ≤ 4)
    let full := fun (n k : Nat) (l : Nat × Nat) => decide (1 ≤ ((exchanged n k).fifo 1 0 l.1).length)
    let lanes := (exchanged 0 0).hart.physLanes
    Ready (exchanged 0 0) ∧ GroupsFit (exchanged 0 0) [31] ∧ lmulOf (exchanged 0 0).hart.vtype = 1 ∧
    ((exchanged 0 0).x 1).toNat % 8 ≠ (exchanged 0 0).hart.core % 8 ∧ (demo.x 1).toNat % 8 = demo.hart.core % 8 ∧
    lanes.all (room 3 3) = true ∧ lanes.any (room 4 3) = true ∧ lanes.all (room 4 3) = false ∧ lanes.any (room 4 4) = false ∧
    lanes.all (full 1 1) = true ∧ lanes.any (full 1 0) = true ∧ lanes.all (full 1 0) = false ∧ lanes.any (full 0 0) = false :=
  ⟨ready_of (by decide +kernel), fits_of (by decide +kernel), by decide +kernel⟩

/-- Harts that wait at vxsend v3, x18 and at vxrecv v3, x18. -/
theorem witness_LaneExchange_event : AtWord (waitingAt 0xF4720005 .push) (.vxsend 3 18) ∧ Waits (waitingAt 0xF4720005 .push) .push ∧
    AtWord (waitingAt 0xF4720006 .pop) (.vxrecv 3 18) ∧ Waits (waitingAt 0xF4720006 .pop) .pop :=
  ⟨atWord_of 0xF4720005 (.inr ⟨.push, 0, rfl⟩) (by decide +kernel) rfl, ⟨0, rfl⟩,
    atWord_of 0xF4720006 (.inr ⟨.pop, 0, rfl⟩) (by decide +kernel) rfl, ⟨0, rfl⟩⟩

theorem witness_HartExit : Ready demo ∧ demo.hart.held = [] ∧ (∀ h ∈ demo.others, h.status ≠ .gone ∧ h.id ≠ demo.hart.id) ∧ demo.hart.core < 384 :=
  ⟨demo_ready, by decide +kernel⟩

/-! Steps of the device that move one hart. -/

/-- A hart that waits at its convoy, here at the word of `sub`, may issue it. -/
theorem witness_HartEvents : let s := waitingAt 0x86508801 (.lanes 1)
    Ready s ∧ Issues s 0x86508801 ∧ decode 0x86508801 = .ok (.sub 18 16 17) ∧ ∃ t, exec (.sub 18 16 17) s = .next t :=
  ⟨ready_of (by decide +kernel), issues_any (.inr ⟨.lanes 1, 0, rfl⟩) (by decide +kernel), rfl, ⟨_, rfl⟩⟩

/-- A protected hart at a vector convoy that raises no cause, before and after its repetition. -/
theorem witness_HartEvents_mirror : let s := fun r => { withWord 0xB4810800 [] with hart := { demoHart with prot := true, retried := r } }
    Ready (s false) ∧ Issues (s false) 0xB4810800 ∧ (s false).hart.prot = true ∧ isVector [0xB4810800] = true ∧
    (((s false).beginConvoy [0xB4810800]).judge [0xB4810800]).cause = none ∧
    (((s true).beginConvoy [0xB4810800]).judge [0xB4810800]).cause = none ∧ (s true).hart.retried = true ∧ demo.hart.prot = false ∧
    comparedAt 0xB4810800 4 = true ∧ comparedAt 0xB4810800 3 = false ∧ (s false).hart.plane = 4 ∧ comparedAt 0xEA0C68A0 0x82 = true :=
  ⟨ready_of (by decide +kernel), ⟨.inl rfl, by decide +kernel, rfl, rfl, rfl, by decide +kernel, by decide +kernel, by decide +kernel,
    fun _ => by decide +kernel, gives_eq (by decide +kernel), by decide⟩, by decide +kernel⟩

/-- A request of the demo hart for a drawer line, at its trunk since cycle 0. -/
def lateFor (y : Why) (line n : Nat) : State := { waitingAt 0x86508801 y with
  cycle := n, trunks := demo.trunks.set 0 { Trunk.trained with waiting := [⟨0, 0, 0, line, false, 0, false, 0⟩] } }

/-- Waits for a line of the drawer, for queued writes and for a page being moved, at and past their thresholds of cycles. -/
theorem witness_HartEvents_expired : let t := Why.trunk [drawerBase] false
    let s := fun (n : Nat) => lateFor t drawerBase n
    let w := fun (n : Nat) => { waitingAt 0x86508801 .writes with
      dshr := 0x40000000, cycle := n, wq := [drawerWrite], trunks := demo.trunks.set 0 { Trunk.trained with waiting := [⟨0, 0, 0, drawerBase, true, 0, true, 0⟩] } }
    let m := fun (n : Nat) => { waitingAt 0x86508801 (.migration 0x30000) with cycle := n }
    Ready (s 131073) ∧ Issues (s 131073) 0x86508801 ∧ Waits (s 131073) t ∧ Issues (w 131073) 0x86508801 ∧ Issues (m 32769) 0x86508801 ∧
    (s 131073).lateRequest [drawerBase] false = some drawerBase ∧ (s 131072).lateRequest [drawerBase] false = none ∧
    (w 131073).lateWrite = true ∧ (w 131072).lateWrite = false ∧ (m 32769).migthr.toNat < (m 32769).cycle - 0 ∧
    (m 32768).cycle - 0 ≤ (m 32768).migthr.toNat ∧
    ∀ y ∈ [t, .writes, .migration 0x30000], ∃ u, exec (.sub 18 16 17) { s 131073 with conv := { Convoy.fresh with expired := some y } } = .next u :=
  ⟨ready_of (by decide +kernel), issues_any (.inr ⟨_, 0, rfl⟩) (by decide +kernel), ⟨0, rfl⟩, issues_any (.inr ⟨.writes, 0, rfl⟩) (by decide +kernel),
    issues_any (.inr ⟨.migration 0x30000, 0, rfl⟩) (by decide +kernel), by decide +kernel, by decide +kernel, by decide +kernel, by decide +kernel,
    by decide +kernel, by decide +kernel, fun _ _ => ⟨_, rfl⟩⟩

/-- A hart that waits for a line of its watermark in the drawer, past the threshold and at it, and the tile of an accepted pass. -/
theorem witness_HartEvents_watermark : let s := fun (n : Nat) => lateFor (.watermark [drawerBase]) drawerBase n
    Ready (s 131073) ∧ Issues (s 131073) 0x86508801 ∧ Waits (s 131073) (.watermark [drawerBase]) ∧
    (s 131073).lateRequest [drawerBase] false = some drawerBase ∧ (s 131072).lateRequest [drawerBase] false = none ∧
    ∃ u, exec (.sub 18 16 17) { s 131073 with conv := { Convoy.fresh with expired := some (.watermark [drawerBase]) } } = .next u :=
  ⟨ready_of (by decide +kernel), issues_any (.inr ⟨_, 0, rfl⟩) (by decide +kernel), ⟨0, rfl⟩, by decide +kernel, by decide +kernel, ⟨_, rfl⟩⟩

/-- A breakpoint on the pc, an element step due, and a slot where no hart stands. -/
theorem witness_HartEvents_steps : (demoWith fun h => { h with dbgctl := 2 }).hart.stepping 2 = true ∧
    (demoWith fun h => { h with dbgctl := 4 + BitVec.ofNat 57 (0x20000 / 4 * 16) }).hart.breaks = true ∧ demo.hart.breaks = false ∧
    demo.hart.status ≠ .gone ∧ demo.abortedHere = false ∧ demo.hart.switchReq = false ∧ demo.hart.due = none ∧ demo.hartAt 5 = none ∧
    (∀ h ∈ demo.others, h.id ≠ 5) := by decide +kernel

/-- One pass of a matrix word (mma at SEW 32 on p0, its operands at 0). -/
theorem witness_HartEvents_pass : let s := withWord 0xEA0C68A0 []
    Ready s ∧ Issues s 0xEA0C68A0 ∧ majOf 0xEA0C68A0 = 26 ∧ decode 0xEA0C68A0 = .ok (.mma 16 12 13 0 0 1 2) ∧
    ∃ t, exec (.mma 16 12 13 0 0 1 2) { s with conv := { Convoy.fresh with onePass := true } } = .next t :=
  ⟨ready_of (by decide +kernel), issues_of (by decide +kernel), by decide, rfl, ⟨_, rfl⟩⟩

theorem delivers_of {s : State} (h : s.hart.held = [] ∧ s.wq = []) : Delivers s := by
  constructor
  · rw [h.1]; exact fun _ hw => absurd hw List.not_mem_nil
  · rw [h.2]; exact fun _ hw => absurd hw List.not_mem_nil

/-- A hart at addi x3, x1, 5, at vid v1 and at brk. -/
theorem witness_EventResults : let s := fun w => withWord w []
    Ready (s 0x88610005) ∧ AtWord (s 0x88610005) (.addi 3 1 5) ∧ AtWord (s 0xC8200025) (.vid 1 0) ∧ GroupsFit (s 0xC8200025) [1] ∧
    AtWord (s 0xF800E002) .brk ∧ Delivers (s 0xF800E002) :=
  ⟨ready_of (by decide +kernel), atWord_of 0x88610005 (.inl rfl) (by decide +kernel) rfl, atWord_of 0xC8200025 (.inl rfl) (by decide +kernel) rfl,
    fits_of (by decide +kernel), atWord_of 0xF800E002 (.inl rfl) (by decide +kernel) rfl, delivers_of (by decide +kernel)⟩

/-- ld x3, (x1) of a poisoned line of tier H. -/
theorem witness_EventResults_poison : let s := { (withWord 0xA061C000 []).setX 1 0x30000 with poison := [(0x30000, 32, .home)] }
    AtWord s (.ld 3 1 0 0 0) ∧ Delivers s ∧ Reaches s .read true 0x30000 8 0x30000 ∧ s.x 1 = 0x30000 ∧ s.inL1d 0x30000 = false ∧
    s.unserved false 0x30000 = false ∧ s.hart.held = [] ∧ s.wq = [] ∧ s.hart.orders = [] ∧ s.ahead .scalar = [] ∧
    ∀ u ∈ s.poison, overlaps u.1 u.2.1 0x30000 8 = true ∧ lineOf u.1 = lineOf 0x30000 ∧ s.struck false u = true :=
  ⟨atWord_of 0xA061C000 (.inl rfl) (by decide +kernel) rfl, delivers_of (by decide +kernel), low_reaches (by decide +kernel), by decide +kernel⟩

/-- ld x3, (x1) of a line of the drawer whose request has waited too long, and of a page that is being moved for too long. -/
theorem witness_EventResults_late : let s := { (lateFor (.trunk [0x1000000030000] false) 0x1000000030000 131073).setX 1 0x1000000030000 with
      dshr := 0x40000000
      mem := Memory.setBytes [] 0x20000 (leBytes 4 0xA061C000)
      tlb := demo.tlb ++ [⟨0, 0, 0x1000000000000, 16 + 13, 0x100000000001F, 0, false⟩] }
    AtWord s (.ld 3 1 0 0 0) ∧ Waits s (.trunk [0x1000000030000] false) ∧ s.x 1 = 0x1000000030000 ∧
    s.translate 0 0 .u .read true 0x1000000030000 = .pa 0x1000000030000 0x100000000001F ∧ regionOf 0x1000000030000 ≠ .regs ∧ s.ownPubs = [] ∧
    s.inL1d 0x1000000030000 = false ∧ s.unserved false 0x1000000030000 = true ∧ lineOf 0x1000000030000 = 0x1000000030000 ∧
    (∃ x ∈ s.trunks.toList, ⟨0, 0, 0, 0x1000000030000, false, 0, false, 0⟩ ∈ x.waiting ++ x.again ++ x.flying.map fun f => f.1) ∧
    s.stallthr.toNat < s.cycle - 0 :=
  ⟨atWord_of 0xA061C000 (.inr ⟨_, 0, rfl⟩) (by decide +kernel) rfl, ⟨0, rfl⟩, by decide +kernel⟩

theorem witness_EventResults_moving : let s := { (waitingAt 0xA061C000 (.migration 0x40000000000)).setX 1 0x40000000000 with
      tlb := demo.tlb ++ [⟨0, 0, 0x40000000000, 16, 0x4000000009F, 0, false⟩], cycle := 32769 }
    AtWord s (.ld 3 1 0 0 0) ∧ s.translate 0 0 .u .read true (pageOf (s.x 1)) = .held ∧ pageOf (s.x 1) = 0x40000000000 ∧
    s.migthr.toNat < s.cycle - 0 :=
  ⟨atWord_of 0xA061C000 (.inr ⟨_, 0, rfl⟩) (by decide +kernel) rfl, by decide +kernel⟩

/-- The same addition under element step. -/
theorem witness_EventResults_step : let s := { withWord 0x88610005 [] with hart := { demoHart with dbgctl := 2 } }
    Ready s ∧ s.hart.status = .running ∧ s.abortedHere = false ∧ s.hart.switchReq = false ∧ s.hart.due = none ∧ s.hart.pass = none ∧
    s.hart.breaks = false ∧ s.hart.stepping 2 = true ∧ gives (s.fetch s.hart.pc) 0x88610005 = true :=
  ⟨ready_of (by decide +kernel), by decide +kernel⟩

/-! Switching harts. -/

/-- A hart named for reclaim, at its deadline and one cycle before it. -/
theorem witness_SwitchEvents : let s := fun (n : Nat) => { (demoWith fun h => { h with reclaimAt := some 5 }) with cycle := n }
    ((s 262149).hartAt 0).map (fun h => h.reclaimAt) = some (some 5) ∧ 5 + 262144 ≤ (s 262149).cycle ∧ (s 262148).cycle < 5 + 262144 := by decide +kernel

/-- A hart to be switched out, with and without a free frame. -/
theorem witness_SwitchEvents_out : let s := fun (n : BitVec 16) => { (demoWith fun h => { h with switchReq := true }) with poolBase := 0x200000, poolCount := n }
    (s 1).hart.status ≠ .gone ∧ (s 1).hart.rewEn = false ∧ (s 1).hart.switchReq = true ∧ (s 1).switchable (s 1).hart = true ∧ (s 1).hart.held = [] ∧
    (s 1).hart.rheld = [] ∧ (s 1).hart.core < 384 ∧ (s 1).others = [] ∧ (s 0).freeFrame = none ∧ (s 1).freeFrame = some 0x200000 ∧
    demo.hart.switchReq = false := by decide +kernel

/-- A switched-out hart whose turn it is, with room for it in slot 3 of core 383; a drop of exit with no earlier access; and groups given up
by vrel. -/
theorem witness_SwitchEvents_in : let s := { demo with
      swapped := [⟨0x200000, 0, 0, 2, 0, demoHart⟩], gangs := [gangOfTwo [true, true] [false, false] 0 false], exitDrops := [⟨0, 5, [1], 15⟩] }
    (∀ h, s.hartAt (4 * 383 + 3) = some h → h.rewEn = false) ∧ s.swapped[0]?.map (fun w => (w.frame, w.groups)) = some (0x200000, 2) ∧
    s.nextPlaced = some ((.hart 0x200000, 0), true) ∧ 1535 / 4 < 384 ∧
    s.roomFor (match s.gangOf 0 with | some g => g.mask | none => 0) 1535 2 false true (s.asksNow (.hart 0x200000, 0)) = some [0, 1] ∧
    s.exitDrops[0]? = some ⟨0, 5, [1], 15⟩ ∧ s.wq = [] ∧ s.ended = [] ∧ (383 : Nat) < 384 ∧ (3 : Nat) < 4 := by
  intro s
  have hn : s.hartAt (4 * 383 + 3) = none := by decide +kernel
  exact ⟨fun h hh => (by rw [hn] at hh; cases hh), by decide +kernel⟩

/-! Pages. -/

/-- A walk that ends in a leaf, and one that does not; copy-on-write leaves, private and shared, with a free page to give. -/
theorem witness_PageEvents : let s := walked 0x3001F 0x30000 0 id
    (s.hartAt 0).isSome ∧ canonical 0x30000 = true ∧ s.walk 0x1000000 0x30000 = .leaf 0x3001F 16 0x3000018 ∧ pteM 0x3001F = false ∧
    (ptePa 0x3001F + (0x30000 : Word).toNat % 2 ^ 16) / 65536 * 65536 ∉ s.absentPages ∧ s.walk 0x1000000 0x40000 = .bad := by decide +kernel

theorem witness_PageEvents_cow : let s := fun (leaf : Nat) => walked leaf 0x30000 0 id
    let t : State := { s 0x3007B with mem := Memory.setBytes (s 0x3007B).mem 0x60000 (leBytes 8 0 ++ leBytes 8 1 ++ leBytes 8 7 ++ leBytes 8 0x70000) }
    (s 0x3003B).walk 0x1000000 0x30000 = .leaf 0x3003B 16 0x3000018 ∧ pteM 0x3003B = false ∧ pteCow 0x3003B = true ∧ pteU 0x3003B = true ∧
    pteSh 0x3003B = false ∧ t.walk 0x1000000 0x30000 = .leaf 0x3007B 16 0x3000018 ∧ pteSh 0x3007B = true ∧
    (t.resolveWith 0x60000 0x100000 0x3007B 0x3000018).isSome = true := by decide +kernel

/-- A move by the demo hart, from tier H or from the drawer with its trunks down, since cycle 5. -/
def moving (old : Nat) (st : TrunkState) (cycle : Nat) : State := { withWord 0x86508801 [] with
  hart := { demoHart with status := .waiting (.move 0x30000 0x3000018 0x3001F 0x50000) 5 }
  pageMoves := [⟨0, 0x10000001000000, 0x30000, 0x3000018, 0x3001F, old, 0x50000, some (drawerBase, 5)⟩]
  trunks := demo.trunks.map fun t => { t with st := st }, cycle := cycle }

def demoMove (old : Nat) : PageMove := ⟨0, 0x10000001000000, 0x30000, 0x3000018, 0x3001F, old, 0x50000, some (drawerBase, 5)⟩

theorem witness_PageEvents_move : let s := moving 0x30000 .up 0
    let d := moving drawerBase .down
    (s.pageMoves.find? fun m => m.hart == 0) = some (demoMove 0x30000) ∧ s.pageBlocked (demoMove 0x30000) = none ∧
    (∀ w ∈ s.wq, overlaps (demoMove 0x30000).old 65536 w.pa w.bytes.length = false) ∧ (d 0).pageBlocked (demoMove drawerBase) = some drawerBase ∧
    (demoMove drawerBase).since = some (drawerBase, 5) ∧ 5 + (d 131078).stallthr.toNat < (d 131078).cycle ∧ (d 131077).cycle ≤ 5 + (d 131077).stallthr.toNat ∧
    (∀ m ∈ demo.pageMoves, m.hart ≠ 0) := by decide +kernel

/-- The hart that started an abandoned move may issue, and no hart stands in slot 5. -/
theorem witness_PageEvents_abandon : let q := (moving drawerBase .down 131078).dropMove (demoMove drawerBase)
    Ready q ∧ Issues q 0x86508801 ∧ q.hartAt 5 = none ∧ (∀ h ∈ q.others, h.id ≠ 5) ∧
    ∃ t, exec (.sub 18 16 17) { q with conv := { Convoy.fresh with expired := some (.move 0x30000 0x3000018 0x3001F 0x50000) } } = .next t :=
  ⟨ready_of (by decide +kernel), issues_any (.inr ⟨.move 0x30000 0x3000018 0x3001F 0x50000, 5, rfl⟩) (by decide +kernel), by decide +kernel,
    by decide +kernel, ⟨_, rfl⟩⟩

theorem witness_PageEvents_pending : let p : Pub := ⟨0, 0, 0, 1, [0], 0x30008, 8, 0, none, false, 0⟩
    let s : State := { demo with hotPend := [⟨0, 0x70000, 2, 5⟩], pubs := [p] }
    s.hotPend[0]? = some ⟨0, 0x70000, 2, 5⟩ ∧ (s.pubs.find? fun p => p.hart == 0 && !p.poisoned) = some p ∧
    (s.pubs.find? fun q => q.gang == p.gang && q.hartix == p.hartix && !q.poisoned) = some p ∧ s.wq = [] ∧
    (∀ h ∈ s.hart :: s.others, h.held = []) ∧ s.downTrunk p.pa = none ∧ s.overTrunk p.pa = false ∧ s.ended = [] ∧ s.pageMoves = [] ∧ s.poison = [] := by decide +kernel

/-! The launch front end. -/

/-- A packet for harts at 0x20000 with a completion record at 0x60000, by its hart count and its watermark. -/
def packetOf (h waddr bound : Nat) : Nat :=
  2 ^ 256 * (0x20000 / 64) + 2 ^ 305 * (0x60000 / 64) + 2 ^ 354 * (waddr / 64) + 2 ^ 403 * 100 + 2 ^ 435 * bound + 2 ^ 467 * h

/-- The demo with a packet at the head of queue 0, and a space that the front end translates through. -/
def launched (h waddr bound : Nat) : State := { demo with
  queues := demo.queues.set 0 { Queue.empty with en := true, log2sz := 4, tail := 1, base := 0x50000, rmask := 1 }
  spaces := demo.spaces.set 0 { Space.empty with valid := true }
  tlb := [⟨384, 0, 0, 42, 0x1F, 0, false⟩]
  mem := Memory.setBytes [] 0x50000 (leBytes 64 (packetOf h waddr bound)) }

theorem lfe_at {s : State} {a : BitVec 9} {acc : Acc} {va : Word} {pa : Nat} {leaf : Word}
    (h : s.translate 384 (spaceRoot a (s.spaceAt a)) .u acc false va = .pa pa leaf) : s.lfeAddr a acc va = .at_ pa none := by
  unfold State.lfeAddr
  rw [h]

theorem witness_LaunchEvents_doorbell : let k := (launched 1 0 0).queues[0]
    (launched 1 0 0).mstate ≠ .talk ∧ ((16 : BitVec 32) - k.head).toNat ≤ 2 ^ k.log2sz.toNat ∧ 2 ^ k.log2sz.toNat < ((17 : BitVec 32) - k.head).toNat ∧
    demo.queues[0].en = false ∧ (launched 1 0 0).stalled = [] ∧ (launched 1 0 0).pageMoves = [] ∧
    ∃ o ∈ [Outside.at (some 5) false 1 0x30000 8 []], o.rq = some 5 ∧ o.kind = 1 ∧ o.relaxed = false := by decide +kernel

/-- A valid packet, one that is held for its watermark, and one whose hart count is not legal. -/
theorem witness_LaunchEvents_offer : let s := launched 1 0 0
    let p := fun (s : State) => BitVec.ofNat 512 (Memory.value s.mem 0x50000 64)
    let k := s.queues[0]
    k.en = true ∧ k.tail ≠ k.head ∧ (∀ o ∈ s.offers, o.queue ≠ 0) ∧ k.loc = false ∧ k.base.toNat + 64 * (k.head.toNat % 2 ^ k.log2sz.toNat) = 0x50000 ∧
    s.poisonAt 0x50000 64 = none ∧ s.poisonAt (0x50000 + 38) 7 = none ∧ s.asBad k (p s) = false ∧ pkCrec (p s) = 0x60000 ∧
    s.packetReason k (p s) = 0 ∧ pkWaddr (p s) = 0 ∧ (launched 1 0x70000 5).packetReason k (p (launched 1 0x70000 5)) = 0 ∧
    pkWaddr (p (launched 1 0x70000 5)) = 0x70000 ∧ (launched 0 0 0).packetReason k (p (launched 0 0 0)) = 1 ∧ s.downTrunk 0x60000 = none := by
  decide +kernel

theorem witness_LaunchEvents_addresses : (launched 1 0 0).lfeAddr 0 .write 0x60000 = .at_ 0x60000 none ∧
    (launched 1 0x70000 5).lfeAddr 0 .read 0x70000 = .at_ 0x70000 none :=
  ⟨lfe_at (leaf := 0x1F) (by decide +kernel), lfe_at (leaf := 0x1F) (by decide +kernel)⟩

/-- An offer of queue 0 held for the doubleword at 0x70000, or offered, at a cycle. -/
def offered (h bound n : Nat) (ok : Bool) (cycle : Nat) : State := { launched h 0x70000 bound with
  offers := [⟨0, BitVec.ofNat 512 (packetOf h 0x70000 bound), some 0x70000, 0x60000, none, 0x50000, ok, 0, 0⟩]
  served := some (.queue 0), cycle := cycle
  mem := Memory.setBytes (launched h 0x70000 bound).mem 0x70000 (leBytes 8 n) }

/-- A watermark at its bound and below it; an offer old enough to age; and one candidate, or none. -/
theorem witness_LaunchEvents_serve : let s := offered 1 5 5 false 0
    let t := offered 1 5 5 true 65536
    (s.offers.find? fun o => o.queue == 0 && !o.offered).map (fun o => o.wpa) = some (some 0x70000) ∧ s.downTrunk 0x70000 = none ∧ s.poisonAt 0x70000 8 = none ∧
    (pkBound (BitVec.ofNat 512 (packetOf 1 0x70000 5))).toNat = 5 ∧ Memory.value s.mem 0x70000 8 = 5 ∧ Memory.value (offered 1 5 4 false 0).mem 0x70000 8 = 4 ∧
    (t.offers.map fun o => decide (o.queue = 0 ∧ o.offered = true ∧ o.prio < 6 ∧ o.since + 65536 ≤ t.cycle)) = [true] ∧ t.candidates ≠ [] ∧
    demo.candidates = [] := by decide +kernel

/-- A gang of one hart is placed in slot 1 of core 0, whose groups 1 to 3 are free. -/
theorem witness_LaunchEvents_place : let s := offered 1 0 0 true 0
    s.nextPlaced = some ((.queue 0, 0), true) ∧
    (∃ o, (s.offers.find? fun o => o.queue == 0) = some o ∧ (s.placeGang o [1] true).isSome = true) := by
  intro s
  exact ⟨by decide +kernel, _, rfl, by decide +kernel⟩

/-- A gang that has ended, or was aborted, and whose harts are gone; and one of which the demo hart is no member. -/
theorem witness_LaunchEvents_end : let s := fun (n : Nat) (ab : Bool) => { demo with gangs := [{ gangOfTwo [] [] n ab with id := 7 }] }
    (((s 2 false).gangOf 7).map fun g => decide (g.exited = g.h)) = some true ∧ (((s 0 true).gangOf 7).map fun g => g.aborted) = some true ∧
    (s 2 false).exitDrops = [] ∧ (s 2 false).quiet { gangOfTwo [] [] 2 false with id := 7 } = true ∧ (gangOfTwo [] [] 2 false).crecCow = none ∧
    (s 2 false).downTrunk (gangOfTwo [] [] 2 false).crec = none ∧ (s 2 false).ended = [] ∧ (s 0 false).gangOf 7 ≠ none ∧ (s 0 false).abortedHere = false ∧
    (s 0 false).gangOf ((8 : Word).extractLsb' 0 48) = none ∧ 2 ^ 48 ≤ (0x1000000000000 : Word).toNat := by decide +kernel

/-! Registers of the module. -/

theorem witness_RegisterEvents : demo.mstate ≠ .talk ∧ demo.gangs = [] ∧ ¬16 < ((16 : Word).extractLsb' 0 5).toNat ∧ 16 < ((17 : Word).extractLsb' 0 5).toNat ∧
    demo.serai[3]? = some 0 ∧ sliceCount 113 ∧ ¬sliceCount 114 ∧ demo.change = none ∧ demo.trunks[15].st ≠ .down ∧
    (demo.trunks.map fun (t : Trunk) => { t with st := .down })[15].st = .down ∧ ({ demo with mstate := .talk } : State).mstate = .talk := by
  unfold sliceCount
  decide +kernel

/-- A register offset at each end of what answers nothing, and the first below the mailbox and above its registers in Talk. -/
theorem witness_RegisterEvents_offsets : (∀ off ∈ [0xFFFF8, 0x520000, 2 ^ 44 - 8], off % 8 = 0 ∧ (off < 0x100000 ∨ 0x520000 ≤ off ∧ off < 2 ^ 44)) ∧
    ∀ off ∈ [0x2FFFF8, 0x400000, 2 ^ 44 - 8], off % 8 = 0 ∧ (off + 8 ≤ 0x300000 ∨ 0x400000 ≤ off ∧ off < 2 ^ 44) := by decide

/-- Commands that run, over the demo hart, halted or not, and over no hart. -/
theorem witness_RegisterEvents_mailbox : let s := fun (op : BitVec 8) => { (demoWith fun h => { h with status := .halted }) with
      mbox := { demo.mbox with op := op, busy := true } }
    (∀ op ∈ ([0, 1, 2, 3, 4, 5, 6, 7, 8] : List (BitVec 8)), (s op).mbox.busy = true ∧ (s op).mbox.op = op) ∧ demo.mbox.busy = false ∧
    (s 5).mbox.arg0.toNat < 384 ∧ ((s 5).hartAt (4 * (s 5).mbox.arg0.toNat + (s 5).mbox.arg1.toNat % 4)).map (fun h => h.status) = some .halted ∧
    (demo.hartAt (4 * demo.mbox.arg0.toNat + demo.mbox.arg1.toNat % 4)).map (fun h => h.status) = some .running ∧ demo.hartAt 5 = none ∧
    (s 3).mbox.keys = none ∧ (s 3).mbox.opened = false ∧ (8 : BitVec 8).toNat > 7 := by decide +kernel

/-! Memory and links. -/

theorem witness_MemoryLinkEvents : let w := byteWrite 0x30000 0 .scalar
    let s : State := { demo with wq := [w] }
    let d : State := { demo with wq := [drawerWrite], trunks := demo.trunks.map fun (t : Trunk) => { t with st := .down } }
    s.wq[0]? = some w ∧ s.cacheable w.pa = true ∧ s.reserveUsed (s.homeOf w.pa) + 3 ≤ 64 ∧
    s.canPerform (s.wq.take 0) (s.wq.filter fun w => w.part) w = true ∧ w.perm = none ∧ Memory.wf s.mem = true ∧
    d.canPerform (d.wq.take 0) (d.wq.filter fun w => w.part) drawerWrite = false := by decide +kernel

/-- A slice map that does not change, and one that does, begun or not, over a line that moves. -/
theorem witness_MemoryLinkEvents_map : let r := fun b => (⟨.llcp 113, b, 131, demo.tgActive, [], []⟩ : MapRun)
    let s : State := { demo with change := some (r true), llcp := 113, epoch := 1, sliceReqs := [⟨0, 0x4000, true, 0, .retry⟩] }
    demo.change = none ∧ s.change = some (r true) ∧ ((r false).started = false) ∧ State.sliceOf (r true).oldTiles 131 (s.leafFor 0x4000) 0x4000 ≠ s.homeOf 0x4000 ∧
    State.sliceOf (r true).oldTiles 131 (s.leafFor 0) 0 = s.homeOf 0 ∧ 0x4000 ∉ (r true).handed ∧ (s.sliceReqs[0]?).map (fun q => q.st) = some .retry := by
  decide +kernel

/-- A change whose lines are all handed over, or one of which is not, and a request that had its rehash reply in it. -/
theorem witness_MemoryLinkEvents_handed : let r : MapRun := ⟨.llcp 113, true, 131, demo.tgActive, [0x4000], [(0, 0x4000, true)]⟩
    let s : State := { demo with change := some r, llcp := 113, epoch := 1, tags := [(0x4000, 1), (0, 1)] }
    s.heldLines = [0x4000, 0] ∧ State.sliceOf r.oldTiles 131 (s.leafFor 0x4000) 0x4000 ≠ s.homeOf 0x4000 ∧ 0x4000 ∈ r.handed ∧
    0x4000 ∉ ({ r with handed := [] } : MapRun).handed ∧ (0, 0x4000, true) ∈ r.rehashed ∧ (0, 0, true) ∉ r.rehashed ∧
    s.chunksOf 0x4000 + 3 ≤ 4 ∧ ¬({ s with chunks := [(0x4000, 2)] } : State).chunksOf 0x4000 + 3 ≤ 4 := by decide +kernel

/-- A line that the L2 of every die holds, and one that none holds. -/
theorem witness_MemoryLinkEvents_l2 (pa : Nat) : let s : State := { demo with l2 := (List.range 4).map fun d => (d, lineOf pa) }
    ((Config.cacheDie pa).toNat, lineOf pa) ∈ s.l2 ∧ ((Config.cacheDie pa).toNat, lineOf pa) ∉ demo.l2 :=
  ⟨List.mem_map.mpr ⟨_, List.mem_range.mpr (Config.cacheDie pa).isLt, rfl⟩, List.not_mem_nil⟩

/-- An address of each region that an error names, and one that has no memory. -/
theorem witness_MemoryLinkEvents_errors : let s : State := { demo with dpriv := 0x40000000, serai := demo.serai.set 3 16 }
    (s.configured 0x30000 = true ∧ regionOf 0x30000 = .hbm ∧ s.cacheable 0x30000 = true) ∧
    (s.configured (tcmBase + 0x40000 * 383) = true ∧ regionOf (tcmBase + 0x40000 * 383) = .tcm 383) ∧
    (s.configured (cspBase + 0x400000 * 47) = true ∧ regionOf (cspBase + 0x400000 * 47) = .csp 47) ∧
    (s.configured (seraiBase + 0x10000000 * 3) = true ∧ regionOf (seraiBase + 0x10000000 * 3) = .serai 3) ∧
    (s.configured drawerBase = true ∧ regionOf drawerBase = .drawer ∧ s.cacheable drawerBase = true) ∧ regionOf 0x2000000000000 = .cxl ∧
    s.configured 0x6000000000 = false ∧ s.cacheable (cspBase + 0x400000 * 47) = false := by decide +kernel

/-- Trunks in each state; a swap that waits; and one write, or one read, that the current slot of its trunk carries. -/
theorem witness_MemoryLinkEvents_trunks : let s : State := { demo with swapPend := true, dshr := 0x40000000, wq := [drawerWrite] }
    let f : TrunkReq := ⟨0, 0, 0, drawerBase, false, 0, false, 0⟩
    let k := fun st n => ({ Trunk.trained with st := st, attempts := n } : Trunk)
    s.trunks[15].st = .up ∧ (k .retraining 1).st = .retraining ∧ (k .retraining 1).attempts < 2 ∧ 2 ≤ (k .retraining 2).attempts ∧ (k .down 0).st ≠ .up ∧
    (k .down 0).st ≠ .retraining ∧ s.swapPend = true ∧ demo.swapPend = false ∧ s.wq = [drawerWrite] ∧ regionOf drawerBase = .drawer ∧ trunkOf drawerBase = 0 ∧
    s.needsSlot drawerWrite = true ∧ s.canApply [] ([drawerWrite].filter fun w => w.part) drawerWrite = true ∧
    (tableGet s.slotTab0 0).getD 0 = drawerWrite.route ∧ f.route = drawerWrite.route ∧ 0 < s.trunks[0].fibres ∧ s.trunks[0].slot % 4096 = 0 := by
  decide +kernel

/-- A repeated request, a store to a private line that is not on its way yet, and a publication, each at a trunk that has nothing else. -/
theorem witness_MemoryLinkEvents_slots : let f : TrunkReq := ⟨0, 0, 0, drawerBase, false, 0, false, 0⟩
    let a : State := { demo with trunks := demo.trunks.set 0 { Trunk.trained with again := [f], flying := [(f, 0)] } }
    let p : Pub := ⟨0, 0, 0, 1, [0], drawerBase, 8, 0, none, false, 0⟩
    let s : State := { demo with dshr := 0x40000000, pubs := [p] }
    let d : State := { demo with dpriv := 0x40000000, wq := [drawerWrite] }
    a.trunks[0].again = [f] ∧ a.trunks[0].waiting = [] ∧ a.wq = [] ∧ a.pubs = [] ∧ 0 < a.trunks[0].fibres ∧
    (a.trunks[0].flying.filter fun f => f.2 ≤ a.trunks[0].slot) = [(f, 0)] ∧ a.llc.length + 1 ≤ 4194304 ∧ a.sharedPa f.line = false ∧
    p.poisoned = false ∧ s.wq = [] ∧ s.hart.held = [] ∧ s.others = [] ∧ s.ended = [] ∧ s.overTrunk p.pa = true ∧ s.sharedPa p.pa = true ∧
    trunkOf p.pa = 0 ∧ s.reachesPub p = true ∧ (s.poisonAt p.pa 8).isSome = false ∧ p.route = 0 ∧
    d.needsSlot drawerWrite = true ∧ d.sharedPa drawerBase = false ∧ d.trunks[0].flying = [] ∧ d.pubs = [] := by decide +kernel

/-- Bytes that the host and another module reach, and ones that they do not. -/
theorem witness_MemoryLinkEvents_outside : let s : State := { demo with dshr := 0x40000000 }
    regionOf 0x5FFFFFFFFF ≠ .regs ∧ s.mstate ≠ .talk ∧ s.configured 0x5FFFFFFFFC = true ∧ s.configured (0x5FFFFFFFFC + 4 - 1) = true ∧
    s.configured (0x5FFFFFFFFC + 5 - 1) = false ∧ s.sharedPa drawerBase = true ∧ s.sharedPa (drawerBase + 4 - 1) = true ∧
    s.sharedPa (drawerBase + 0x40000000) = false ∧ s.pageMoves = [] ∧
    s.stalled = [] ∧ regionOf (tcmBase + 8) ≠ .regs ∧ regionOf (tcmBase + 8) = .tcm 0 ∧ drawerBase % 4 = 0 ∧ (drawerBase + 2) % 4 ≠ 0 ∧ (2 ^ 44 - 8) % 8 = 0 := by decide +kernel

/-- A requester's posted write, and its read, that wait at a page being moved. -/
theorem witness_MemoryLinkEvents_behind : let w := Outside.at (some 1) false 1 0x30000 8 []
    let r := Outside.at (some 1) true 0 0x30000 8 []
    let s : State := { demo with stalled := [w, r], pageMoves := [⟨4, 0, 0x30000, 0x1000, 0x30007, 0x30000, 0x40000, none⟩] }
    (∃ o ∈ s.stalled, o.rq = some 1 ∧ o.kind = 1 ∧ o.relaxed = false) ∧ (∃ o ∈ s.stalled, o.rq = some 1 ∧ o.kind = 0) ∧
    (∀ o ∈ s.stalled, o.rq ≠ some 2) ∧ (∀ m ∈ s.pageMoves, m.old + 65536 ≤ regsBase) ∧ s.mstate ≠ .talk ∧
    (∃ m ∈ s.pageMoves, m.old ≤ 0x30000 + 8 ∧ 0x30000 + 8 < m.old + 65536) := by decide +kernel

/-! The renumbering unit. -/

/-- The demo's set with its page mapped for the unit, in a state of its reorder and with moves. -/
def reordering (r : Reorder) (ms : List Move) (f : Machine.PSet → Machine.PSet) : State :=
  { withSet (f { freeSet with reorder := r, moves := ms }) id with tlb := [⟨0, 0, 0, 42, 0x1F, 0, false⟩, ⟨384, 0, 0, 42, 0x1F, 0, false⟩] }

/-- Numbering whose ranges are mapped and sound, unmapped, poisoned, or held by a page move; and no such set. -/
theorem witness_RenumberingEvents : let s := reordering .numbering [] id
    let k := { freeSet with reorder := .numbering }
    let held : State := { s with tlb := [⟨384, 0, 0, 42, 0x9F, 0, false⟩] }
    demo.setOf 0x80000 = none ∧ s.setOf 0x80000 = some k ∧ lowestFault (s.rangeTrans k (k.ranges true)) = none ∧
    awaitsPage (s.rangeTrans k (k.ranges true)) = false ∧ s.rangePoison k k.fwd (4 * k.n) = false ∧
    s.rangePoison k k.inv (4 * (k.n + k.staging)) = false ∧ s.rangePoison k k.sketch (32 * k.n) = false ∧
    lowestFault ((withSet k id).rangeTrans k (k.ranges true)) ≠ none ∧ lowestFault (held.rangeTrans k (k.ranges true)) = none ∧
    awaitsPage (held.rangeTrans k (k.ranges true)) = true ∧
    ({ s with poison := [(0x90000, 32, .home)] } : State).rangePoison k k.fwd (4 * k.n) = true := by decide +kernel

/-- Imported tables of four entries: a permutation, one with an entry out of range, and one with an entry twice. -/
theorem witness_RenumberingEvents_import : let s := fun (es : List Nat) => { reordering (.importing 0x30000 0) [] id with
      mem := Memory.setBytes [] 0x30000 (es.flatMap (leBytes 4)) }
    let k := { freeSet with reorder := .importing 0x30000 0 }
    let own := { k with space := 0 }
    let target := fun es l => (s es).rnuEntry own 0x30000 l
    let pages := (s [1, 0, 3, 2]).rangeTrans k (k.ranges false) ++ (s [1, 0, 3, 2]).rangeTrans own [(.read, 0x30000, 4 * k.n)]
    (s []).setOf 0x80000 = some k ∧ lowestFault pages = none ∧ awaitsPage pages = false ∧
    ((List.range 4).map (target [1, 0, 3, 2]) = [1, 0, 3, 2]) ∧ ((List.range 4).map (target [1, 4, 3, 2]) = [1, 4, 3, 2]) ∧
    ((List.range 4).map (target [1, 0, 1, 2]) = [1, 0, 1, 2]) := by decide +kernel

/-- A path to move first, then a cycle that takes the first staging row, while a move forwards out of the second one. -/
theorem witness_RenumberingEvents_plan : let plan : List (List (Nat × Nat × Nat)) := [[(0, 0, 3)], [(1, 1, 6), (2, 2, 1), (1, 6, 2)]]
    let m : Move := ⟨0, 3, 5, 3, .forwarding, [], 1, [], none⟩
    let k := { freeSet with reorder := .moving 1 plan, moves := [m] }
    let unused := fun (r : Nat) => (∀ m ∈ k.moves, m.src ≠ r ∧ (m.dst = r → m.st = .forwarding)) ∧ ∀ p ∈ plan, ∀ m ∈ p, m.2.1 ≠ r ∧ m.2.2 ≠ r
    plan[0]? = some [(0, 0, 3)] ∧ plan[1]? = some ((1, 1, 6) :: [(2, 2, 1), (1, 6, 2)]) ∧ (k.n + k.staging = 6) ∧ k.n ≤ 4 ∧ unused 4 ∧ ¬unused 5 ∧
    (∀ q ∈ k.moves, q.cyc = 1 → q.st = .forwarding) ∧ (∀ q ∈ k.moves, q.src ≠ 4) ∧ ∃ q ∈ k.moves, q.src = 5 := by decide

/-- An uncommitted move in each of its states, with few and with many dirty segments, and with tables that can be written. -/
theorem witness_RenumberingEvents_move : let m := fun (st : MoveState) (dirty : List Nat) => (⟨0, 1, 1, 4, st, dirty, 0, [], none⟩ : Move)
    let s := fun (st : MoveState) (dirty : List Nat) => { walked 0x3001F 0 0 id with
      tlb := [⟨384, 0, 0, 42, 0x1F, 0, false⟩]
      sets := [{ freeSet with space := 0x1000000, base := 0x30000, reorder := .moving 1 [[(1, 1, 4)]], moves := [m st dirty] }] }
    let k := fun (st : MoveState) (dirty : List Nat) => { freeSet with space := 0x1000000, base := 0x30000, reorder := .moving 1 [[(1, 1, 4)]], moves := [m st dirty] }
    let l := s .locked []
    (∀ st ∈ [MoveState.copying, .recopy 1, .recopy 8, .locked], (s st []).setOf 0x80000 = some (k st []) ∧ (k st []).activeMove 0 = some (m st []) ∧
      (s st []).rowWaits (k st []) (m st []) = false) ∧ 4 < ([0, 1, 2, 3, 4] : List Nat).eraseDups.length ∧
    l.entryPoison (k .locked []) freeSet.fwd 1 = false ∧ l.entryPoison (k .locked []) freeSet.inv 4 = false ∧
    l.entryPoison (k .locked []) freeSet.inv 1 = false ∧ l.downTrunk (0x80000 + 0x28) = none ∧
    ((((l.ownRow (k .locked []) 4).setEntry4 (k .locked []) freeSet.fwd 1 4).bind fun t => (t.setEntry4 (k .locked []) freeSet.inv 4 1).bind fun t =>
      t.setEntry4 (k .locked []) freeSet.inv 1 0xFFFFFFFF).isSome = true) ∧
    ({ l with poison := [(0x90000, 32, .home)] } : State).entryPoison (k .locked []) freeSet.fwd 1 = true := by decide +kernel

/-- A move whose rows lie in the drawer while its trunks are down, at the stall threshold and below it. -/
theorem witness_RenumberingEvents_blocked : let k := { freeSet with space := 0x1000000, base := 0x30000, moves := [⟨0, 1, 1, 4, .copying, [], 0, [], some 5⟩] }
    let s := fun (n : Nat) => { walked (drawerBase + 0x1F) 0 0 id with
      dpriv := 0x40000000, trunks := demo.trunks.map fun (t : Trunk) => { t with st := .down }, cycle := n, sets := [k] }
    (s 0).rowWaits k ⟨0, 1, 1, 4, .copying, [], 0, [], some 5⟩ = true ∧ (s 0).rowBlocked k ⟨0, 1, 1, 4, .copying, [], 0, [], some 5⟩ = true ∧
    5 + (s 131078).stallthr.toNat < (s 131078).cycle ∧ ¬5 + (s 131077).stallthr.toNat < (s 131077).cycle := by decide +kernel

/-- Rows in shared memory; a record on a page that is being moved; and a write on its way to the old row of a committed move. -/
theorem witness_RenumberingEvents_waits : let k := { freeSet with space := 0x1000000, base := 0x30000, reorder := .numbering }
    let far : State := { walked (drawerBase + 0x1F) 0 0 id with sets := [k], dshr := 0x40000000 }
    let held : State := { demo with tlb := [⟨384, 0, 0, 42, 0x9F, 0, false⟩] }
    let m : Move := ⟨0, 1, 1, 4, .forwarding, [], 1, [], none⟩
    let s := { reordering .none [m] id with wq := [{ byteWrite 0x100040 0 .vector with perm := some (0x80000, 1, 1, 0) }] }
    far.rowsMisplaced k = true ∧ (demo.rowsMisplaced freeSet = false) ∧ held.recordWaits freeSet 0 = true ∧
    (reordering .none [] id).recordWaits freeSet 0 = false ∧ (s.moveAt 0x80000 1 1).isSome = true := by decide +kernel

/-- A forwarding move whose row no queued write names; a list that the sketch takes in; and records with a place for a link or none. -/
theorem witness_RenumberingEvents_sketch : let m : Move := ⟨0, 1, 1, 4, .forwarding, [], 1, [], none⟩
    let s : State := { reordering .none [m] id with samples := oneSample }
    let holds := fun (r : Rec) (b j : Nat) => 0 < r.cnts[j]?.getD 0 ∧ r.ids[j]?.getD 0 = b
    (s.setOf 0x80000).map (fun k => k.moves) = some [m] ∧ s.wq = [] ∧ s.samples[0]? = some ⟨0, 0, 1, freeSet, [0, 1]⟩ ∧
    holds ⟨1, 0, [5, 6, 7, 8], [2, 1, 0, 3]⟩ 6 1 ∧ (∀ j, j < 4 → ¬holds ⟨1, 0, [5, 6, 7, 8], [2, 1, 0, 3]⟩ 9 j) ∧ ([2, 1, 0, 3] : List Nat)[2]?.getD 0 = 0 ∧
    ([2, 1, 1, 3] : List Nat)[1]?.getD 0 = 1 ∧ (∀ j, j < 4 → ([2, 2, 4, 3] : List Nat)[j]?.getD 0 ≠ 1 ∧ ([2, 2, 4, 3] : List Nat)[j]?.getD 0 ≠ 0) := by
  decide +kernel

/-- Each state of the module that a clause names. -/
theorem witness_ModuleEvents : State.reset.mstate = .boot ∧ demo.mstate = .run ∧ demo.mstate ≠ .boot ∧ demo.mstate ≠ .selftest ∧
    ({ demo with mstate := .selftest } : State).mstate = .selftest := by decide +kernel

end Sys2Proof.Tests
end

/-! Scalar arithmetic: the words that the operations of MAJ 1, 2 and 3 give, as arithmetic on their operands (R116 to R118). -/

namespace Sys2Proof.Scalar

open Sys2Proof.Machine Sys2Proof.Laws

/-! ### Shifts and rotations -/

theorem shiftLeft_value (x : Word) (n : Nat) : x <<< n = BitVec.ofNat 64 (x.toNat * 2 ^ n) :=
  BitVec.eq_of_toNat_eq (by simp [Nat.shiftLeft_eq])

theorem shiftRight_value (x : Word) (n : Nat) : x >>> n = BitVec.ofNat 64 (x.toNat / 2 ^ n) := by
  apply BitVec.eq_of_toNat_eq
  have : x.toNat / 2 ^ n < 2 ^ 64 := lt_of_le_of_lt (Nat.div_le_self _ _) x.isLt
  rw [BitVec.toNat_ushiftRight, Nat.shiftRight_eq_div_pow, BitVec.toNat_ofNat, Nat.mod_eq_of_lt this]

theorem sshiftRight_value (x : Word) (n : Nat) : x.sshiftRight n = BitVec.ofInt 64 (x.toInt / 2 ^ n) := by
  rw [BitVec.sshiftRight_eq, Int.shiftRight_eq_div_pow, Int.natCast_pow]
  rfl

theorem amount_eq (y : Word) : amount y = y.toNat % 64 := BitVec.toNat_setWidth _ _

theorem rotateLeft_value (x y : Word) : x.rotateLeft (amount y) =
    BitVec.ofNat 64 (x.toNat * 2 ^ (y.toNat % 64)) ||| BitVec.ofNat 64 (x.toNat / 2 ^ (64 - y.toNat % 64)) := by
  rw [BitVec.rotateLeft_def, amount_eq, Nat.mod_mod, shiftLeft_value, shiftRight_value]

theorem rotateRight_value (x y : Word) : x.rotateRight (amount y) =
    BitVec.ofNat 64 (x.toNat / 2 ^ (y.toNat % 64)) ||| BitVec.ofNat 64 (x.toNat * 2 ^ (64 - y.toNat % 64)) := by
  rw [BitVec.rotateRight_def, amount_eq, Nat.mod_mod, shiftLeft_value, shiftRight_value]

/-! ### Comparisons -/

theorem bit_slt (x y : Word) : bit (x.slt y) = if x.toInt < y.toInt then 1 else 0 := by
  simp only [bit, BitVec.slt_iff_toInt_lt]

theorem bit_ult (x y : Word) : bit (x.ult y) = if x.toNat < y.toNat then 1 else 0 := by
  simp only [bit, BitVec.ult_iff_toNat_lt]

theorem minS_value (x y : Word) : (if x.slt y then x else y) = BitVec.ofInt 64 (min x.toInt y.toInt) := by
  rw [min_def_lt, apply_ite (BitVec.ofInt 64), BitVec.ofInt_toInt, BitVec.ofInt_toInt]
  simp only [BitVec.slt_iff_toInt_lt]

theorem maxS_value (x y : Word) : (if x.slt y then y else x) = BitVec.ofInt 64 (max x.toInt y.toInt) := by
  rw [max_def_lt, apply_ite (BitVec.ofInt 64), BitVec.ofInt_toInt, BitVec.ofInt_toInt]
  simp only [BitVec.slt_iff_toInt_lt]

theorem minU_value (x y : Word) : (if x.ult y then x else y) = BitVec.ofNat 64 (min x.toNat y.toNat) := by
  rw [min_def_lt, apply_ite (BitVec.ofNat 64), BitVec.ofNat_toNat, BitVec.ofNat_toNat, BitVec.setWidth_eq, BitVec.setWidth_eq]
  simp only [BitVec.ult_iff_toNat_lt]

theorem maxU_value (x y : Word) : (if x.ult y then y else x) = BitVec.ofNat 64 (max x.toNat y.toNat) := by
  rw [max_def_lt, apply_ite (BitVec.ofNat 64), BitVec.ofNat_toNat, BitVec.ofNat_toNat, BitVec.setWidth_eq, BitVec.setWidth_eq]
  simp only [BitVec.ult_iff_toNat_lt]

/-! ### Products, quotients and remainders -/

theorem mul_value (x y : Word) : x * y = BitVec.ofNat 64 (x.toNat * y.toNat) :=
  BitVec.eq_of_toNat_eq (by simp)

/-- The upper half of a 128-bit word, by the word's signed value. -/
theorem upper_signed (z : BitVec 128) : z.extractLsb' 64 64 = BitVec.ofInt 64 (z.toInt / 2 ^ 64) := by
  have hz := z.isLt
  apply BitVec.eq_of_toNat_eq
  rw [BitVec.extractLsb'_toNat, Nat.shiftRight_eq_div_pow, BitVec.toNat_ofInt, BitVec.toInt_eq_toNat_cond]
  split <;> omega

theorem mulHighS_value (x y : Word) : mulHighS x y = BitVec.ofInt 64 (x.toInt * y.toInt / 2 ^ 64) := by
  have hx := x.le_toInt
  have hx' := x.toInt_lt
  have hy := y.le_toInt
  have hy' := y.toInt_lt
  have bound : |x.toInt * y.toInt| ≤ 2 ^ 63 * 2 ^ 63 := by
    rw [abs_mul]
    exact mul_le_mul (abs_le.2 ⟨hx, hx'.le⟩) (abs_le.2 ⟨hy, hy'.le⟩) (abs_nonneg _) (by norm_num)
  obtain ⟨lo, hi⟩ := abs_le.1 bound
  have exact_ : (x.signExtend 128 * y.signExtend 128).toInt = x.toInt * y.toInt := by
    rw [BitVec.toInt_mul, BitVec.toInt_signExtend_of_le (by norm_num), BitVec.toInt_signExtend_of_le (by norm_num)]
    exact Int.bmod_eq_of_le (by norm_num at lo ⊢; omega) (by norm_num at hi ⊢; omega)
  rw [mulHighS, upper_signed, exact_]

theorem mulHighU_value (x y : Word) : mulHighU x y = BitVec.ofNat 64 (x.toNat * y.toNat / 2 ^ 64) := by
  have hx := x.isLt
  have hy := y.isLt
  have bound : x.toNat * y.toNat < 2 ^ 64 * 2 ^ 64 := Nat.mul_lt_mul'' hx hy
  apply BitVec.eq_of_toNat_eq
  rw [mulHighU, BitVec.extractLsb'_toNat, BitVec.toNat_mul, BitVec.toNat_setWidth_of_le (by norm_num), BitVec.toNat_setWidth_of_le (by norm_num),
    Nat.mod_eq_of_lt (show _ < 2 ^ 128 from bound), Nat.shiftRight_eq_div_pow, BitVec.toNat_ofNat]

theorem divS_value (x y : Word) : divS x y = if y = 0 then BitVec.allOnes 64 else BitVec.ofInt 64 (x.toInt.tdiv y.toInt) := by
  have : x.sdiv y = BitVec.ofInt 64 (x.toInt.tdiv y.toInt) :=
    BitVec.eq_of_toInt_eq (by rw [BitVec.toInt_sdiv, BitVec.toInt_ofInt])
  rw [divS, this]

theorem divU_value (x y : Word) : divU x y = if y = 0 then BitVec.allOnes 64 else BitVec.ofNat 64 (x.toNat / y.toNat) := by
  have : x / y = BitVec.ofNat 64 (x.toNat / y.toNat) := by rw [← BitVec.toNat_udiv, BitVec.ofNat_toNat, BitVec.setWidth_eq]
  rw [divU, this]

theorem remS_value (x y : Word) : remS x y = if y = 0 then x else BitVec.ofInt 64 (x.toInt.tmod y.toInt) := by
  rw [remS, ← BitVec.toInt_srem, BitVec.ofInt_toInt]

theorem remU_value (x y : Word) : remU x y = if y = 0 then x else BitVec.ofNat 64 (x.toNat % y.toNat) := by
  rw [remU, ← BitVec.toNat_umod, BitVec.ofNat_toNat, BitVec.setWidth_eq]

/-! ### Bits counted -/

/-- The leading bit of a word other than 0 stands at the integer part of its logarithm. -/
theorem leadingZeros_value (x : Word) : leadingZeros x = BitVec.ofNat 64 (if x = 0 then 64 else 63 - x.toNat.log2) := by
  unfold leadingZeros
  congr 1
  by_cases hx : x = 0
  · subst hx
    rw [if_pos rfl, List.find?_eq_none.2 (by simp)]
    rfl
  · have h0 : x.toNat ≠ 0 := fun h => hx (BitVec.eq_of_toNat_eq h)
    have hl : x.toNat.log2 < 64 := (Nat.log2_lt h0).2 x.isLt
    have top : (List.range 64).find? (fun k => x.getLsbD (63 - k)) = some (63 - x.toNat.log2) := by
      rw [List.find?_range_eq_some]
      refine ⟨?_, List.mem_range.2 (by omega), fun j hj => ?_⟩
      · rw [show 63 - (63 - x.toNat.log2) = x.toNat.log2 by omega]
        exact Nat.testBit_log2 h0
      · have : x.toNat.testBit (63 - j) = false := Nat.testBit_lt_two_pow ((Nat.log2_lt h0).1 (by omega))
        simpa [BitVec.getLsbD] using this
    rw [if_neg hx, top]
    rfl

theorem trailingZeros_value (x : Word) (k : Nat) (hk : k ≤ 64) (low : ∀ j, j < k → x.getLsbD j = false)
    (one : k < 64 → x.getLsbD k = true) : trailingZeros x = BitVec.ofNat 64 k := by
  unfold trailingZeros
  congr 1
  by_cases h : k < 64
  · have : (List.range 64).find? (fun k => x.getLsbD k) = some k :=
      List.find?_range_eq_some.2 ⟨one h, List.mem_range.2 h, fun j hj => by simp [low j hj]⟩
    rw [this]
    rfl
  · obtain rfl : k = 64 := by omega
    rw [List.find?_eq_none.2 fun j hj => by simp [low j (List.mem_range.1 hj)]]
    rfl

/-! ### Immediates -/

theorem imm_toInt (i : BitVec 13) : (imm i).toInt = i.toInt := BitVec.toInt_signExtend_of_le (by norm_num)

theorem zext_low_word (x : Word) : (x.setWidth 32).setWidth 64 = BitVec.ofNat 64 (x.toNat % 2 ^ 32) :=
  BitVec.eq_of_toNat_eq (by simp)

theorem movh_value (c : BitVec 20) : c.signExtend 64 <<< 12 = BitVec.ofInt 64 (c.toInt * 4096) := by
  rw [BitVec.ofInt_mul, BitVec.shiftLeft_eq_mul_twoPow]
  rfl

/-! ### Words that write one scalar register -/

/-- An instruction that writes one register from the state does so with the value that the state gives. -/
theorem gives_value {s : State} {i : Instr} {d : BitVec 5} {f : State → Word} {v : Word} (hs : Ready s)
    (meaning : Machine.exec i s = s.result d f) (value : f s = v) : Machine.exec i s = completes s (s.setX d v) := by
  rw [meaning, result_ok s d f hs, value]

/-- Settles O7: each form is `State.result` of a word, and the lemmas above say which word it is. -/
theorem scalarResults : Obligations.ScalarResults := by
  unfold Obligations.ScalarResults
  refine ⟨?_, ?_⟩
  · intro s d a b hs
    refine ⟨gives_value hs exec_add rfl, gives_value hs exec_sub rfl, gives_value hs exec_and rfl, gives_value hs exec_or rfl,
      gives_value hs exec_xor rfl, gives_value hs exec_andn rfl, gives_value hs exec_orn rfl,
      gives_value hs exec_sll ?_, gives_value hs exec_srl ?_, gives_value hs exec_sra ?_,
      gives_value hs exec_rotl (rotateLeft_value _ _), gives_value hs exec_rotr (rotateRight_value _ _),
      gives_value hs exec_slt (bit_slt _ _), gives_value hs exec_sltu (bit_ult _ _),
      gives_value hs exec_min (minS_value _ _), gives_value hs exec_max (maxS_value _ _),
      gives_value hs exec_minu (minU_value _ _), gives_value hs exec_maxu (maxU_value _ _),
      gives_value hs exec_mul (mul_value _ _), gives_value hs exec_mulh (mulHighS_value _ _), gives_value hs exec_mulhu (mulHighU_value _ _),
      gives_value hs exec_div (divS_value _ _), gives_value hs exec_divu (divU_value _ _),
      gives_value hs exec_rem (remS_value _ _), gives_value hs exec_remu (remU_value _ _),
      gives_value hs exec_clz (leadingZeros_value _), gives_value hs exec_popc rfl,
      gives_value hs exec_sextb rfl, gives_value hs exec_sexth rfl, gives_value hs exec_sextw rfl,
      gives_value hs exec_zextw (zext_low_word _), fun k hk low one => gives_value hs exec_ctz (trailingZeros_value _ k hk low one)⟩
    · rw [shiftLeft_value, amount_eq]
    · rw [shiftRight_value, amount_eq]
    · rw [sshiftRight_value, amount_eq]
  · intro s d a i c n hs
    exact ⟨gives_value hs exec_addi rfl, gives_value hs exec_andi rfl, gives_value hs exec_ori (by rw [BitVec.ofNat_toNat]),
      gives_value hs exec_xori rfl, gives_value hs exec_slti (by rw [bit_slt, imm_toInt]), gives_value hs exec_sltiu (bit_ult _ _),
      gives_value hs exec_muli rfl, gives_value hs exec_slli (shiftLeft_value _ _), gives_value hs exec_srli (shiftRight_value _ _),
      gives_value hs exec_srai (sshiftRight_value _ _), gives_value hs exec_movi rfl, gives_value hs exec_movh (movh_value _)⟩

end Sys2Proof.Scalar

/-! Branches and jumps (R87, R119, R120). -/

namespace Sys2Proof.Scalar

open Sys2Proof.Machine Sys2Proof.Laws

/-! ### What a ready hart's convoy holds -/

theorem ready_undo {s : State} (hs : Ready s) : s.conv.undo = [] := ready_conv hs (fun c => c.undo = []) fun _ => rfl

theorem ready_pend {s : State} (hs : Ready s) : s.conv.pend = [] := ready_conv hs (fun c => c.pend = []) fun _ => rfl

theorem ready_hot {s : State} (hs : Ready s) : s.conv.hot = [] := ready_conv hs (fun c => c.hot = []) fun _ => rfl

theorem ready_fx {s : State} (hs : Ready s) : s.conv.fx = 0 := ready_conv hs (fun c => c.fx = 0) fun _ => rfl

theorem ready_pins {s : State} (hs : Ready s) : s.conv.pins = none := ready_conv hs (fun c => c.pins = none) fun _ => rfl

/-- The word that a ready hart executes stands at its pc. -/
theorem ready_wordPc {s : State} (hs : Ready s) : s.wordPc = s.hart.pc := by
  have : s.conv.idx = 0 := ready_conv hs (fun c => c.idx = 0) fun _ => rfl
  rw [State.wordPc, this]
  exact BitVec.add_zero _

/-- A word that changes registers only, and may name where the hart continues. -/
theorem word_continues {s : State} {f : State → Res} {h : Hart} {npc : Option Word} (hs : Ready s)
    (hf : f s = .ok { s with hart := h, conv := { s.conv with npc := npc } })
    (rew : h.rewEn = s.hart.rewEn) (held : h.held = s.hart.held) (res : h.resume = s.hart.resume) :
    s.word f = .next { s with hart := leave s.hart h (npc.getD (h.pc + 4)) 0, conv := Convoy.fresh } := by
  have plain : Plain { s.conv with npc := npc } := by
    obtain ⟨len, pend, tiles, vers, samples, pubs, after, cont, final⟩ := ready_plain hs
    exact ⟨len, pend, tiles, vers, samples, pubs, after, cont, final⟩
  rw [word_ok s _ f hs hf plain (rew.trans hs.straight) (by rw [held]; exact hs.quiet) (res.trans hs.whole)]
  simp only [ready_pend hs, ready_hot hs, ready_fx hs, List.append_nil]
  rfl

/-! ### Targets -/

/-- An offset in words, as the bytes that it adds to the address of its word (R87). -/
theorem wordOffset_value {n : Nat} (o : BitVec n) : o.signExtend 64 <<< 2 = BitVec.ofInt 64 (4 * o.toInt) := by
  rw [Int.mul_comm, BitVec.ofInt_mul, BitVec.shiftLeft_eq_mul_twoPow]
  rfl

/-- The two lowest bits of an address say whether it is word-aligned. -/
theorem low_bits_ne_zero (t : Word) : t.extractLsb' 0 2 ≠ 0 ↔ t.toNat % 4 ≠ 0 := by
  rw [ne_eq, ← BitVec.toNat_inj, BitVec.extractLsb'_toNat]
  rfl

/-- A word offset keeps the alignment of the address it is added to. -/
theorem wordOffset_aligned (p : Word) (k : Int) : (p + BitVec.ofInt 64 (4 * k)).toNat % 4 = p.toNat % 4 := by
  rw [BitVec.toNat_add, BitVec.toNat_ofInt]
  omega

/-! ### Branches and jumps -/

/-- A branch goes to its target where its condition holds, and else to the next convoy, and changes nothing else (R87, R119). -/
theorem branch_goes {s : State} {i : Instr} {cond : State → Bool} {o : BitVec 13} {c : Prop} (hs : Ready s)
    (meaning : Machine.exec i s = s.branch cond o) (holds : cond s = true ↔ c) :
    ∃ pc, (c → pc = s.hart.pc + BitVec.ofInt 64 (4 * o.toInt)) ∧ (¬c → pc = s.hart.pc + 4) ∧
      Machine.exec i s = .next { s with hart := leave s.hart s.hart pc 0, conv := Convoy.fresh } := by
  rw [← holds, meaning]
  refine ⟨Option.getD (if cond s then some _ else none) _, fun h => by rw [if_pos h]; rfl, fun h => by rw [if_neg h]; rfl, ?_⟩
  refine word_continues (h := s.hart) hs ?_ rfl rfl rfl
  split
  · rw [ready_wordPc hs, wordOffset_value]
    rfl
  · rw [← ready_npc hs]

/-- A jump to a word-aligned target writes the link and continues there (R120). -/
theorem jump_lands {s : State} {i : Instr} {d : BitVec 5} {target : State → Word} {t : Word} (hs : Ready s)
    (meaning : Machine.exec i s = s.jump d target) (at_ : target s = t) (aligned : t.toNat % 4 = 0) :
    Machine.exec i s = .next { s.setX d (s.hart.pc + 4) with
      hart := leave s.hart (s.setX d (s.hart.pc + 4)).hart t 0
      conv := Convoy.fresh } := by
  rw [meaning]
  refine word_continues (h := s.hart.setReg d (s.hart.pc + 4)) (npc := some t) hs ?_ (by simp) (by simp) (by simp)
  simp only [at_]
  rw [if_neg fun h => (low_bits_ne_zero t).1 h aligned, ready_wordPc hs]
  rfl

/-- A jump to a target that is not word-aligned is a misaligned fetch, and writes no link (R120). -/
theorem jump_traps {s : State} {i : Instr} {d : BitVec 5} {target : State → Word} {t : Word} (hs : Ready s)
    (meaning : Machine.exec i s = s.jump d target) (at_ : target s = t) (misaligned : t.toNat % 4 ≠ 0) :
    Machine.exec i s = traps s (Trap.plain 0x04 t) := by
  rw [meaning]
  refine word_trap s _ _ hs ?_
  simp only [at_]
  exact if_pos ((low_bits_ne_zero t).2 misaligned)

/-- Settles O9: the conditions of the branches as comparisons of numbers, and the targets of the jumps. -/
theorem branchesAndJumps : Obligations.BranchesAndJumps := by
  unfold Obligations.BranchesAndJumps
  refine ⟨?_, ?_⟩
  · intro s a b o hs
    exact ⟨branch_goes hs exec_beq beq_iff_eq, branch_goes hs exec_bne bne_iff_ne,
      branch_goes hs exec_blt BitVec.slt_iff_toInt_lt,
      branch_goes hs exec_bge (by rw [Bool.not_eq_true', ← Bool.not_eq_true, BitVec.slt_iff_toInt_lt, Int.not_lt]),
      branch_goes hs exec_bltu BitVec.ult_iff_toNat_lt,
      branch_goes hs exec_bgeu (by rw [Bool.not_eq_true', ← Bool.not_eq_true, BitVec.ult_iff_toNat_lt, Nat.not_lt])⟩
  · intro s d a o i hs
    have target : s.wordPc + (o.signExtend 64 <<< 2) = s.hart.pc + BitVec.ofInt 64 (4 * o.toInt) := by
      rw [ready_wordPc hs, wordOffset_value]
    have same := wordOffset_aligned s.hart.pc o.toInt
    exact ⟨fun h => jump_lands hs exec_jal target (same.trans h), fun h => jump_lands hs exec_jalr rfl h,
      fun h => jump_traps hs exec_jal target (same ▸ h), fun h => jump_traps hs exec_jalr rfl h⟩

end Sys2Proof.Scalar

/-! The CSR instructions (R133, R134) and the enabling of REWIND (R381, R383). -/

namespace Sys2Proof.Scalar

open Sys2Proof.Machine Sys2Proof.Laws

/-! ### What a CSR write leaves unchanged -/

/-- A CSR write leaves the convoy and what a retirement needs of the hart as they are; REWIND alone holds the enable of REWIND. -/
structure CsrFrame (s t : State) (c : BitVec 12) : Prop where
  conv : t.conv = s.conv
  pc : t.hart.pc = s.hart.pc
  held : t.hart.held = s.hart.held
  resume : t.hart.resume = s.hart.resume
  rewEn : c ≠ 0x832 → t.hart.rewEn = s.hart.rewEn

theorem setCsr_frame (s : State) (c : BitVec 12) (w : Word) : CsrFrame s (s.setCsr c w) c := by
  unfold State.setCsr
  split
  -- the 39th arm is REWIND
  case h_39 h => exact ⟨rfl, rfl, rfl, rfl, fun n => absurd (BitVec.eq_of_toNat_eq h) n⟩
  all_goals exact ⟨rfl, rfl, rfl, rfl, fun _ => rfl⟩

theorem setCsr_rewind (s : State) (w : Word) :
    s.setCsr 0x832 w = { s with hart := { s.hart with rewEn := w.getLsbD 0, rewLimit := w.extractLsb' 1 3 } } := rfl

theorem csr_rewind (s : State) : s.csr 0x832 = some s.hart.rewindCsr := rfl

/-- A write of a CSR of a hart with REWIND off leaves it off, unless it sets REWIND.EN. -/
theorem setCsr_rewEn {s : State} (hs : Ready s) {c : BitVec 12} {w : Word} (h : c ≠ 0x832 ∨ w.getLsbD 0 = false) :
    (s.setCsr c w).hart.rewEn = s.hart.rewEn := by
  by_cases hc : c = 0x832
  · subst hc
    rw [setCsr_rewind, hs.straight]
    exact h.resolve_left (not_not_intro rfl)
  · exact (setCsr_frame s c w).rewEn hc

/-! ### The answers of a CSR instruction -/

/-- That a convoy is a commit point leaves it plain. -/
theorem Plain.committed {c : Convoy} (h : Plain c) : Plain { c with commit := true } :=
  ⟨h.len, h.pend, h.tiles, h.vers, h.samples, h.pubs, h.after, h.cont, h.final⟩

/-- A commit point that changes registers only completes as any other word does. -/
theorem word_committed {s t : State} {f : State → Res} (hs : Ready s) (hf : f s = .ok t.commit) (conv : t.conv = s.conv)
    (pc : t.hart.pc = s.hart.pc) (rew : t.hart.rewEn = s.hart.rewEn) (held : t.hart.held = s.hart.held)
    (res : t.hart.resume = s.hart.resume) : s.word f = completes s t := by
  have plain : Plain t.conv := conv ▸ ready_plain hs
  have npc : t.conv.npc = none := conv ▸ ready_npc hs
  rw [word_done s t.commit f hs hf (Plain.committed plain) npc pc rew held res]
  rfl

section
variable {s : State} {d : BitVec 5} {c : BitVec 12} {new : Option (Word → Word)} {old : Word}

/-- A number that is not assigned (R134). -/
theorem csrOp_unassigned (hs : Ready s) (h : s.csr c = none) : s.csrOp d c new = traps s { s.illegal with commit := true } := by
  refine word_trap s _ _ hs ?_
  simp only [h, Res.committing]

/-- A write to a read-only CSR, or to a number that is not assigned (R134). -/
theorem csrOp_readOnly (hs : Ready s) (writes : new.isSome = true) (ro : c.getLsbD 10 = true) :
    s.csrOp d c new = traps s { s.illegal with commit := true } := by
  cases h : s.csr c with
  | none => exact csrOp_unassigned hs h
  | some old =>
    refine word_trap s _ _ hs ?_
    simp only [h, writes, ro, Bool.and_true, if_true, Res.committing]

/-- The system range at privilege U (R134). -/
theorem csrOp_denied (hs : Ready s) (h : s.csr c = some old) (legal : new = none ∨ c.getLsbD 10 = false)
    (sys : 0x800 ≤ c.toNat ∧ s.hart.priv = .u) : s.csrOp d c new = traps s { s.denied with commit := true } := by
  have ok : (new.isSome && c.getLsbD 10) = false := by
    rcases legal with rfl | ro
    · rfl
    · rw [ro, Bool.and_false]
  refine word_trap s _ _ hs ?_
  simp only [h, ok, Bool.false_eq_true, if_false, if_pos sys, Res.committing]

/-- A read alone (R133). -/
theorem csrOp_reads (hs : Ready s) (h : s.csr c = some old) (sys : ¬(0x800 ≤ c.toNat ∧ s.hart.priv = .u)) :
    s.csrOp d c none = completes s (s.setX d old) := by
  refine word_committed hs ?_ (setX_conv s d old) (setReg_pc _ _ _) (setReg_rewEn _ _ _) (setReg_held _ _ _) (setReg_resume _ _ _)
  simp only [h, Option.isSome_none, Bool.false_and, Bool.false_eq_true, if_false, if_neg sys, Res.committing]

/-- The answer of a write that is allowed, as the word that gives it (R133). -/
theorem csrOp_answer {f : Word → Word} (h : s.csr c = some old) (writable : c.getLsbD 10 = false)
    (sys : ¬(0x800 ≤ c.toNat ∧ s.hart.priv = .u)) :
    ∃ g, s.csrOp d c (some f) = s.word g ∧ g s = .ok ((s.setCsr c (f old)).setX d old).commit := by
  refine ⟨_, rfl, ?_⟩
  simp only [h, writable, Bool.and_false, Bool.false_eq_true, if_false, if_neg sys, Res.committing]

/-- A write that does not set REWIND.EN (R133). -/
theorem csrOp_writes {f : Word → Word} (hs : Ready s) (h : s.csr c = some old) (writable : c.getLsbD 10 = false)
    (sys : ¬(0x800 ≤ c.toNat ∧ s.hart.priv = .u)) (off : c ≠ 0x832 ∨ (f old).getLsbD 0 = false) :
    s.csrOp d c (some f) = completes s ((s.setCsr c (f old)).setX d old) := by
  obtain ⟨g, word, answer⟩ := csrOp_answer (d := d) (f := f) h writable sys
  obtain ⟨conv, pc, held, resume, -⟩ := setCsr_frame s c (f old)
  rw [word]
  exact word_committed hs answer conv ((setReg_pc _ _ _).trans pc) ((setReg_rewEn _ _ _).trans (setCsr_rewEn hs off))
    ((setReg_held _ _ _).trans held) ((setReg_resume _ _ _).trans resume)

end

/-! ### The three instructions -/

section
variable {s : State} {d a : BitVec 5} {c : BitVec 12}

theorem csrrw_meaning : Machine.exec (.csrrw d a c) s = s.csrOp d c (some fun _ => s.x a) := exec_csrrw

theorem csrrs_meaning : Machine.exec (.csrrs d a c) s = s.csrOp d c (if a = 0 then none else some fun old => old ||| s.x a) := exec_csrrs

theorem csrrc_meaning : Machine.exec (.csrrc d a c) s = s.csrOp d c (if a = 0 then none else some fun old => old &&& ~~~s.x a) := exec_csrrc

/-- A set or a clear writes unless it names x0 (R133). -/
theorem csrrsc_op {j : Instr} (hj : j ∈ [Instr.csrrs d a c, .csrrc d a c]) :
    ∃ new : Option (Word → Word), Machine.exec j s = s.csrOp d c new ∧ (a = 0 → new = none) ∧ (a ≠ 0 → new.isSome = true) := by
  simp only [List.mem_cons, List.not_mem_nil, or_false] at hj
  rcases hj with rfl | rfl
  · exact ⟨_, csrrs_meaning, fun h => if_pos h, fun h => by rw [if_neg h]; rfl⟩
  · exact ⟨_, csrrc_meaning, fun h => if_pos h, fun h => by rw [if_neg h]; rfl⟩

/-- Each of the three is one CSR operation. -/
theorem csr_op {j : Instr} (hj : j ∈ [Instr.csrrw d a c, .csrrs d a c, .csrrc d a c]) :
    ∃ new : Option (Word → Word), Machine.exec j s = s.csrOp d c new := by
  rcases List.mem_cons.1 hj with rfl | hj
  · exact ⟨_, csrrw_meaning⟩
  · obtain ⟨new, meaning, -⟩ := csrrsc_op (s := s) hj
    exact ⟨new, meaning⟩

end

/-! ### The enabling of REWIND -/

/-- The registers of a hart whose plain convoy retires. -/
theorem retired_plain (pre h : Hart) {c : Convoy} (next : Word) (hc : Plain c) (whole : h.resume = none) :
    Hart.skipDone pre (h.retired c next) = leave pre h next c.fx := by
  obtain ⟨-, -, tiles, vers, -, -, -, cont, final⟩ := hc
  have retired : h.retired c next = leave { pre with priv := .s } h next c.fx := by
    simp only [Hart.retired, leave, tiles, vers, cont, final, whole, versionBounds, List.foldl_nil, Option.any_none, Option.getD_none,
      Option.isSome_none, Bool.false_eq_true, if_false, reduceCtorEq, false_and]
  rw [retired]
  cases hp : pre.priv <;> cases ht : pre.tip <;> simp [Hart.skipDone, leave, hp, ht]

/-- The retirement of a plain convoy, by the registers that it keeps its writes in. -/
theorem retire_kept {t : State} {pre k : Hart} {next : Word} (hc : Plain t.conv) (unstepped : pre.stepping 1 = false)
    (goes : t.conv.npc.getD (t.hart.pc + 4) = next)
    (kept : Hart.keepWrites pre (Hart.skipDone pre (t.hart.retired t.conv next)) t.conv = k)
    (stays : k.status ≠ .gone) (quiet : ∀ w ∈ k.held, w.now = false) :
    t.retire pre = { t with hart := k, conv := Convoy.fresh, hotPend := t.hotPend ++ t.conv.hot } := by
  obtain ⟨len, -, -, -, samples, pubs, after, -, -⟩ := hc
  have later : ({ t with hart := k, conv := Convoy.fresh } : State).retireLater t.conv =
      { t with hart := k, conv := Convoy.fresh, hotPend := t.hotPend ++ t.conv.hot } := by
    simp only [State.retireLater, samples, mergeSamples, pubs, List.map_nil, List.append_nil]
  have bytes : BitVec.ofNat 64 (4 * t.conv.len) = (4 : Word) := by
    rw [len]
    rfl
  simp only [State.retire, bytes, goes, kept, if_neg stays, after, unstepped, Bool.false_eq_true, if_false, later]
  exact release_now _ quiet

/-- A commit point that leaves REWIND enabled takes a forced checkpoint at the boundary after it (R381, R383). -/
theorem keepWrites_commit {pre h : Hart} {c : Convoy} (on : h.rewEn = true) (commit : c.commit = true) (carry : h.carry = Carry.none)
    (rheld : h.rheld = []) (pend : c.pend = []) :
    Hart.keepWrites pre h c = { h with check := some (h.checkpoint h.pc true), checkCarry := Carry.none } := by
  simp only [Hart.keepWrites, Hart.checkAt, on, commit, carry, rheld, pend, Bool.not_true, Bool.false_and, Bool.false_eq_true, if_false,
    Bool.true_or, if_true, List.append_nil]

/-- A commit point that enables REWIND, and changes registers only besides, retires with a checkpoint. -/
theorem word_enables_rewind {s t : State} {f : State → Res} (hs : Ready s) (hf : f s = .ok t.commit) (conv : t.conv = s.conv)
    (on : t.hart.rewEn = true) (pc : t.hart.pc = s.hart.pc) (held : t.hart.held = s.hart.held) (rheld : t.hart.rheld = s.hart.rheld)
    (resume : t.hart.resume = s.hart.resume) :
    let k := leave s.hart t.hart (s.hart.pc + 4) 0
    s.word f = .next { t with
      hart := { k with check := some (k.checkpoint k.pc true), checkCarry := Carry.none }
      conv := Convoy.fresh } := by
  intro k
  have plain : Plain t.commit.conv := Plain.committed (conv ▸ ready_plain hs)
  have npc : t.conv.npc = none := conv ▸ ready_npc hs
  have fx : t.conv.fx = 0 := conv ▸ ready_fx hs
  have pend : t.conv.pend = [] := conv ▸ ready_pend hs
  have hot : t.conv.hot = [] := conv ▸ ready_hot hs
  have goes : t.conv.npc.getD (t.hart.pc + 4) = s.hart.pc + 4 := by rw [npc, Option.getD_none, pc]
  have regs : Hart.skipDone s.hart (t.hart.retired t.commit.conv (s.hart.pc + 4)) = k :=
    (retired_plain s.hart t.hart _ plain (resume.trans hs.whole)).trans (by rw [State.commit, fx])
  have kept := keepWrites_commit (pre := s.hart) (h := k) (c := t.commit.conv) on rfl rfl (rheld.trans hs.kept) pend
  have retires := retire_kept (t := t.commit) plain hs.unstepped goes ((congrArg (Hart.keepWrites s.hart · t.commit.conv) regs).trans kept)
    (nofun : Status.running ≠ .gone) fun w hw => hs.quiet w (held ▸ hw)
  rw [State.word, if_neg (by simp [State.checksFirst, hs.straight]), hf]
  show Host.Outcome.next (if t.commit.conv.len = 1 then t.commit.retire s.hart else _) = _
  rw [if_pos plain.len, retires, State.commit, hot, List.append_nil]

/-- Settles O30: each instruction is one operation on the CSR, which `csrOp_writes` and its neighbours decide. -/
theorem csrInstructions : Obligations.CsrInstructions := by
  unfold Obligations.CsrInstructions
  refine ⟨?_, ?_⟩
  · intro s d a c hs
    refine ⟨fun old h writable sys off => ?_, fun ha old h writable sys off => ?_, fun ha old h writable sys off => ?_,
      fun ha old h sys => ?_, fun ha old h sys => ?_, fun h j hj => ?_, fun ro => ?_, fun ro ha j hj => ?_,
      fun old h writable sys j hj => ?_, fun old h ha sys j hj => ?_⟩
    · rw [csrrw_meaning]
      exact csrOp_writes hs h writable (of_decide_eq_false sys) off
    · rw [csrrs_meaning, if_neg ha]
      exact csrOp_writes hs h writable (of_decide_eq_false sys) off
    · rw [csrrc_meaning, if_neg ha]
      exact csrOp_writes hs h writable (of_decide_eq_false sys) off
    · rw [csrrs_meaning, if_pos ha]
      exact csrOp_reads hs h (of_decide_eq_false sys)
    · rw [csrrc_meaning, if_pos ha]
      exact csrOp_reads hs h (of_decide_eq_false sys)
    · obtain ⟨new, meaning⟩ := csr_op hj
      rw [meaning]
      exact csrOp_unassigned hs h
    · rw [csrrw_meaning]
      exact csrOp_readOnly hs rfl ro
    · obtain ⟨new, meaning, -, writes⟩ := csrrsc_op hj
      rw [meaning]
      exact csrOp_readOnly hs (writes ha) ro
    · obtain ⟨new, meaning⟩ := csr_op hj
      rw [meaning]
      exact csrOp_denied hs h (.inr writable) (of_decide_eq_true sys)
    · obtain ⟨new, meaning, reads, -⟩ := csrrsc_op hj
      rw [meaning]
      exact csrOp_denied hs h (.inl (reads ha)) (of_decide_eq_true sys)
  · intro s d a hs super on
    obtain ⟨g, word, answer⟩ := csrOp_answer (d := d) (f := fun _ => s.x a) (csr_rewind s) rfl (by simp [super])
    rw [csrrw_meaning, word]
    exact word_enables_rewind hs answer rfl ((setReg_rewEn _ _ _).trans on) (setReg_pc _ _ _) (setReg_held _ _ _) (setReg_rheld _ _ _)
      (setReg_resume _ _ _)

end Sys2Proof.Scalar

/-! Memory that scalar accesses reach: the pieces of an access in one page, the lines that caches allocate, and the values of bytes. -/

namespace Sys2Proof.Scalar

open Sys2Proof.Machine Sys2Proof.Laws

/-! ### Ranges -/

theorem overlaps_comm (a n b m : Nat) : overlaps a n b m = overlaps b m a n := Bool.and_comm _ _

/-- A part of a range overlaps nothing that the range does not overlap. -/
theorem overlaps_part {pa n q m b k : Nat} (h : overlaps b k pa n = false) (lo : pa ≤ q) (hi : q + m ≤ pa + n) :
    overlaps b k q m = false := by
  simp only [overlaps, Bool.and_eq_false_iff, decide_eq_false_iff_not] at h ⊢
  omega

/-- A write that does not meet a range meets no parts of it. -/
theorem meets_parts {w : Write} {c : Cls} {pa n : Nat} {ps : List (Nat × Nat)} (h : w.meets c [(pa, n)] = false)
    (parts : ∀ p ∈ ps, pa ≤ p.1 ∧ p.1 + p.2 ≤ pa + n) : w.meets c ps = false := by
  simp only [Write.meets, List.any_cons, List.any_nil, Bool.or_false, Bool.and_eq_false_iff] at h ⊢
  refine h.imp_right fun apart => List.any_eq_false.2 fun p hp => ?_
  obtain ⟨lo, hi⟩ := parts p hp
  rw [overlaps_comm] at apart ⊢
  simp [overlaps_part apart lo hi]

theorem l1Pieces_within (pa n : Nat) : ∀ p ∈ l1Pieces [(pa, n)], pa ≤ p.1 ∧ p.1 + p.2 ≤ pa + n := by
  intro p hp
  simp only [l1Pieces, List.flatMap_cons, List.flatMap_nil, List.append_nil] at hp
  split at hp
  · obtain rfl := List.mem_singleton.1 hp
    simp
  · simp only [List.mem_cons, List.not_mem_nil, or_false] at hp
    rcases hp with rfl | rfl <;> dsimp only <;> omega

/-! ### The device registers -/

/-- What a choice gives that its first branch does not give comes from the second one. -/
theorem else_of_ne {α : Type} {c : Prop} [Decidable c] {x y z : α} (h : (if c then x else y) = z) (ne : x ≠ z) : ¬c ∧ y = z := by
  by_cases hc : c
  · exact absurd ((if_pos hc).symm.trans h) ne
  · exact ⟨hc, (if_neg hc).symm.trans h⟩

/-- The device registers are the addresses from 0xF000000000000 up to 0x10000000000000 (R213, Table 1). -/
theorem regionOf_regs (pa : Nat) : regionOf pa = .regs ↔ 0xF000000000000 ≤ pa ∧ pa < 0x10000000000000 := by
  have drawer : drawerBase = 0x1000000000000 := rfl
  have tcm : tcmBase = 0xE000000000000 := rfl
  have csp : cspBase = 0xE000100000000 := rfl
  have serai : seraiBase = 0xE000200000000 := rfl
  have regs : regsBase = 0xF000000000000 := rfl
  unfold regionOf
  constructor
  · intro h
    iterate 11 replace h := (else_of_ne h nofun).2
    obtain ⟨lo, h⟩ := else_of_ne h nofun
    by_contra out
    rw [if_neg (by omega)] at h
    exact nomatch h
  · rintro ⟨lo, hi⟩
    iterate 12 rw [if_neg (by omega)]
    exact if_pos hi

/-! ### The pieces of an access in one page -/

section
variable {va : Word} {n base : Nat} {leaf : Word}

theorem scaPieces_snd (map : PageMap) : (scaPieces map va n).map (fun p => p.2) = physPieces map va n := by
  simp only [scaPieces, physPieces, List.map_map]
  rfl

/-- A page that holds a byte of memory holds no device register. -/
theorem scaPieces_memory (page : va.toNat % 65536 + n ≤ 65536) (aligned : base % 65536 = 0)
    (memory : regionOf (base + va.toNat % 65536) ≠ .regs) : ∀ p ∈ scaPieces [(pageOf va, base, leaf)] va n, inRegs p = false := by
  intro p hp
  have hq : p.2 ∈ physPieces [(pageOf va, base, leaf)] va n := scaPieces_snd _ ▸ List.mem_map_of_mem hp
  obtain ⟨lo, hi, pos⟩ := pieces_within va n base leaf page p.2 hq
  rw [inRegs, beq_eq_false_iff_ne]
  rw [ne_eq, regionOf_regs] at memory ⊢
  omega

/-- Cut at the 64-byte lines, the pieces of a short access in one page are those of its physical range. -/
theorem l1Pieces_physPieces (page : va.toNat % 65536 + n ≤ 65536) (aligned : base % 65536 = 0) (pos : 0 < n) (short : n ≤ 64) :
    l1Pieces (physPieces [(pageOf va, base, leaf)] va n) = l1Pieces [(base + va.toNat % 65536, n)] := by
  have phys := fun k h => physOf_one va k base leaf h
  have first := phys 0 (by omega)
  rw [BitVec.add_zero, Nat.add_zero] at first
  have fuel : n / 128 + 2 = 2 := by omega
  by_cases one : va.toNat % 128 + n ≤ 128
  · have : pieces (n / 128 + 2) va n = [(va, n)] := by
      rw [fuel]
      simp only [pieces, if_neg pos.ne', Nat.min_eq_left (show n ≤ 128 - va.toNat % 128 by omega), Nat.sub_self, if_true]
    simp only [physPieces, this, List.map_cons, List.map_nil, first]
  · have cut : min n (128 - va.toNat % 128) = 128 - va.toNat % 128 := by omega
    obtain ⟨k, hk⟩ : ∃ k, 128 - va.toNat % 128 = k := ⟨_, rfl⟩
    rw [hk] at cut
    have next := (pageOf_add va k (by omega)).2
    have rest : min (n - k) (128 - (va + BitVec.ofNat 64 k).toNat % 128) = n - k := by rw [next]; omega
    have : pieces (n / 128 + 2) va n = [(va, k), (va + BitVec.ofNat 64 k, n - k)] := by
      rw [fuel]
      simp only [pieces, if_neg pos.ne', hk, cut, if_neg (show ¬n - k = 0 by omega), rest]
    simp only [physPieces, this, List.map_cons, List.map_nil, first, phys k (by omega), l1Pieces, List.flatMap_cons, List.flatMap_nil,
      List.append_nil]
    obtain ⟨pa, hpa⟩ : ∃ pa, base + va.toNat % 65536 = pa := ⟨_, rfl⟩
    rw [hpa, if_pos (show k ≤ 64 - pa % 64 by omega), if_pos (show n - k ≤ 64 - (pa + k) % 64 by omega),
      if_neg (show ¬n ≤ 64 - pa % 64 by omega), show 64 - pa % 64 = k by omega]
    rfl

/-- The bytes of the pieces of an access to memory in one page. -/
theorem pieceBytes_page (s : State) (page : va.toNat % 65536 + n ≤ 65536) (aligned : base % 65536 = 0)
    (memory : regionOf (base + va.toNat % 65536) ≠ .regs) :
    s.pieceBytes (scaPieces [(pageOf va, base, leaf)] va n) =
      (List.range n).map fun k => s.readByte .scalar (base + va.toNat % 65536 + k) := by
  rw [← loadBytes_page s .scalar va n base leaf page, State.loadBytes, ← scaPieces_snd, List.flatMap_map]
  refine List.flatMap_congr fun p hp => ?_
  rw [scaPieces_memory page aligned memory p hp]
  rfl

end

/-! ### Lines that a cache allocates -/

/-- The entries of a cache after some allocations: each piece that may be allocated adds its entry where the cache does not hold it. -/
def allocate {α β : Type} [BEq β] (ok : α → Bool) (entry : α → β) (ps : List α) (es : List β) : List β :=
  ps.foldl (fun es p => if ok p && !es.contains (entry p) then es ++ [entry p] else es) es

section
variable {α β : Type} [BEq β] {ok : α → Bool} {entry : α → β}

theorem allocate_cons (p : α) (ps : List α) (es : List β) :
    allocate ok entry (p :: ps) es = allocate ok entry ps (allocate ok entry [p] es) := rfl

theorem allocate_one (p : α) (es : List β) :
    allocate ok entry [p] es = if ok p && !es.contains (entry p) then es ++ [entry p] else es := rfl

/-- An allocation drops nothing. -/
theorem mem_allocate_of_mem {ps : List α} {es : List β} {e : β} (h : e ∈ es) : e ∈ allocate ok entry ps es := by
  induction ps generalizing es with
  | nil => exact h
  | cons p ps ih =>
    rw [allocate_cons]
    refine ih ?_
    rw [allocate_one]
    split
    · exact List.mem_append_left _ h
    · exact h

/-- What is held after some allocations was held before, or is the entry of a piece that may be allocated. -/
theorem mem_allocate {ps : List α} {es : List β} {e : β} (h : e ∈ allocate ok entry ps es) :
    e ∈ es ∨ ∃ p ∈ ps, ok p = true ∧ e = entry p := by
  induction ps generalizing es with
  | nil => exact .inl h
  | cons p ps ih =>
    rw [allocate_cons] at h
    rcases ih h with h | ⟨q, hq, okq, rfl⟩
    · rw [allocate_one] at h
      split at h
      · rename_i okp
        rw [Bool.and_eq_true] at okp
        rcases List.mem_append.1 h with h | h
        · exact .inl h
        · exact .inr ⟨p, List.mem_cons_self, okp.1, List.mem_singleton.1 h⟩
      · exact .inl h
    · exact .inr ⟨q, List.mem_cons_of_mem _ hq, okq, rfl⟩

variable [LawfulBEq β]

/-- A piece that may be allocated is held afterwards. -/
theorem entry_mem_allocate {ps : List α} {es : List β} {p : α} (hp : p ∈ ps) (okp : ok p = true) :
    entry p ∈ allocate ok entry ps es := by
  induction ps generalizing es with
  | nil => exact absurd hp List.not_mem_nil
  | cons q ps ih =>
    rw [allocate_cons]
    rcases List.mem_cons.1 hp with rfl | hp
    · refine mem_allocate_of_mem ?_
      rw [allocate_one, okp, Bool.true_and]
      split
      · exact List.mem_append_right _ (List.mem_singleton_self _)
      · rename_i held
        simpa using held
    · exact ih hp

/-- Pieces whose entries are held need not be allocated. -/
theorem allocate_filter {miss : α → Bool} {ps : List α} {es : List β} (held : ∀ p ∈ ps, miss p = false → entry p ∈ es) :
    allocate ok entry (ps.filter miss) es = allocate ok entry ps es := by
  induction ps generalizing es with
  | nil => rfl
  | cons p ps ih =>
    by_cases hp : miss p = true
    · rw [List.filter_cons_of_pos hp, allocate_cons, allocate_cons p ps]
      exact ih fun q hq mq => mem_allocate_of_mem (held q (List.mem_cons_of_mem _ hq) mq)
    · rw [List.filter_cons_of_neg hp, allocate_cons p ps, allocate_one,
        List.contains_iff_mem.2 (held p List.mem_cons_self (by simpa using hp)), Bool.not_true, Bool.and_false,
        if_neg Bool.false_ne_true]
      exact ih fun q hq mq => held q (List.mem_cons_of_mem _ hq) mq

end

/-- The 64-byte line of a byte. -/
def l1Line (pa : Nat) : Nat := pa / 64 * 64

/-- A line that L1D may allocate for a scalar load of the hart. -/
def l1Allocates (s : State) (p : Nat × Nat) : Bool :=
  s.cacheable (l1Line p.1) && (s.consumes .scalar false (l1Line p.1) 64).isNone

/-- A line that L2 may allocate. -/
def l2Allocates (s : State) (p : Nat × Nat) : Bool := s.cacheable p.1 && (s.poisonAt (lineOf p.1) 128).isNone

theorem fillL1d_na (s : State) (ps : List (Nat × Nat)) : s.fillL1d 1 ps = s := rfl

theorem fillL1d_eq (s : State) (ps : List (Nat × Nat)) {hint : BitVec 2} (h : hint ≠ 1) :
    s.fillL1d hint ps = { s with l1d := allocate (l1Allocates s) (fun p => (s.hart.core, l1Line p.1)) ps s.l1d } := by
  have key : ∀ es, ({ s with l1d := es } : State).fillL1d hint ps =
      { s with l1d := allocate (l1Allocates s) (fun p => (s.hart.core, l1Line p.1)) ps es } := by
    unfold State.fillL1d
    simp only [if_neg h]
    induction ps with
    | nil => exact fun _ => rfl
    | cons p ps ih =>
      intro es
      rw [List.foldl_cons, allocate_cons, ← ih, allocate_one]
      have line : l1Line p.1 / 64 * 64 = l1Line p.1 := by simp [l1Line]
      have cond : (State.cacheable { s with l1d := es } (p.1 / 64 * 64) && !State.inL1d { s with l1d := es } (p.1 / 64 * 64) &&
          (State.consumes { s with l1d := es } .scalar false (p.1 / 64 * 64) 64).isNone) =
          (l1Allocates s p && !es.contains (s.hart.core, l1Line p.1)) := by
        show (s.cacheable (l1Line p.1) && !es.contains (s.hart.core, l1Line p.1 / 64 * 64) &&
          (s.consumes .scalar false (l1Line p.1) 64).isNone) = _
        rw [line, l1Allocates, Bool.and_assoc, Bool.and_assoc, Bool.and_comm (!_)]
      simp only [cond]
      split <;> rfl
  exact key s.l1d

theorem fillL2_na (s : State) (ps : List (Nat × Nat)) : s.fillL2 true ps = s := rfl

theorem fillL2_eq (s : State) (ps : List (Nat × Nat)) :
    s.fillL2 false ps = { s with l2 := allocate (l2Allocates s) (fun p => (dieOf s.hart.core, lineOf p.1)) ps s.l2 } := by
  have key : ∀ es, ({ s with l2 := es } : State).fillL2 false ps =
      { s with l2 := allocate (l2Allocates s) (fun p => (dieOf s.hart.core, lineOf p.1)) ps es } := by
    unfold State.fillL2
    simp only [Bool.false_eq_true, if_false]
    induction ps with
    | nil => exact fun _ => rfl
    | cons p ps ih =>
      intro es
      rw [List.foldl_cons, allocate_cons, ← ih, allocate_one]
      have cond : (State.cacheable { s with l2 := es } p.1 && !State.inL2 { s with l2 := es } p.1 &&
          (State.poisonAt { s with l2 := es } (lineOf p.1) 128).isNone) =
          (l2Allocates s p && !es.contains (dieOf s.hart.core, lineOf p.1)) := by
        show (s.cacheable p.1 && !es.contains (dieOf s.hart.core, lineOf p.1) && (s.poisonAt (lineOf p.1) 128).isNone) = _
        rw [l2Allocates, Bool.and_assoc, Bool.and_assoc, Bool.and_comm (!_)]
      simp only [cond]
      split <;> rfl
  exact key s.l2

/-- An allocation changes the lines of its cache alone. -/
theorem fillL1d_only (s : State) (hint : BitVec 2) (ps : List (Nat × Nat)) : ∃ l, s.fillL1d hint ps = { s with l1d := l } := by
  by_cases h : hint = 1
  · exact ⟨s.l1d, h ▸ rfl⟩
  · exact ⟨_, fillL1d_eq s ps h⟩

theorem fillL2_only (s : State) (na : Bool) (ps : List (Nat × Nat)) : ∃ l, s.fillL2 na ps = { s with l2 := l } := by
  cases na with
  | true => exact ⟨s.l2, rfl⟩
  | false => exact ⟨_, fillL2_eq s ps⟩

/-- Lines that L1D holds are not allocated again. -/
theorem fillL1d_misses (s : State) (hint : BitVec 2) (ps : List (Nat × Nat)) :
    s.fillL1d hint (ps.filter fun p => !s.inL1d p.1) = s.fillL1d hint ps := by
  by_cases h : hint = 1
  · rw [h, fillL1d_na, fillL1d_na]
  · rw [fillL1d_eq s _ h, fillL1d_eq s _ h, allocate_filter]
    intro p _ hp
    simpa [State.inL1d, l1Line] using hp

/-- The lines that L1D holds after a scalar load: those it held, and of the pieces those that may be allocated (R124). -/
theorem fillL1d_lines (s : State) (hint : BitVec 2) (ps : List (Nat × Nat)) :
    let t := s.fillL1d hint ps
    t = { s with l1d := t.l1d } ∧ (hint = 1 → t = s) ∧ (∀ e ∈ s.l1d, e ∈ t.l1d) ∧
    (hint ≠ 1 → ∀ p ∈ ps, s.cacheable (l1Line p.1) = true → Sound s (l1Line p.1) 64 → t.inL1d p.1 = true) ∧
    ∀ e ∈ t.l1d, e ∈ s.l1d ∨ ∃ p ∈ ps, s.cacheable (l1Line p.1) = true ∧ e = (s.hart.core, l1Line p.1) := by
  intro t
  by_cases h : hint = 1
  · subst h
    have same : t = s := fillL1d_na s ps
    rw [same]
    exact ⟨rfl, fun _ => rfl, fun e he => he, fun n => absurd rfl n, fun e he => .inl he⟩
  · have fill : t = { s with l1d := allocate (l1Allocates s) (fun p => (s.hart.core, l1Line p.1)) ps s.l1d } := fillL1d_eq s ps h
    rw [fill]
    refine ⟨rfl, fun n => absurd n h, fun e he => mem_allocate_of_mem he, fun _ p hp cached sound => ?_, fun e he => ?_⟩
    · have ok : l1Allocates s p = true := by rw [l1Allocates, cached, consumes_clean s .scalar false _ _ sound]; rfl
      exact List.contains_iff_mem.2 (entry_mem_allocate (entry := fun p : Nat × Nat => (s.hart.core, l1Line p.1)) hp ok)
    · refine (mem_allocate he).imp_right fun ⟨p, hp, ok, entry⟩ => ⟨p, hp, ?_, entry⟩
      rw [l1Allocates, Bool.and_eq_true] at ok
      exact ok.1

theorem poisonAt_clean {s : State} {pa n : Nat} (h : Sound s pa n) : s.poisonAt pa n = none := by
  rw [State.poisonAt, Option.map_eq_none_iff, List.find?_eq_none]
  intro u hu
  simp [h u hu]

/-- The lines that L2 holds after a read: those it held, and of the pieces those that may be allocated (R219). -/
theorem fillL2_lines (s : State) (na : Bool) (ps : List (Nat × Nat)) :
    let t := s.fillL2 na ps
    t = { s with l2 := t.l2 } ∧ (na = true → t = s) ∧ (∀ e ∈ s.l2, e ∈ t.l2) ∧
    (na = false → ∀ p ∈ ps, s.cacheable p.1 = true → Sound s (lineOf p.1) 128 → t.inL2 p.1 = true) ∧
    ∀ e ∈ t.l2, e ∈ s.l2 ∨ ∃ p ∈ ps, s.cacheable p.1 = true ∧ e = (dieOf s.hart.core, lineOf p.1) := by
  intro t
  cases na with
  | true => exact ⟨rfl, fun _ => rfl, fun e he => he, nofun, fun e he => .inl he⟩
  | false =>
    have fill : t = { s with l2 := allocate (l2Allocates s) (fun p => (dieOf s.hart.core, lineOf p.1)) ps s.l2 } := fillL2_eq s ps
    rw [fill]
    refine ⟨rfl, nofun, fun e he => mem_allocate_of_mem he, fun _ p hp cached sound => ?_, fun e he => ?_⟩
    · have ok : l2Allocates s p = true := by rw [l2Allocates, cached, poisonAt_clean sound]; rfl
      exact List.contains_iff_mem.2 (entry_mem_allocate (entry := fun p : Nat × Nat => (dieOf s.hart.core, lineOf p.1)) hp ok)
    · refine (mem_allocate he).imp_right fun ⟨p, hp, ok, entry⟩ => ⟨p, hp, ?_, entry⟩
      rw [l2Allocates, Bool.and_eq_true] at ok
      exact ok.1

/-! ### Little-endian values -/

theorem leNat_append (xs ys : List Byte) : leNat (xs ++ ys) = leNat xs + 256 ^ xs.length * leNat ys := by
  induction xs with
  | nil => simp [leNat]
  | cons b xs ih =>
    rw [List.cons_append, leNat, leNat, ih, List.length_cons, Nat.pow_succ]
    ring

theorem leNat_lt (bs : List Byte) : leNat bs < 256 ^ bs.length := by
  induction bs with
  | nil => exact Nat.one_pos
  | cons b bs ih =>
    have := b.isLt
    rw [leNat, List.length_cons, Nat.pow_succ]
    omega

theorem valueAt_lt (s : State) (c : Cls) (pa n : Nat) : valueAt s c pa n < 256 ^ n := by
  have := leNat_lt ((List.range n).map fun k => s.readByte c (pa + k))
  rwa [List.length_map, List.length_range] at this

theorem valueAt_add (s : State) (c : Cls) (pa m n : Nat) :
    valueAt s c pa (m + n) = valueAt s c pa m + 256 ^ m * valueAt s c (pa + m) n := by
  simp only [valueAt, List.range_add, List.map_append, List.map_map, leNat_append, List.length_map, List.length_range]
  simp only [Function.comp_def, Nat.add_assoc]

end Sys2Proof.Scalar

/-! Scalar loads and stores (R121 to R124, R219, R358). -/

namespace Sys2Proof.Scalar

open Sys2Proof.Machine Sys2Proof.Laws

/-- The address that a scalar access computes (R88, R121). -/
theorem scaAddr_value (s : State) (a : BitVec 5) (i : BitVec 10) (size : Nat) :
    s.scaAddr a i size = s.x a + BitVec.ofInt 64 (i.toInt * size) := by
  rw [State.scaAddr, BitVec.ofInt_mul]
  rfl

/-- A register write is a change of the registers alone. -/
theorem setX_registers (s : State) (d : BitVec 5) (v : Word) : ∃ x, s.setX d v = { s with hart := { s.hart with x := x } } := by
  unfold State.setX Hart.setReg
  split
  · exact ⟨s.hart.x, rfl⟩
  · exact ⟨_, rfl⟩

/-! ### Accesses to memory -/

/-- An access that meets no device register is performed as it is. -/
theorem regAccess_memory (s : State) (va : Word) {ps : List (Word × Nat × Nat)} (report : Bool) (k : State → Res)
    (memory : ∀ p ∈ ps, inRegs p = false) : s.regAccess va ps report k = k s := by
  have : ps.filter inRegs = [] := List.filter_eq_nil_iff.2 fun p hp => by simp [memory p hp]
  rw [State.regAccess, this]

/-- An access whose pieces lie in a range that no publication of the hart meets does not wait for one. -/
theorem pubsAt_alone {s : State} {ps : List (Nat × Nat)} {pa n : Nat} (k : State → Res)
    (alone : ∀ p ∈ s.ownPubs, overlaps p.pa 8 pa n = false) (parts : ∀ p ∈ ps, pa ≤ p.1 ∧ p.1 + p.2 ≤ pa + n) :
    s.pubsAt ps k = k s := by
  refine afterPubs_none s _ k fun q hq => List.any_eq_false.2 fun p hp => ?_
  obtain ⟨lo, hi⟩ := parts p hp
  simp [overlaps_part (alone q hq) lo hi]

section
variable {s : State} {acc : Acc} {va : Word} {n pa : Nat}

/-- An access that reaches memory is translated by one page. -/
theorem prepare_reaches (hs : Ready s) (reaches : Reaches s acc true va n pa) (pos : 0 < n) :
    ∃ base leaf, pa = base + va.toNat % 65536 ∧ base % 65536 = 0 ∧
      ∀ k, s.prepare (s.scaMode acc) [⟨0, va, n⟩] k = k s [(pageOf va, base, leaf)] := by
  obtain ⟨base, leaf, translates, at_, aligned⟩ := reaches.at_
  exact ⟨base, leaf, at_, aligned, fun k => prepare_one s (s.scaMode acc) 0 va n base leaf k reaches.page pos rfl (ready_pins hs) translates⟩

/-! ### Loads -/

/-- The lines that a scalar load of some bytes leaves in the caches (R124, R219; log entry 17). -/
def loaded (s : State) (hint : BitVec 2) (pa n : Nat) : State :=
  (s.fillL1d hint (l1Pieces [(pa, n)])).fillL2 (hint != 0) ((l1Pieces [(pa, n)]).filter fun p => !s.inL1d p.1)

/-- A scalar read of memory that answers at once gives the bytes that stand there. -/
theorem scaRead_answers {base : Nat} {leaf : Word} (hint : BitVec 2) (k : State → List Byte → Res) (page : va.toNat % 65536 + n ≤ 65536)
    (aligned : base % 65536 = 0) (at_ : pa = base + va.toNat % 65536) (memory : regionOf pa ≠ .regs)
    (alone : ∀ p ∈ s.ownPubs, overlaps p.pa 8 pa n = false) (pos : 0 < n) (short : n ≤ 64) (answers : Answers s pa n)
    (follows : Follows s .scalar [(pa, n)]) :
    s.scaRead [(pageOf va, base, leaf)] va n hint k =
      k (loaded s hint pa n) ((List.range n).map fun k => s.readByte .scalar (pa + k)) := by
  subst at_
  have regs := scaPieces_memory (leaf := leaf) page aligned memory
  have all : (scaPieces [(pageOf va, base, leaf)] va n).filter (fun p => !inRegs p) = scaPieces [(pageOf va, base, leaf)] va n :=
    List.filter_eq_self.2 fun p hp => by simp [regs p hp]
  have parts := l1Pieces_within (base + va.toNat % 65536) n
  unfold State.scaRead
  simp only [all, scaPieces_snd, l1Pieces_physPieces page aligned pos short]
  rw [regAccess_memory s va true _ regs, pubsAt_alone _ alone parts]
  have miss : ∀ p ∈ (l1Pieces [(base + va.toNat % 65536, n)]).filter (fun p => !s.inL1d p.1),
      s.unserved false p.1 = false ∧ Sound s p.1 p.2 := fun p hp => by
    obtain ⟨mem, out⟩ := List.mem_filter.1 hp
    exact answers p mem (by simpa using out)
  have orders : s.hart.orders.filter (fun o => o.reads && o.after == .scalar) = [] := by
    refine List.filter_eq_nil_iff.2 fun o ho => ?_
    by_cases after : o.after = .scalar
    · simp [follows.orders o ho after]
    · simp [after]
  have sound : s.consumedBy .scalar false ((l1Pieces [(base + va.toNat % 65536, n)]).filter fun p => !s.inL1d p.1) = none := by
    unfold State.consumedBy
    split
    · rfl
    · exact findSome_none _ _ fun p hp => consumes_clean s .scalar false p.1 p.2 (miss p hp).2
  rw [unservedOf_none s false _ fun p hp => (miss p hp).1]
  dsimp only
  rw [readFirst_free s .scalar _ _ _ orders (fun w hw => meets_parts (follows.held w hw) parts)
    fun w hw mine away => meets_parts (follows.away w hw mine away) parts, sound]
  simp only [pieceBytes_page s page aligned memory, fillL1d_misses, loaded]

/-- A load changes the lines of the caches alone. -/
theorem loaded_eq (s : State) (hint : BitVec 2) (pa n : Nat) :
    ∃ l1d l2, loaded s hint pa n = { s with l1d := l1d, l2 := l2 } := by
  obtain ⟨l1d, first⟩ := fillL1d_only s hint (l1Pieces [(pa, n)])
  rw [loaded, first]
  obtain ⟨l2, second⟩ := fillL2_only { s with l1d := l1d } (hint != 0) ((l1Pieces [(pa, n)]).filter fun p => !s.inL1d p.1)
  exact ⟨l1d, l2, second⟩

end

/-- A scalar load of memory that answers at once completes with the value of its bytes in registers. -/
theorem load_completes {s : State} {j : Instr} {a : BitVec 5} {i : BitVec 10} {size align pa : Nat} {hint : BitVec 2}
    {put : State → Nat → State} (hs : Ready s)
    (meaning : Machine.exec j s = s.word fun s => s.scaLoad (s.scaAddr a i size) size align hint put)
    (registers : ∀ t v, ∃ x, put t v = { t with hart := { t.hart with x := x } }) (pos : 0 < size) (short : size ≤ 64)
    (aligned : (s.x a + BitVec.ofInt 64 (i.toInt * size)).toNat % align = 0)
    (reaches : Reaches s .read true (s.x a + BitVec.ofInt 64 (i.toInt * size)) size pa) (answers : Answers s pa size)
    (follows : Follows s .scalar [(pa, size)]) :
    Machine.exec j s = completes s (put (loaded s hint pa size) (valueAt s .scalar pa size)) := by
  obtain ⟨base, leaf, at_, baseAligned, prepares⟩ := prepare_reaches hs reaches pos
  have reads := fun k => scaRead_answers (leaf := leaf) hint k reaches.page baseAligned at_ reaches.memory reaches.alone pos short answers follows
  obtain ⟨l1d, l2, caches⟩ := loaded_eq s hint pa size
  obtain ⟨x, regs⟩ := registers (loaded s hint pa size) (valueAt s .scalar pa size)
  rw [caches] at regs
  have conv : (put (loaded s hint pa size) (valueAt s .scalar pa size)).conv = s.conv := by rw [caches, regs]
  rw [meaning]
  refine word_done s _ _ hs ?_ (conv ▸ ready_plain hs) (conv ▸ ready_npc hs) ?_ ?_ ?_ ?_
  · simp only [State.scaLoad, whenAligned, scaAddr_value, if_pos aligned, prepares, reads]
    rfl
  all_goals rw [caches, regs]

/-! ### Stores -/

/-- The writes of a run of bytes are the hart's own (R234). -/
theorem runWrites_mine (s : State) (c : Cls) (map : PageMap) (unit : Nat) (va : Word) (bs : List WByte) :
    ∀ w ∈ s.runWrites c map unit va bs, w.mine s.hart = true := by
  intro w hw
  rw [State.runWrites, List.mem_reverse] at hw
  refine List.foldlRecOn (motive := fun (a : Nat × List Write) => ∀ w ∈ a.2, w.mine s.hart = true) _ _
    (fun w hw => absurd hw List.not_mem_nil) (fun acc ih p _ w hw => ?_) w hw
  rcases List.mem_cons.1 hw with rfl | hw
  · simp [State.mkWrite, Write.mine]
  · exact ih w hw

theorem overlay_append (xs ys : List Write) (a : Nat) (b : Byte) : overlay (xs ++ ys) a b = overlay ys a (overlay xs a b) :=
  List.foldl_append

/-- The place of writes in their hart's program order does not change what they leave. -/
theorem overlay_placed (ws : List Write) (seq a : Nat) (b : Byte) :
    overlay (ws.map fun w => { w with seq := seq }) a b = overlay ws a b :=
  List.foldl_map

/-- What a run of whole bytes in one page leaves of a byte. -/
theorem overlay_run (s : State) (c : Cls) {va : Word} {base u : Nat} {leaf : Word} {bs : List Byte}
    (page : va.toNat % 65536 + bs.length ≤ 65536) (a : Nat) (b : Byte) :
    let pa := base + va.toNat % 65536
    overlay (s.runWrites c [(pageOf va, base, leaf)] u va (wholeBytes bs)) a b =
      if pa ≤ a ∧ a < pa + bs.length then bs[a - pa]?.getD 0 else b := by
  intro pa
  have len : (wholeBytes bs).length = bs.length := List.length_map _
  have run := (runWrites_page s c va base u leaf (wholeBytes bs) (len ▸ page)).2 a b
  rw [run, len]
  split
  · rw [wholeBytes, List.getElem?_map, List.getElem?_eq_getElem (show a - pa < bs.length by omega)]
    exact wholeByte_apply _ _
  · rfl

/-- The writes that a store of some whole bytes leaves, in their place in the hart's program order. -/
def storeWrites (s : State) (map : PageMap) (u : Nat) (va : Word) (bs : List Byte) : List Write :=
  (s.runWrites .scalar map u va (wholeBytes bs)).map fun w => { w with seq := s.hart.seq }

/-- A write of a scalar store of the hart: it is the hart's, has the store's place in the program order, and lies in its range. -/
structure StoreWrite (s : State) (pa n : Nat) (w : Write) : Prop where
  mine : w.mine s.hart = true
  seq : w.seq = s.hart.seq
  cls : w.cls = .scalar
  now : w.now = false
  lo : pa ≤ w.pa
  hi : w.pa + w.bytes.length ≤ pa + n

theorem storeWrites_own (s : State) {va : Word} {base u : Nat} {leaf : Word} {bs : List Byte}
    (page : va.toNat % 65536 + bs.length ≤ 65536) :
    ∀ w ∈ storeWrites s [(pageOf va, base, leaf)] u va bs, StoreWrite s (base + va.toNat % 65536) bs.length w := by
  intro w hw
  obtain ⟨x, hx, rfl⟩ := List.mem_map.1 hw
  have len : (wholeBytes bs).length = bs.length := List.length_map _
  obtain ⟨-, cls, now, -, lo, hi⟩ := (runWrites_page s .scalar va base u leaf (wholeBytes bs) (len ▸ page)).1 x hx
  exact ⟨runWrites_mine s _ _ _ _ _ x hx, rfl, cls, now, lo, len ▸ hi⟩

/-- A scalar store to memory adds its writes to the convoy. -/
theorem scaStore_reaches {s : State} {va : Word} {align u pa : Nat} {bs : List Byte} (hs : Ready s) (pos : 0 < bs.length)
    (aligned : va.toNat % align = 0) (reaches : Reaches s .write true va bs.length pa) :
    ∃ base leaf, pa = base + va.toNat % 65536 ∧
      s.scaStore va align u bs = .ok (s.addWrites (s.runWrites .scalar [(pageOf va, base, leaf)] u va (wholeBytes bs))) := by
  obtain ⟨base, leaf, at_, baseAligned, prepares⟩ := prepare_reaches hs reaches pos
  refine ⟨base, leaf, at_, ?_⟩
  subst at_
  have regs := scaPieces_memory (leaf := leaf) reaches.page baseAligned reaches.memory
  have none_ : (scaPieces [(pageOf va, base, leaf)] va bs.length).filter inRegs = [] :=
    List.filter_eq_nil_iff.2 fun p hp => by simp [regs p hp]
  have parts : ∀ p ∈ physPieces [(pageOf va, base, leaf)] va bs.length,
      base + va.toNat % 65536 ≤ p.1 ∧ p.1 + p.2 ≤ base + va.toNat % 65536 + bs.length := fun p hp => by
    obtain ⟨lo, hi, -⟩ := pieces_within va bs.length base leaf reaches.page p hp
    exact ⟨lo, hi⟩
  simp only [State.scaStore, whenAligned, if_pos aligned, prepares, Res.unreported, Res.andThen, none_, scaPieces_snd,
    pubsAt_alone _ reaches.alone parts]

/-- Writes that retire with it leave a convoy plain. -/
theorem Plain.writes {c : Convoy} {ws : List Write} (h : Plain c) (now : ∀ w ∈ ws, w.now = false) : Plain { c with pend := ws } :=
  ⟨h.len, now, h.tiles, h.vers, h.samples, h.pubs, h.after, h.cont, h.final⟩

/-- After a word that leaves some writes of the hart, a scalar read finds them over what it found before. -/
theorem readByte_left {s : State} {h : Hart} {ws : List Write} (hs : Ready s) (core : h.core = s.hart.core) (rheld : h.rheld = s.hart.rheld)
    (scalar : ∀ w ∈ ws, w.cls = .scalar) (a : Nat) :
    ({ s with hart := { h with held := s.hart.held ++ ws }, conv := Convoy.fresh } : State).readByte .scalar a =
      overlay ws a (s.readByte .scalar a) := by
  have ahead : ({ s with hart := { h with held := s.hart.held ++ ws }, conv := Convoy.fresh } : State).ahead .scalar =
      s.ahead .scalar ++ ws := by
    have all : ws.filter (fun w => w.cls == .scalar) = ws := List.filter_eq_self.2 fun w hw => by simp [scalar w hw]
    simp only [State.ahead, core, rheld, hs.kept, List.append_nil, List.filter_append, all, List.append_assoc]
  rw [State.readByte, ahead, overlay_append, State.readByte, ready_undo hs]
  rfl

/-- An instruction completes with the store of some bytes: its writes, which lie in its range, join the hart's retired ones, a scalar read of
the hart finds its bytes, and nothing else changes (R121, R234). -/
def StoreCompletes (s : State) (j : Instr) (pa size : Nat) (bs : List Byte) : Prop :=
  ∃ ws t, t = { s with
    hart := { leave s.hart s.hart (s.hart.pc + 4) 0 with held := s.hart.held ++ ws, seq := s.hart.seq + 1 }
    conv := Convoy.fresh } ∧
    Machine.exec j s = .next t ∧ Stored s t .scalar pa bs ∧
    ∀ w ∈ ws, w.mine s.hart = true ∧ w.seq = s.hart.seq ∧ w.cls = .scalar ∧ pa ≤ w.pa ∧ w.pa + w.bytes.length ≤ pa + size

/-- A scalar store to memory completes: its bytes are on their way, and nothing else changes. -/
theorem store_completes {s : State} {j : Instr} {f : State → Res} {a : BitVec 5} {i : BitVec 10} {size align u pa : Nat} {bs : List Byte}
    (hs : Ready s) (meaning : Machine.exec j s = s.word f) (answer : f s = s.scaStore (s.scaAddr a i size) align u bs)
    (len : bs.length = size) (pos : 0 < size) (aligned : (s.x a + BitVec.ofInt 64 (i.toInt * size)).toNat % align = 0)
    (reaches : Reaches s .write true (s.x a + BitVec.ofInt 64 (i.toInt * size)) size pa) :
    StoreCompletes s j pa size bs := by
  obtain ⟨va, hva⟩ : ∃ va, s.x a + BitVec.ofInt 64 (i.toInt * size) = va := ⟨_, rfl⟩
  rw [hva] at aligned reaches
  subst len
  obtain ⟨base, leaf, at_, stores⟩ := scaStore_reaches (u := u) hs pos aligned reaches
  have own := storeWrites_own s (u := u) (base := base) (leaf := leaf) reaches.page
  refine ⟨storeWrites s [(pageOf va, base, leaf)] u va bs, _, rfl, ?_, fun x => ?_, fun w hw => ?_⟩
  · have plain : Plain (s.addWrites (s.runWrites .scalar [(pageOf va, base, leaf)] u va (wholeBytes bs))).conv :=
      Plain.writes (ready_plain hs) fun w hw => by
        rw [ready_pend hs, List.nil_append] at hw
        exact (own w hw).now
    rw [meaning, word_ok s _ _ hs (by rw [answer, scaAddr_value, hva]; exact stores) plain hs.straight hs.quiet hs.whole]
    simp only [addWrites_hart, addWrites_conv, addWrites_hotPend, ready_npc hs, ready_fx hs, ready_hot hs, ready_pend hs, List.nil_append,
      List.append_nil, Option.getD_none]
    rfl
  · rw [readByte_left (h := { leave s.hart s.hart (s.hart.pc + 4) 0 with seq := s.hart.seq + 1 }) hs rfl rfl
      fun w hw => (own w hw).cls, storeWrites, overlay_placed, overlay_run s .scalar reaches.page, at_]
  · obtain ⟨mine, seq, cls, -, lo, hi⟩ := own w hw
    exact ⟨mine, seq, cls, at_ ▸ lo, at_ ▸ hi⟩

/-! ### The forms -/

theorem leBytes_length (n v : Nat) : (leBytes n v).length = n := by
  induction n generalizing v with
  | zero => rfl
  | succ n ih => rw [leBytes, List.length_cons, ih]

theorem sext_value (w v : Nat) : sext w v = BitVec.ofInt 64 (BitVec.ofNat w v).toInt := rfl

/-- A load of one register, with the word that it writes. -/
theorem load_one {s : State} {j : Instr} {d a : BitVec 5} {h : BitVec 2} {i : BitVec 10} {size pa : Nat} {f : Nat → Word} {v : Word}
    (hs : Ready s) (meaning : Machine.exec j s = s.load d a h i size f) (pos : 0 < size) (short : size ≤ 64)
    (value : f (valueAt s .scalar pa size) = v) (aligned : (s.x a + BitVec.ofInt 64 (i.toInt * size)).toNat % size = 0)
    (reaches : Reaches s .read true (s.x a + BitVec.ofInt 64 (i.toInt * size)) size pa) (answers : Answers s pa size)
    (follows : Follows s .scalar [(pa, size)]) : Machine.exec j s = completes s ((loaded s h pa size).setX d v) := by
  rw [← value]
  exact load_completes (put := fun t v => t.setX d (f v)) hs meaning (fun t v => setX_registers t d (f v)) pos short aligned reaches answers
    follows

/-- The two registers of a pair load hold the two halves of its 16 bytes. -/
theorem pair_halves (s : State) (c : Cls) (pa : Nat) :
    BitVec.ofNat 64 (valueAt s c pa 16) = BitVec.ofNat 64 (valueAt s c pa 8) ∧ valueAt s c pa 16 / 2 ^ 64 = valueAt s c (pa + 8) 8 := by
  have low := valueAt_lt s c pa 8
  have split : valueAt s c pa 16 = valueAt s c pa 8 + 256 ^ 8 * valueAt s c (pa + 8) 8 := valueAt_add s c pa 8 8
  refine ⟨BitVec.eq_of_toNat_eq ?_, ?_⟩
  · simp only [BitVec.toNat_ofNat]
    omega
  · omega

theorem pair_registers (t : State) (d e : BitVec 5) (v w : Word) :
    ∃ x, (t.setX d v).setX e w = { t with hart := { t.hart with x := x } } := by
  obtain ⟨x, first⟩ := setX_registers t d v
  obtain ⟨y, second⟩ := setX_registers (t.setX d v) e w
  exact ⟨y, by rw [second, first]⟩

/-- The pair load writes the first doubleword to rd and the second one to the register after it. -/
theorem load_pair {s : State} {d a : BitVec 5} {h : BitVec 2} {t : BitVec 1} {i : BitVec 10} {pa : Nat} (hs : Ready s)
    (aligned : (s.x a + BitVec.ofInt 64 (i.toInt * (16 : Nat))).toNat % (if t = 1 then 16 else 8) = 0)
    (reaches : Reaches s .read true (s.x a + BitVec.ofInt 64 (i.toInt * (16 : Nat))) 16 pa) (answers : Answers s pa 16)
    (follows : Follows s .scalar [(pa, 16)]) :
    Machine.exec (.ldp d a h t i) s = completes s (((loaded s h pa 16).setX d (BitVec.ofNat 64 (valueAt s .scalar pa 8))).setX (d + 1)
      (BitVec.ofNat 64 (valueAt s .scalar (pa + 8) 8))) := by
  obtain ⟨low, high⟩ := pair_halves s .scalar pa
  rw [← low, ← high]
  exact load_completes (put := fun t v => (t.setX d (BitVec.ofNat 64 v)).setX (d + 1) (BitVec.ofNat 64 (v / 2 ^ 64))) hs exec_ldp
    (fun t v => pair_registers t d (d + 1) _ _) (by decide) (by decide) aligned reaches answers follows

/-- A store of one register. -/
theorem store_one {s : State} {j : Instr} {d a : BitVec 5} {i : BitVec 10} {size u pa : Nat} (hs : Ready s)
    (meaning : Machine.exec j s = s.store d a i size u) (pos : 0 < size)
    (aligned : (s.x a + BitVec.ofInt 64 (i.toInt * size)).toNat % size = 0)
    (reaches : Reaches s .write true (s.x a + BitVec.ofInt 64 (i.toInt * size)) size pa) :
    StoreCompletes s j pa size (leBytes size (s.x d).toNat) :=
  store_completes hs meaning rfl (leBytes_length _ _) pos aligned reaches

/-- Settles O20: the loads by `load_completes`, the caches by `fillL1d_lines` and `fillL2_lines`, the stores by `store_completes`. -/
theorem loadsAndStores : Obligations.LoadsAndStores := by
  unfold Obligations.LoadsAndStores
  refine ⟨⟨?_, fun s h pa n => fillL1d_lines s h (l1Pieces [(pa, n)]), fillL2_lines⟩, ?_⟩
  · intro s d a h t i pa hs
    exact ⟨load_one hs exec_lb (by decide) (by decide) (sext_value _ _), load_one hs exec_lbu (by decide) (by decide) rfl,
      load_one hs exec_lh (by decide) (by decide) (sext_value _ _), load_one hs exec_lhu (by decide) (by decide) rfl,
      load_one hs exec_lw (by decide) (by decide) (sext_value _ _), load_one hs exec_lwu (by decide) (by decide) rfl,
      load_one hs exec_ld (by decide) (by decide) rfl, load_pair hs⟩
  · intro s d a h t i pa hs
    exact ⟨store_one hs exec_sb (by decide), store_one hs exec_sh (by decide), store_one hs exec_sw (by decide),
      store_one hs exec_sd (by decide), store_completes hs exec_sdp rfl (by simp [leBytes_length]) (by decide)⟩

end Sys2Proof.Scalar

/-! Permutes, moves and the passage of one element (R156 to R159). -/

namespace Sys2Proof.Lanes

open Sys2Proof.Machine Sys2Proof.Laws

/-! ### Words of a ready hart that write vector state -/

/-- No suspension left the word of a ready hart some elements only (R331). -/
theorem ready_allowed {s : State} (hs : Ready s) (i : Nat) : s.allowed i = true := by
  rw [State.allowed, ready_only hs]

theorem ready_masksOut {s : State} (hs : Ready s) (i : Nat) : s.masksOut i = maOf s.hart.vtype := by
  rw [State.masksOut, ready_allowed hs, Bool.and_true]

theorem groupsFit_cons {s : State} {v : BitVec 5} {vs : List (BitVec 5)} (first : GroupsFit s [v]) (rest : GroupsFit s vs) :
    GroupsFit s (v :: vs) := by
  simpa [GroupsFit] using And.intro (first v List.mem_cons_self) rest

theorem groupsFit_swap {s : State} {v w : BitVec 5} {vs : List (BitVec 5)} (h : GroupsFit s (v :: w :: vs)) : GroupsFit s (w :: v :: vs) :=
  fun u hu => h u ((List.Perm.swap v w vs).mem_iff.1 hu)

section
variable {s t : State} {j : Instr} {vs : List (BitVec 5)} {f : State → Res}

/-- A word whose groups fit and which writes vector state alone completes. -/
theorem grouped_completes (hs : Ready s) (meaning : Machine.exec j s = s.word fun s => Machine.guard (s.groups vs) (f s))
    (fit : GroupsFit s vs) (result : f s = .ok t) (only : VectorOnly s t) : Machine.exec j s = completes s t := by
  rw [meaning]
  exact word_vector s t _ hs (by rw [guard_groups s vs _ fit, result]) only

/-- A form that gives a container for each element of vd. -/
theorem permute_completes {d : BitVec 5} {p : BitVec 4} {g : State → Nat → Nat} {r : Nat → Nat} (hs : Ready s)
    (meaning : Machine.exec j s = s.permute d vs p g) (fit : GroupsFit s (d :: vs)) (value : g s = r) :
    Machine.exec j s = completes s (s.putElems s.hart.sew d.toNat p fun i => (r i, 0)) :=
  grouped_completes hs meaning fit (by rw [value]) (VectorOnly.putElems ..)

end

/-! ### Elements that a form writes or leaves -/

/-- An element of a group written where a value is given for it, and else unchanged. -/
def putSome (t : Hart) (sew vd i : Nat) : Option Nat → Hart
  | some c => t.setElem sew vd i c
  | none => t

section
variable (t : Hart) (sew vd i : Nat)

@[simp] theorem putSome_some (c : Nat) : putSome t sew vd i (some c) = t.setElem sew vd i c := rfl

@[simp] theorem putSome_none : putSome t sew vd i none = t := rfl

@[simp] theorem putSome_ite (c : Prop) [Decidable c] (x y : Option Nat) :
    putSome t sew vd i (if c then x else y) = if c then putSome t sew vd i x else putSome t sew vd i y :=
  apply_ite ..

end

/-- The elements below VL of the group at vd, written where a value is given. -/
def putBelow (h : Hart) (vd : Nat) (r : Nat → Option Nat) : Hart :=
  (List.range h.vln).foldl (fun t i => putSome t h.sew vd i (r i)) h

theorem putBelow_vectorOnly (s : State) (vd : Nat) (r : Nat → Option Nat) : VectorOnly s { s with hart := putBelow s.hart vd r } := by
  refine VectorOnly.elems _ _ (fun t i => ?_) s
  cases r i with
  | some c => exact VectorOnly.setElem ..
  | none => exact VectorOnly.refl t

/-- A form that goes over the elements below VL and writes some of them. -/
theorem writes_complete {s : State} {j : Instr} {vs : List (BitVec 5)} {vd : Nat} {r : Nat → Option Nat} {g : State → Hart} (hs : Ready s)
    (meaning : Machine.exec j s = s.word fun s => Machine.guard (s.groups vs) (.ok { s with hart := g s })) (fit : GroupsFit s vs)
    (result : g s = putBelow s.hart vd r) : Machine.exec j s = completes s { s with hart := putBelow s.hart vd r } :=
  grouped_completes hs meaning fit (by rw [result]) (putBelow_vectorOnly ..)

/-! ### The elements that a predicate selects -/

/-- Below an element of a range stand the selected ones of the shorter range. -/
theorem selected_below (q : Nat → Bool) {i n : Nat} (h : i ≤ n) :
    (((List.range n).filter q).filter fun k => k < i) = (List.range i).filter q := by
  induction n, h using Nat.le_induction with
  | base => exact List.filter_eq_self.2 fun k hk => decide_eq_true (List.mem_range.1 (List.mem_of_mem_filter hk))
  | succ n le ih =>
    have last : (([n].filter q).filter fun k => k < i) = [] :=
      List.filter_eq_nil_iff.2 fun k hk => by
        have := List.mem_singleton.1 (List.mem_of_mem_filter hk)
        simpa [this] using le
    rw [List.range_succ, List.filter_append, List.filter_append, ih, last, List.append_nil]

/-- A pass over a range that counts the selected elements gives each the number of those below it. -/
theorem counted_pass {α : Type} (q : Nat → Bool) (put : α → Nat → Nat → α) (skip : α → Nat → α) (a : α) (n : Nat) :
    (List.range n).foldl (fun (t : α × Nat) i => if q i then (put t.1 i t.2, t.2 + 1) else (skip t.1 i, t.2)) (a, 0) =
      ((List.range n).foldl (fun t i => if q i then put t i ((List.range i).filter q).length else skip t i) a,
        ((List.range n).filter q).length) := by
  induction n with
  | zero => rfl
  | succ n ih =>
    rw [List.range_succ, List.foldl_append, List.foldl_append, List.filter_append, ih]
    cases h : q n <;> simp [h]

/-! ### Permutes -/

section
variable {s : State} {d a b : BitVec 5} {p : BitVec 4}

/-- The values that vslideup writes: none below the distance x, whatever the mask (R157). -/
def slidUp (s : State) (x : Nat) (b : BitVec 5) (p : BitVec 4) (i : Nat) : Option Nat :=
  if i < x then none else if s.active p i then some (s.hart.elem s.hart.sew b.toNat (i - x))
  else if maOf s.hart.vtype then some 0 else none

theorem vslideup_writes (hs : Ready s) (fit : GroupsFit s [d, b]) : Machine.exec (.vslideup d a b p) s =
    completes s { s with hart := putBelow s.hart d.toNat (slidUp s (s.x a).toNat b p) } := by
  refine writes_complete hs exec_vslideup fit (List.foldl_ext _ _ _ fun t i _ => ?_)
  simp only [ready_masksOut hs, slidUp, putSome_ite, putSome_some, putSome_none]

/-- The values that vcompress writes: those of the selected elements in order, and after them zeros under MA (R157). -/
def compressed (h : Hart) (b : BitVec 5) (p : BitVec 4) (j : Nat) : Option Nat :=
  match ((List.range h.vln).filter fun i => h.pbit p.toNat i)[j]? with
  | some i => some (h.elem h.sew b.toNat i)
  | none => if maOf h.vtype then some 0 else none

theorem vcompress_writes (hs : Ready s) (fit : GroupsFit s [d, b]) : Machine.exec (.vcompress d b p) s =
    completes s { s with hart := putBelow s.hart d.toNat (compressed s.hart b p) } := by
  refine writes_complete hs exec_vcompress fit (List.foldl_ext _ _ _ fun t j _ => ?_)
  rw [ready_allowed hs, compressed]
  cases ((List.range s.hart.vln).filter fun i => s.hart.pbit p.toNat i)[j]? with
  | some i => rfl
  | none => simp only [putSome_ite, putSome_some, putSome_none, Bool.not_true, Bool.false_eq_true, if_false]

/-- The values that vexpand writes: at a selected place the element numbered by the selected places below it (R157). -/
def expanded (h : Hart) (b : BitVec 5) (p : BitVec 4) (i : Nat) : Option Nat :=
  if h.pbit p.toNat i then
    some (h.elem h.sew b.toNat (((List.range h.vln).filter fun i => h.pbit p.toNat i).filter fun k => k < i).length)
  else if maOf h.vtype then some 0 else none

/-- The count that vexpand keeps as it goes up is the number of selected places below. -/
theorem vexpand_writes (hs : Ready s) (fit : GroupsFit s [d, b]) : Machine.exec (.vexpand d b p) s =
    completes s { s with hart := putBelow s.hart d.toNat (expanded s.hart b p) } := by
  refine writes_complete hs exec_vexpand fit ?_
  rw [counted_pass (α := Hart) (fun i => s.hart.pbit p.toNat i)
    (fun t i k => if s.allowed i then t.setElem s.hart.sew d.toNat i (s.hart.elem s.hart.sew b.toNat k) else t)
    (fun t i => if s.masksOut i then t.setElem s.hart.sew d.toNat i 0 else t)]
  refine List.foldl_ext _ _ _ fun t i hi => ?_
  rw [ready_allowed hs, ready_masksOut hs, ← selected_below _ (List.mem_range.1 hi).le, if_pos rfl]
  simp only [expanded, putSome_ite, putSome_some, putSome_none]

end

/-! ### Moves -/

section
variable {s : State} {d a b : BitVec 5} {p : BitVec 4}

theorem entries_vectorOnly (s : State) (sew vd : Nat) (c : Nat → Nat) (l : List Nat) :
    VectorOnly s { s with hart := l.foldl (fun k e => k.setEntry sew vd e (c e)) s.hart } :=
  VectorOnly.elems l _ (fun t e => VectorOnly.setEntry t sew vd e (c e)) s

/-- vmv without blocks copies containers (R158). -/
theorem vmv_elements (hs : Ready s) (fit : GroupsFit s [d, b]) (blk : blkOf s.hart.vtype = false) : Machine.exec (.vmv d b p) s =
    completes s (s.putElems s.hart.sew d.toNat p fun i => (s.hart.elem s.hart.sew b.toNat i, 0)) :=
  grouped_completes hs exec_vmv fit (congrArg Res.ok (if_neg (ne_true_of_eq_false blk))) (VectorOnly.putElems ..)

/-- Under BLK the side-array entries of the blocks below VL follow (R158). -/
theorem vmv_blocks (hs : Ready s) (fit : GroupsFit s [d, b]) (blk : blkOf s.hart.vtype = true) :
    let t : State := s.putElems s.hart.sew d.toNat p fun i => (s.hart.elem s.hart.sew b.toNat i, 0)
    Machine.exec (.vmv d b p) s = completes s { t with
      hart := (List.range (s.hart.vln / 16)).foldl
        (fun k e => k.setEntry s.hart.sew d.toNat e (s.hart.entry s.hart.sew b.toNat e)) t.hart } :=
  grouped_completes hs exec_vmv fit (congrArg Res.ok (if_pos blk)) ((VectorOnly.putElems ..).trans (entries_vectorOnly ..))

theorem vmix_mixes (hs : Ready s) (fit : GroupsFit s [d, b]) (sew : s.hart.sew = 32) : Machine.exec (.vmix d a b p) s =
    completes s (s.putElems s.hart.sew d.toNat p fun i =>
      ((mix (BitVec.ofNat 32 (s.hart.elem s.hart.sew b.toNat i)) (BitVec.ofNat 32 (s.x a).toNat)).toNat, 0)) := by
  rw [BitVec.ofNat_toNat, sew]
  exact grouped_completes hs exec_vmix fit (if_neg (not_not.2 sew)) (VectorOnly.putElems ..)

theorem vmix_faults (hs : Ready s) (fit : GroupsFit s [d, b]) (sew : s.hart.sew ≠ 32) :
    Machine.exec (.vmix d a b p) s = traps s (Trap.plain 0x0A 0) := by
  rw [exec_vmix]
  exact word_trap s _ _ hs (by rw [guard_groups s _ _ fit, if_pos sew]; rfl)

end

/-! ### One element -/

section
variable {s : State} {d a b : BitVec 5}

theorem vext_reads (hs : Ready s) (fit : GroupsFit s [b]) : Machine.exec (.vext d a b) s = completes s (s.setX d
    (if (s.x a).toNat < s.hart.mvl.toNat then
      BitVec.ofInt 64 (BitVec.ofNat s.hart.sew (s.hart.elem s.hart.sew b.toNat (s.x a).toNat)).toInt else 0)) := by
  rw [exec_vext]
  exact word_hart s _ (s.hart.setReg d _) hs (guard_groups s _ _ fit) (by simp) (by simp) (by simp) (by simp)

theorem vins_writes (hs : Ready s) (fit : GroupsFit s [d]) : Machine.exec (.vins d a b) s = completes s
    (if (s.x b).toNat < s.hart.mvl.toNat then
      { s with hart := s.hart.setElem s.hart.sew d.toNat (s.x b).toNat (s.x a).toNat } else s) := by
  refine grouped_completes hs exec_vins fit rfl ?_
  split
  · exact VectorOnly.setElem ..
  · exact VectorOnly.refl s

end

/-- Settles O16: the forms of R157 and R158 that write by R145 are `State.permute`, and the others go once over the elements below VL. -/
theorem vectorPermutesAndMoves : Obligations.VectorPermutesAndMoves := by
  unfold Obligations.VectorPermutesAndMoves
  refine ⟨?_, ?_⟩
  · intro s d a b p hs fit
    exact ⟨fun index => permute_completes hs exec_vperm (groupsFit_swap (groupsFit_cons index fit)) rfl, vslideup_writes hs fit,
      permute_completes hs exec_vslidedown fit rfl, vcompress_writes hs fit, vexpand_writes hs fit⟩
  · intro s d a b p hs
    exact ⟨fun fit => permute_completes hs exec_vid fit rfl, fun fit => permute_completes hs exec_vsplat fit rfl, vmv_elements hs,
      vmv_blocks hs, vmix_mixes hs, vmix_faults hs, vext_reads hs, vins_writes hs⟩

end Sys2Proof.Lanes

/-! The system call, the breakpoint, and the forms that only privilege S may run (R103, R313, R334, R345). -/

namespace Sys2Proof.Scalar

open Sys2Proof.Machine Sys2Proof.Laws

/-! ### A trap that follows retirement -/

/-- Without REWIND the writes of a retiring convoy join the hart's held writes (R382). -/
theorem keepWrites_straight {pre h : Hart} (c : Convoy) (was : pre.rewEn = false) (off : h.rewEn = false) :
    Hart.keepWrites pre h c = { h with held := h.held ++ c.pend } := by
  simp only [Hart.keepWrites, was, off, Bool.not_false, Bool.and_self, if_true]

/-- The retirement of a convoy that is plain but for a trap that it leaves: the trap is taken between it and the next convoy, with the
lines that the convoy was fetched from still at hand (R334). -/
theorem retire_then_trap {t : State} {pre k : Hart} {next : Word} {trap : Trap} (hc : Plain { t.conv with after := none })
    (after : t.conv.after = some trap) (goes : t.conv.npc.getD (t.hart.pc + 4) = next)
    (kept : Hart.keepWrites pre (Hart.skipDone pre (t.hart.retired t.conv next)) t.conv = k)
    (stays : k.status ≠ .gone) (quiet : ∀ w ∈ k.held, w.now = false) :
    t.retire pre = ({ t with
      hart := { k with got := t.hart.got }
      conv := Convoy.fresh
      hotPend := t.hotPend ++ t.conv.hot } : State).takeTrap trap t.hart.pc 0 false next none := by
  obtain ⟨len, -, -, -, samples, pubs, -, -, -⟩ := hc
  dsimp only at len samples pubs
  have later : (({ t with hart := k, conv := Convoy.fresh } : State).retireLater t.conv).release (fun w => w.now) =
      { t with hart := k, conv := Convoy.fresh, hotPend := t.hotPend ++ t.conv.hot } := by
    simp only [State.retireLater, samples, mergeSamples, pubs, List.map_nil, List.append_nil]
    exact release_now _ quiet
  have bytes : BitVec.ofNat 64 (4 * t.conv.len) = (4 : Word) := by
    rw [len]
    rfl
  have word : t.conv.len - 1 = 0 := by rw [len]
  simp only [State.retire, bytes, goes, kept, if_neg stays, after, later, word]

/-- A convoy that is a commit point and leaves a trap for its retirement. -/
def trapping (c : Convoy) (trap : Trap) : Convoy := { c with after := some trap, commit := true }

section
variable {s : State} {trap : Trap}

theorem trapping_plain (hs : Ready s) : Plain { trapping s.conv trap with after := none } := by
  obtain ⟨len, pend, tiles, vers, samples, pubs, -, cont, final⟩ := ready_plain hs
  exact ⟨len, pend, tiles, vers, samples, pubs, rfl, cont, final⟩

/-- Of the registers such a convoy changes those alone that every retirement does. -/
theorem trapping_leaves (hs : Ready s) (next : Word) :
    Hart.keepWrites s.hart (Hart.skipDone s.hart (s.hart.retired (trapping s.conv trap) next)) (trapping s.conv trap) =
      leave s.hart s.hart next 0 := by
  have fx : (trapping s.conv trap).fx = 0 := ready_fx hs
  have pend : (trapping s.conv trap).pend = [] := ready_pend hs
  have regs : Hart.skipDone s.hart (s.hart.retired (trapping s.conv trap) next) = leave s.hart s.hart next 0 :=
    (retired_plain s.hart s.hart next (trapping_plain hs) hs.whole).trans (by rw [fx])
  have off : (leave s.hart s.hart next 0).rewEn = false := hs.straight
  rw [regs, keepWrites_straight _ hs.straight off, pend, List.append_nil]

/-- A commit point that changes nothing but for leaving a trap retires, and the trap is taken with the next convoy in TEPC (R313, R334). -/
theorem word_then_trap {f : State → Res} (hs : Ready s) (hf : f s = .ok { s with conv := trapping s.conv trap }) :
    s.word f = .next (({ s with
      hart := { leave s.hart s.hart (s.hart.pc + 4) 0 with got := s.hart.got }
      conv := Convoy.fresh } : State).takeTrap trap s.hart.pc 0 false (s.hart.pc + 4) none) := by
  have goes : s.conv.npc.getD (s.hart.pc + 4) = s.hart.pc + 4 := by rw [ready_npc hs, Option.getD_none]
  have hot : (trapping s.conv trap).hot = [] := ready_hot hs
  have retires := retire_then_trap (t := { s with conv := trapping s.conv trap }) (trapping_plain hs) rfl goes (trapping_leaves hs _)
    (nofun : Status.running ≠ .gone) hs.quiet
  rw [State.word, if_neg (by simp [State.checksFirst, hs.straight]), hf]
  show Host.Outcome.next (if s.conv.len = 1 then State.retire { s with conv := trapping s.conv trap } s.hart else _) = _
  rw [if_pos (ready_len hs), retires, hot, List.append_nil]

end

/-! ### Privilege -/

/-- A form of privilege S at privilege U answers with the privilege trap, before it reads anything else (R103). -/
theorem super_denied {s : State} (hs : Ready s) (user : s.hart.priv = .u) (f : State → Res) :
    s.super f = traps s { s.denied with commit := true } := by
  refine word_trap s _ _ hs ?_
  rw [State.needS, user]
  rfl

/-- The forms on the entry of a physical page are of privilege S (R289, R293). -/
theorem onPage_denied {s : State} (hs : Ready s) (user : s.hart.priv = .u) (a : BitVec 5) (mask : Word) (f : State → Nat → Res) :
    s.onPage a mask f = traps s { s.denied with commit := true } := super_denied hs user _

/-- Settles O29: sys leaves a trap for its retirement, brk answers with one, and the privilege is the first check of the other forms. -/
theorem systemAndPrivilege : Obligations.SystemAndPrivilege := by
  unfold Obligations.SystemAndPrivilege
  refine ⟨fun s a hs => ⟨?_, ?_⟩, fun s d a b hs user i hi => ?_⟩
  · rw [exec_sys]
    exact word_then_trap hs rfl
  · rw [exec_brk]
    exact word_trap s _ _ hs rfl
  · simp only [List.mem_cons, List.not_mem_nil, or_false] at hi
    rcases hi with rfl | rfl | rfl | rfl | rfl | rfl | rfl | rfl
    · exact exec_tret.trans (super_denied hs user _)
    · exact exec_tlbinv.trans (super_denied hs user _)
    · exact exec_ptcinv.trans (super_denied hs user _)
    · exact exec_pgshare.trans (onPage_denied hs user ..)
    · exact exec_pgdrop.trans (onPage_denied hs user ..)
    · exact exec_pgmove.trans (super_denied hs user _)
    · exact exec_pghot.trans (onPage_denied hs user ..)
    · exact exec_halt.trans (super_denied hs user _)

end Sys2Proof.Scalar
